-- ==== Sys2Proof/Word.lean ====
section
/-!
DEFINITION. The word types of the EV4 and their plainest arithmetic.
-/
namespace Sys2Proof

/-- One byte (01 R10: multi-byte values are little-endian). -/
abbrev Byte := BitVec 8
/-- One 32-bit register (01 R25). -/
abbrev Word := BitVec 32
/-- One 64-bit word: a register pair (01 R27), an instruction word (03 R104) or a device register. -/
abbrev DWord := BitVec 64

namespace Word

/-- A 64-bit value from its even (low) and odd (high) register (01 R27). -/
def pair (lo hi : Word) : DWord := hi ++ lo

/-- The even register's half of a 64-bit value (01 R27). -/
def lo (d : DWord) : Word := d.truncate 32

/-- The odd register's half of a 64-bit value (01 R27). -/
def hi (d : DWord) : Word := (d >>> 32).truncate 32

/-- Bits `[hi:lo]` of a number, as a number (01 R10). -/
def bits (x hi lo : Nat) : Nat := x / 2 ^ lo % 2 ^ (hi + 1 - lo)

/-- Bit `i` of a number. -/
def bit (x i : Nat) : Bool := x.testBit i

/-- The two's complement reading of the low `w` bits of a number. -/
def toSigned (w x : Nat) : Int :=
  let y := x % 2 ^ w
  if y < 2 ^ (w - 1) then (y : Int) else (y : Int) - (2 ^ w : Nat)

/-- The low `w` bits of an integer in two's complement. -/
def ofSigned (w : Nat) (x : Int) : Nat := (x % (2 ^ w : Nat)).toNat

/-- The little-endian number held by a list of bytes, first byte lowest (00 R10). -/
def ofBytes : List Byte → Nat
  | [] => 0
  | b :: bs => b.toNat + 256 * ofBytes bs

/-- The low `n` bytes of a number, lowest first (00 R10). -/
def toBytes : Nat → Nat → List Byte
  | 0, _ => []
  | n + 1, x => BitVec.ofNat 8 x :: toBytes n (x / 256)

end Word
end Sys2Proof
end

