-- ==== Sys2Proof/Syntax.lean ====
section
/-!
DEFINITION. The steps of the EV4 as syntax: one constructor of `Instr` for each row of spec/opcode_table.json.
Rows 0 to 179 and UNASSIGNED_OPCODE are instruction words in the formats F2, F3, FI and FM of 03 R104 to R114; their
fields stand decoded in the shape records below.  The other rows are the indivisible steps of the device's engines, home
slices, dispatcher, links, host interface and management core (95); their parameters are what the agent names when it acts.
-/
namespace Sys2Proof

/-- The element types of 02 Table 2.1, in the order of their codes. -/
inductive Ty where
  | s32 | n32 | s64 | n64 | s16 | n16 | s8 | n8 | f32 | f64 | bf16 | f16 | e4m3 | e5m2 | mx4 | b32
deriving DecidableEq, Repr

/-- The rounding modes of 02 Table 2.3, in the order of their codes. -/
inductive Rnd where
  | rne | rtz | rup | rdn
deriving DecidableEq, Repr

/-- SCOPE of 03 Table 3.8, the two reserved codes among them. -/
inductive Scope where
  | thread | group | team | gang | device | system | rsv6 | rsv7
deriving DecidableEq, Repr

/-- ORD of 03 Table 3.8. -/
inductive Ord where
  | relaxed | acquire | release | acqRel
deriving DecidableEq, Repr

/-- CPOL of 03 Table 3.8, the three reserved codes among them. -/
inductive Cpol where
  | dflt | stream | keep | noL1 | noAlloc | rsv5 | rsv6 | rsv7
deriving DecidableEq, Repr

/-- The protection class field PCL, and the DPC field of a descriptor (03 Table 3.2, Table 3.1). -/
inductive Cls where
  | inherit | plain | dup | trip
deriving DecidableEq, Repr

/-- The common fields of every instruction word (03 Table 3.2): park marker, class, guard negate, guard predicate. -/
structure Hdr where
  pk  : Bool
  pcl : Cls
  gn  : Bool
  gp  : Fin 8
deriving DecidableEq, Repr

/-- The 10-bit operand codes of 03 Table 3.5.  A field that names a predicate, a loop, an index, a queue or another small
number (03 R113) holds that number as its code, so it reads here as `v n`. -/
inductive Opnd where
  | v (n : Fin 256)      -- 0x000 to 0x0FF, vector register
  | s (n : Fin 512)      -- 0x100 to 0x2FF, uniform register
  | sp (n : Fin 128)     -- 0x300 to 0x37F, special register, 01 Table 1.4
  | x (n : Fin 4)        -- 0x380 to 0x383, v[x0] to v[x3]
  | rsvA (n : Fin 60)    -- 0x384 to 0x3BF, reserved
  | int (n : Fin 32)     -- 0x3C0 to 0x3DF, integers
  | fc (n : Fin 16)      -- 0x3E0 to 0x3EF, floating-point constants
  | rsvB (n : Fin 15)    -- 0x3F0 to 0x3FE, reserved
  | z                    -- 0x3FF
deriving DecidableEq, Repr

/-- A permutation code of 03 Table 3.7 (15 is illegal). -/
abbrev Perm := Fin 16

/-- Format F2 (03 Table 3.3). -/
structure F2 where
  h   : Hdr
  d   : Opnd
  a   : Opnd
  pa  : Perm
  b   : Opnd
  pb  : Perm
  ty  : Ty
  rnd : Rnd
  sat : Bool
  sub : Fin 8
deriving DecidableEq, Repr

/-- Format F3 (03 Table 3.3). -/
structure F3 where
  h  : Hdr
  d  : Opnd
  a  : Opnd
  pa : Perm
  b  : Opnd
  pb : Perm
  c  : Opnd
deriving DecidableEq, Repr

/-- Format FI (03 Table 3.3). -/
structure FI where
  h   : Hdr
  d   : Opnd
  a   : Opnd
  pa  : Perm
  imm : BitVec 24
deriving DecidableEq, Repr

/-- The extension of a memory instruction that XF selects (03 Table 3.4): none, an OFF word, an AEXT word, or one of the
reserved values 0b011 to 0b111, which take no FX word (03 R114). -/
inductive MemExt where
  | none
  | off (fx : DWord)
  | aext (fx : DWord)
  | rsv (n : Fin 5)
deriving DecidableEq, Repr

/-- Format FM (03 Table 3.3). -/
structure FM where
  h     : Hdr
  d     : Opnd
  a     : Opnd
  pa    : Perm
  b     : Opnd
  scope : Scope
  ord   : Ord
  cpol  : Cpol
  width : Fin 8
  ext   : MemExt
deriving DecidableEq, Repr

/-- A flit (17 Table 17.2): its control fields and its 32 data bytes. -/
structure Flit where
  vc    : Nat
  head  : Bool
  tail  : Bool
  trunc : Bool
  pois  : Nat
  cvc   : Nat
  ccnt  : Nat
  fcrc  : Nat
  data  : List Byte
deriving DecidableEq, Repr

/-- The settings of a configuration-store bank (18 Table 18.4): the default checking mode by its CMODE code, CONFREQ, CAP, THRESH,
LOCKED, the spill area in MiB, the default WALL in ms, the functions with the debug permission, and by tenant the masks of permitted
checking modes (bits 0 to 2: Speed, Verified, Sentinel) and explicit classes (plain, duplicated, triplicated); unlisted 7. -/
structure Settings where
  mode    : Nat
  confreq : Bool
  cap     : Nat
  thresh  : Nat
  locked  : Bool
  spill   : Nat
  wall    : Nat
  debug   : List Nat
  modes   : List (Nat × Nat)
  classes : List (Nat × Nat)
deriving DecidableEq, Repr

/-- The content of a signed record of the configuration store (18 Table 18.4). -/
inductive StoreRec where
  | repair (data : List Byte) (quads spares : List (Nat × Nat))
  | ownerKey (key : List Byte)
  | settings (x : Settings)
  | uncollar (core seq : Nat)
  | minFw (version : Nat) (byOwner : Bool)
deriving DecidableEq, Repr

/-- The step of an atomic at its place (08 R232 to R234): a read-modify-write, a compare and swap, or an exchange. -/
inductive AtomOp where
  | rmw (aop : Nat) (ty : Ty) (b : Nat)
  | cas (b c : Nat)
  | xchg (b : Nat)
deriving DecidableEq, Repr

/-- What a packet between devices asks for or answers (17 R483, R484). -/
inductive PeerBody where
  | rd (pa n : Nat)
  | wr (pa : Nat) (bytes : List Byte) (pois : Bool)
  | at (pa n : Nat) (op : AtomOp)
  | data (bytes : List Byte) (pois : Bool)
  | done
  | refuse
deriving DecidableEq, Repr

/-- A packet on a device link (17 R481); `id` pairs an answer with its request. -/
structure Packet where
  sdev  : Nat
  ddev  : Nat
  group : Nat
  gen   : Nat
  hops  : Nat
  id    : Nat
  body  : PeerBody
deriving DecidableEq, Repr

/-- The steps of the EV4: one constructor for each row of spec/opcode_table.json: the instructions in the table's order with
UNASSIGNED_OPCODE after them; then the steps that the device takes on its own; then those that the outside asks for or brings about.
A constructor of an instruction carries its format's record, with its FX word where the opcode is marked +FX (03 R111) and its
rounding mode where OP[1:0] gives it (03 R108). -/
inductive Instr where
  | bra (f : FI)
  | call (f : FI)
  | loop (f : FI) (fx : DWord)
  | loopw (f : FI) (fx : DWord)
  | trap (f : FI)
  | bkpt (f : FI)
  | waitev (f : FI)
  | nop (f : F2)
  | brx (f : F2)
  | callx (f : F2)
  | ret (f : F2)
  | endl (f : F2)
  | exit (f : F2)
  | yield (f : F2)
  | iadd (f : F2)
  | isub (f : F2)
  | imul (f : F2)
  | imulh (f : F2)
  | imin (f : F2)
  | imax (f : F2)
  | iabs (f : F2)
  | andB (f : F2)
  | orB (f : F2)
  | xorB (f : F2)
  | andn (f : F2)
  | shl (f : F2)
  | shr (f : F2)
  | sar (f : F2)
  | rol (f : F2)
  | popc (f : F2)
  | clz (f : F2)
  | ctz (f : F2)
  | brev (f : F2)
  | bfx (f : F2)
  | lea (f : F2)
  | icmp (f : F2)
  | sel (f : F2)
  | mov (f : F2)
  | movToIndex (f : F2)
  | movFromIndex (f : F2)
  | pick (f : F2)
  | pickFirst (f : F2)
  | cvti (f : F2)
  | imad (f : F3)
  | imadwS32 (f : F3)
  | imadwN32 (f : F3)
  | lop3 (f : F3) (fx : DWord)
  | fshl (f : F3)
  | bfi (f : F3)
  | prmt (f : F3)
  | movi (f : FI)
  | movh (f : FI)
  | fadd (f : F2)
  | fsub (f : F2)
  | fmul (f : F2)
  | fmin (f : F2)
  | fmax (f : F2)
  | fcmp (f : F2)
  | fclass (f : F2)
  | fcvt (f : F2)
  | frnd (f : F2)
  | fscl (f : F2)
  | frcp (f : F2)
  | frsq (f : F2)
  | fsqrt (f : F2)
  | fdivs (f : F2)
  | fex2 (f : F2)
  | flg2 (f : F2)
  | fsin (f : F2)
  | fcos (f : F2)
  | dadd (f : F2)
  | dsub (f : F2)
  | dmul (f : F2)
  | dcmp (f : F2)
  | dcvt (f : F2)
  | hadd2 (f : F2)
  | hmul2 (f : F2)
  | hmax2 (f : F2)
  | cadd (f : F2)
  | cmul (f : F2)
  | ccnj (f : F2)
  | ffma (r : Rnd) (f : F3)
  | dfma (r : Rnd) (f : F3)
  | hfma2Bf16 (r : Rnd) (f : F3)
  | hfma2F16 (r : Rnd) (f : F3)
  | cfma (r : Rnd) (f : F3)
  | cbfly (r : Rnd) (f : F3)
  | fdot2Bf16 (r : Rnd) (f : F3)
  | fdot2F16 (r : Rnd) (f : F3)
  | plop (f : F2)
  | pmovSave (f : F2)
  | pmovLoad (f : F2)
  | pmovNz (f : F2)
  | pcmp (f : F2)
  | psel (f : F2)
  | vote (f : F2)
  | ballot (f : F2)
  | matchT (f : F2)
  | shfl (f : F2)
  | scani (f : F2)
  | scanx (f : F2)
  | redg (f : F2)
  | rank (f : F2)
  | ldg (f : FM)
  | stg (f : FM)
  | lds (f : FM)
  | sts (f : FM)
  | ldk (f : FM)
  | stk (f : FM)
  | ldc (f : FM)
  | ldga (f : FM)
  | stgr (f : FM)
  | ldsx (f : FM)
  | stsx (f : FM)
  | atomg (f : FM)
  | atoms (f : FM)
  | casg (f : FM)
  | cass (f : FM)
  | xchg (f : FM)
  | red (f : FM)
  | fence (f : FM)
  | cctlPref (f : FM)
  | cctlClean (f : FM)
  | cctlInval (f : FM)
  | cctlDiscard (f : FM)
  | pref (f : FM)
  | cpy (f : F3) (fx : DWord)
  | cpyg (f : F3) (fx : DWord)
  | cpys (f : F3) (fx : DWord)
  | cpyf (f : F3)
  | cpyq (f : F3)
  | xcpy (f : F3) (fx : DWord)
  | bini (f : F3)
  | barv (f : F3)
  | barx (f : F3)
  | bwait (f : F3)
  | btry (f : F3)
  | hbcfg (f : F3)
  | hbar (f : F3)
  | hbara (f : F3)
  | hbarw (f : F3)
  | qini (f : F3)
  | qpush (f : F3)
  | qpop (f : F3)
  | qtry (f : F3)
  | cset (f : F3)
  | sign (f : F3)
  | dqpush (f : F3)
  | dqpop (f : F3)
  | dqstl (f : F3)
  | tcfg (f : F3)
  | tld (f : F3) (fx : DWord)
  | tldq (f : F3) (fx : DWord)
  | tzr (f : F3)
  | tmov (f : F3)
  | mma (f : F3) (fx : DWord)
  | mmas (f : F3) (fx : DWord)
  | azr (f : F3)
  | azrRelease (f : F3)
  | ald (f : F3) (fx : DWord)
  | adrn (f : F3) (fx : DWord)
  | amov (f : F3) (fx : DWord)
  | mxsc (f : F3)
  | tstat (f : F3)
  | csrr (f : FI)
  | csrw (f : FI)
  | sigacc (f : F2)
  | heart (f : F2)
  | clkr (f : F2)
  | regq (f : F2)
  | launch (f : F2)
  | tretResume (f : F2)
  | tretSkip (f : F2)
  | pcls (f : F2)
  | errr (f : F2)
  | sleep (f : F2)
  | flagsGet (f : F2)
  | flagsClr (f : F2)
  | flagsSet (f : F2)
  | kill (f : F2)
  | unassignedOpcode (h : Hdr) (op : Fin 512) (low : BitVec 48)
  | blockFetch
  | loadDataReturn (gk : Nat) (tok : Nat)
  | writeAck (gk : Nat) (tok : Nat)
  | scratchRequestServe (gk : Nat)
  | waitTimeout (gk : Nat)
  | sleepExpiry (gk : Nat)
  | epochSweepEnd (core : Nat) (scope : Nat)
  | moverDescriptorStart (core : Nat)
  | moverWrite (core : Nat) (id : Nat)
  | moverComplete (core : Nat) (id : Nat)
  | copyEngineStart (e : Nat)
  | copyEngineComplete (e : Nat)
  | engineOpBegin (q : Nat) (id : Nat)
  | engineOpComplete (q : Nat) (id : Nat)
  | passGrant (q : Nat)
  | passComplete (q : Nat) (id : Nat) (p : Nat)
  | amaxMerge (q : Nat) (id : Nat)
  | colourFlip (gang : Nat) (k : Nat)
  | homeRd (line : Nat)
  | homeWr (line : Nat)
  | homeAt (line : Nat)
  | homeReg (line : Nat)
  | homeFlush (line : Nat)
  | homeMpart (line : Nat)
  | homeLost (line : Nat) (cl : Nat)
  | homeBase (line : Nat)
  | homeMoveComplete (line : Nat)
  | mergeUnitReg (cl : Nat) (line : Nat)
  | mergeUnitFlush (cl : Nat) (line : Nat)
  | mergeUnitMreq (cl : Nat) (line : Nat)
  | mergeUnitRack (cl : Nat) (line : Nat)
  | coreRack (core : Nat) (line : Nat)
  | coreMreq (core : Nat) (line : Nat)
  | recordFetch (r : Nat)
  | teamPlace
  | teamEnd (tk : Nat)
  | launchComplete (kid : Nat)
  | coreHalted (gang : Nat)
  | contextSave (tk : Nat)
  | contextRestore (gang : Nat) (bad : List (Nat × Nat))
  | slotTableApply (core : Nat)
  | wallClockExpiry (kid : Nat)
  | heartbeatExpiry (tk : Nat)
  | scoreboardMismatch (gk : Nat)
  | replayPlace
  | authRunPlace
  | runEnd (tk : Nat)
  | versionCommit (line : Nat)
  | apronForced (slice : Nat)
  | releaseAfterExpiry (line : Nat) (entry : Nat)
  | demeritDecay
  | tlbinvDone (t : Nat)
  | migrationFenceDone (t : Nat)
  | powerUp
  | bringUpPhaseEnd (failure : Option Nat)
  | ringDoorbell (fn : Nat) (r : Nat) (val : Nat)
  | lqctlWrite (fn : Nat) (r : Nat) (val : Nat)
  | lcmdPreempt (fn : Nat) (kid : Nat)
  | lcmdResume (fn : Nat) (kid : Nat)
  | lcmdKill (fn : Nat) (kid : Nat)
  | slotTableWrite (fn : Nat) (core : Nat) (off : Nat) (val : Nat)
  | chkctlWrite (fn : Nat) (val : Nat)
  | hostDebugResume (fn : Nat) (gk : Nat)
  | tcmdRetry (fn : Nat) (t : Nat) (kid : Nat)
  | tcmdDeny (fn : Nat) (t : Nat) (kid : Nat)
  | tcmdResume (fn : Nat) (t : Nat) (kid : Nat)
  | tcmdSkip (fn : Nat) (t : Nat) (kid : Nat)
  | tcmdEnd (fn : Nat) (t : Nat) (kid : Nat)
  | tlbinv (fn : Nat) (t : Nat) (val : Nat)
  | tlbWalk (core : Nat) (t : Nat) (va : Nat)
  | migrationFence (fn : Nat) (t : Nat) (val : Nat)
  | erenWrite (fn : Nat) (t : Nat) (val : Nat)
  | registerWrite (fn : Nat) (off : Nat) (val : Nat)
  | patrolScrub (pa : Nat)
  | deviceFatalError (unit : Nat) (die : Nat)
  | containmentReset (cl : Nat)
  | clusterUnfence (cl : Nat)
  | flitReceive (port : Nat) (f : Flit)
  | receipt (leaf : Nat) (dst : Nat) (vc : Nat) (n : Nat)
  | audit (port : Nat) (vc : Nat)
  | auditReceive (port : Nat)
  | creditParityFail (port : Nat) (vc : Nat)
  | auditRequest (port : Nat)
  | portDown (port : Nat)
  | bundleReroute (a : Nat) (b : Nat)
  | linkTrained (link : Nat) (peer : Nat)
  | linkRetrainFail (link : Nat)
  | peerPacketReceive (link : Nat) (p : Packet)
  | fabcmdSave (fn : Nat)
  | fabcmdRestore (fn : Nat)
  | fabcmdClear (fn : Nat)
  | bar2Access (off : Nat) (n : Nat) (wr : Option (List Byte))
  | vfFlr (fn : Nat)
  | pfFlr
  | devctlReset (fn : Nat) (val : Nat)
  | pwrctlWrite (fn : Nat) (val : Nat)
  | clockStepChange (die : Nat) (n : Nat)
  | thermalTrip (temp : Nat)
  | powerFault
  | configUpdate (r : StoreRec) (sig : List Byte)
  | keySet (t : Nat) (payload : List Byte)
  | boundEvidence (fn : Nat) (payload : List Byte)
  | healthRecordRequest (nonce : List Byte)
  | getVersion (fn : Nat) (req : List Byte)
  | getCapabilities (fn : Nat) (req : List Byte)
  | negotiateAlgorithms (fn : Nat) (req : List Byte)
  | getDigests (fn : Nat) (req : List Byte)
  | getCertificate (fn : Nat) (req : List Byte)
  | challenge (fn : Nat) (req : List Byte)
  | getMeasurements (fn : Nat) (req : List Byte)
  | keyExchange (fn : Nat) (req : List Byte)
  | finish (fn : Nat) (req : List Byte)
  | firmwareLoad (image : List Byte) (version : Nat) (sig : List Byte)
  | powerLoss
  | matrixDutyThrottle (q : Nat) (on : Bool)
  | managementCoreCopy (e : Nat) (src : Nat) (dst : Nat) (len : Nat)
  | ideKeyManagement (stream : Nat) (key : List Byte)
deriving DecidableEq, Repr

end Sys2Proof
end

