-- ==== Sys2Proof/Machine/Opcode.lean ====
section
/-!
DEFINITION. What the opcode field alone decides (03 R104, R114, Table 3.10): the format, and with XF the size.
-/
namespace Sys2Proof.Machine
open Sys2Proof

/-- The formats of 03 Table 3.3. -/
inductive Form where
  | f2 | f3 | fi | fm
deriving DecidableEq, Repr

/-- OP of an instruction word (03 Table 3.2). -/
def opOf (w : Nat) : Nat := Word.bits w 56 48

/-- The opcodes marked +FX (03 Table 3.10). -/
def opHasFx (op : Nat) : Bool :=
  [0x003, 0x004, 0x083, 0x1B0, 0x1B1, 0x1B2, 0x1B5, 0x1D1, 0x1D2, 0x1D5, 0x1D6, 0x1D8, 0x1D9, 0x1DA].contains op

/-- The classes by their codes (03 Table 3.1, Table 3.2). -/
def clsOfNat (n : Nat) : Cls := match n with | 0 => .inherit | 1 => .plain | 2 => .dup | _ => .trip

/-- Whether a code is assigned (03 R122, Table 3.10). -/
def opAssigned (op : Nat) : Bool :=
  (0x001 ≤ op && op ≤ 0x007) || (0x020 ≤ op && op ≤ 0x026) || (0x040 ≤ op && op ≤ 0x059) || (0x080 ≤ op && op ≤ 0x086)
    || (0x0A0 ≤ op && op ≤ 0x0A1) || (0x0C0 ≤ op && op ≤ 0x0DC) || (0x100 ≤ op && op ≤ 0x11F) || (0x140 ≤ op && op ≤ 0x14B)
    || (0x160 ≤ op && op ≤ 0x16A) || (0x170 ≤ op && op ≤ 0x175) || (0x178 ≤ op && op ≤ 0x17A) || (0x1B0 ≤ op && op ≤ 0x1C7)
    || (0x1D0 ≤ op && op ≤ 0x1DC) || (0x1F0 ≤ op && op ≤ 0x1FC)

/-- The format of a code (03 Table 3.10); the codes of no range are read as F2. -/
def opForm (op : Nat) : Form :=
  if op < 0x020 || (0x0A0 ≤ op && op < 0x0C0) || (0x1F0 ≤ op && op < 0x1F2) then .fi
  else if (0x080 ≤ op && op < 0x0A0) || (0x100 ≤ op && op < 0x140) || (0x1B0 ≤ op && op < 0x1F0) then .f3
  else if 0x160 ≤ op && op < 0x1B0 then .fm
  else .f2

/-- The size in bytes of the instruction whose first word is w (03 R114). -/
def wordSize (w : Nat) : Nat :=
  let op := opOf w
  if opHasFx op then 16
  else if opAssigned op && opForm op == .fm && (w % 8 = 1 || w % 8 = 2) then 16
  else 8

/-! ## Operand codes (03 Table 3.5) -/

/-- The operand of a 10-bit code. -/
def opndOf (c : Nat) : Opnd :=
  if h : c < 0x100 then .v ⟨c, h⟩
  else if h : c - 0x100 < 512 then .s ⟨c - 0x100, h⟩
  else if h : c - 0x300 < 128 then .sp ⟨c - 0x300, h⟩
  else if h : c - 0x380 < 4 then .x ⟨c - 0x380, h⟩
  else if h : c - 0x384 < 60 then .rsvA ⟨c - 0x384, h⟩
  else if h : c - 0x3C0 < 32 then .int ⟨c - 0x3C0, h⟩
  else if h : c - 0x3E0 < 16 then .fc ⟨c - 0x3E0, h⟩
  else if h : c - 0x3F0 < 15 then .rsvB ⟨c - 0x3F0, h⟩
  else .z

/-- The code of an operand. -/
def opndCode : Opnd → Nat
  | .v n => n.val
  | .s n => 0x100 + n.val
  | .sp n => 0x300 + n.val
  | .x n => 0x380 + n.val
  | .rsvA n => 0x384 + n.val
  | .int n => 0x3C0 + n.val
  | .fc n => 0x3E0 + n.val
  | .rsvB n => 0x3F0 + n.val
  | .z => 0x3FF

/-! ## Extension words of memory instructions (03 Table 3.4) -/

/-- The signed offset of an OFF or AEXT word. -/
def extOff : MemExt → Int
  | .off fx | .aext fx => Word.toSigned 32 (Word.bits fx.toNat 31 0)
  | _ => 0

def extAop : MemExt → Nat | .aext fx => Word.bits fx.toNat 37 32 | _ => 0
def extAty : MemExt → Nat | .aext fx => Word.bits fx.toNat 41 38 | _ => 0
def extC : MemExt → Opnd | .aext fx => opndOf (Word.bits fx.toNat 51 42) | _ => .z
def extSize : MemExt → Nat | .off _ | .aext _ => 16 | _ => 8

end Sys2Proof.Machine
end

