-- ==== Sys2Proof/Machine/Flags.lean ====
section
/-!
DEFINITION. Number formats, rounding and exception flags (02 R61 to R81): every floating-point result is an exact dyadic or
rational value rounded once by `roundFmt`, and the flags it raises are computed beside it.
-/
namespace Sys2Proof.Machine
open Sys2Proof

/-- The five exception flags, in the bit places of gstat (01 Table 1.5): bit 4 NV, 3 DZ, 2 OF, 1 UF, 0 NX. -/
abbrev FFlags := BitVec 5

def flagNV : FFlags := 16
def flagDZ : FFlags := 8
def flagOF : FFlags := 4
def flagUF : FFlags := 2
def flagNX : FFlags := 1

/-- A flag raised on a condition (02 R75). -/
def flagIf (c : Bool) (f : FFlags) : FFlags := if c then f else 0

/-- A binary format (02 Table 2.2): exponent bits, fraction bits, bias, the code of the largest finite magnitude, the code of
infinity where the format has one, the code of the canonical NaN. -/
structure Fmt where
  eb    : Nat
  mb    : Nat
  bias  : Nat
  maxC  : Nat
  infC  : Option Nat
  nanC  : Nat
deriving DecidableEq, Repr

def Fmt.f64 : Fmt := ⟨11, 52, 1023, 0x7FEFFFFFFFFFFFFF, some 0x7FF0000000000000, 0x7FF8000000000000⟩
def Fmt.f32 : Fmt := ⟨8, 23, 127, 0x7F7FFFFF, some 0x7F800000, 0x7FC00000⟩
def Fmt.f16 : Fmt := ⟨5, 10, 15, 0x7BFF, some 0x7C00, 0x7E00⟩
def Fmt.bf16 : Fmt := ⟨8, 7, 127, 0x7F7F, some 0x7F80, 0x7FC0⟩
def Fmt.e4m3 : Fmt := ⟨4, 3, 7, 0x7E, none, 0x7F⟩
def Fmt.e5m2 : Fmt := ⟨5, 2, 15, 0x7B, some 0x7C, 0x7E⟩
/-- The element format of mx4, which has neither infinity nor NaN (02 R68); `nanC` is never delivered. -/
def Fmt.e2m1 : Fmt := ⟨2, 1, 1, 7, none, 0⟩

/-- Width of a format in bits (02 Table 2.2). -/
def Fmt.width (f : Fmt) : Nat := f.eb + f.mb + 1

/-- The sign bit's weight. -/
def Fmt.signC (f : Fmt) : Nat := 2 ^ (f.eb + f.mb)

/-- A decoded floating-point value (02 R63): a NaN (signalling or quiet, R64), an infinity, or `±m·2^e`, zero when `m = 0`. -/
inductive FVal where
  | nan (sig : Bool)
  | inf (neg : Bool)
  | fin (neg : Bool) (m : Nat) (e : Int)
deriving DecidableEq, Repr

/-- Decode the low bits of a number in a format (02 R63, R66 to R68). -/
def FVal.decode (f : Fmt) (x : Nat) : FVal :=
  let neg := Word.bit x (f.eb + f.mb)
  let e := Word.bits x (f.eb + f.mb - 1) f.mb
  let fr := x % 2 ^ f.mb
  let mag := x % 2 ^ (f.eb + f.mb)
  match f.infC with
  | some i =>
    if mag = i then .inf neg
    else if i < mag then .nan (!Word.bit x (f.mb - 1))
    else if e = 0 then .fin neg fr (1 - (f.bias : Int) - f.mb)
    else .fin neg (fr + 2 ^ f.mb) ((e : Int) - f.bias - f.mb)
  | none =>
    if f.maxC < mag then .nan false
    else if e = 0 then .fin neg fr (1 - (f.bias : Int) - f.mb)
    else .fin neg (fr + 2 ^ f.mb) ((e : Int) - f.bias - f.mb)

/-- A delivered result: its bits in the format and the flags it raises. -/
structure FRes where
  bits  : Nat
  flags : FFlags
deriving DecidableEq, Repr

def FRes.nan (f : Fmt) (flags : FFlags) : FRes := ⟨f.nanC, flags⟩
def Fmt.signed (f : Fmt) (neg : Bool) (mag : Nat) : Nat := if neg then f.signC + mag else mag
/-- An infinity of the format; E4M3 has none and delivers its largest finite value here (its conversions are
decided in `convFF`, 02 Table 2.6). -/
def Fmt.inf (f : Fmt) (neg : Bool) : Nat := f.signed neg (f.infC.getD f.maxC)

/-- Round `n·2^e` to an integral multiple of `2^q` under a mode (02 Table 2.3): the multiple and whether it was exact. -/
def roundQ (mode : Rnd) (neg : Bool) (n : Nat) (e q : Int) : Nat × Bool :=
  if q ≤ e then (n * 2 ^ (e - q).toNat, true)
  else
    let d := 2 ^ (q - e).toNat
    let k := n / d
    let r := n % d
    let up : Bool := match mode with
      | .rne => decide (d < 2 * r) || (decide (d = 2 * r) && k % 2 = 1)
      | .rtz => false
      | .rup => !neg && decide (r ≠ 0)
      | .rdn => neg && decide (r ≠ 0)
    (if up then k + 1 else k, r = 0)

/-- What a finite non-zero rounding came to (02 R72 to R75): its magnitude code with unbounded exponent range, whether it
overflowed, whether it was tiny after rounding, whether it was exact. -/
structure Rounded where
  code  : Nat
  ovf   : Bool
  tiny  : Bool
  exact : Bool
deriving DecidableEq, Repr

/-- RND of 02 R72, on the positive magnitude `n·2^e`, `n ≠ 0`.  The magnitude code counts representable values upwards from
zero, so a carry into the next binade needs no case of its own. -/
def roundMag (f : Fmt) (mode : Rnd) (neg : Bool) (n : Nat) (e : Int) : Rounded :=
  let top : Int := e + Nat.log2 n
  let qmin : Int := 1 - (f.bias : Int) - f.mb
  let qu : Int := top - f.mb
  let q := max qu qmin
  let (r, ex) := roundQ mode neg n e q
  let code := r + (q - qmin).toNat * 2 ^ f.mb
  let (ru, _) := roundQ mode neg n e qu
  { code := code
    ovf := f.maxC < code
    tiny := top < 1 - (f.bias : Int) && !(top + 1 == 1 - (f.bias : Int) && ru == 2 ^ (f.mb + 1))
    exact := ex }

/-- The overflowed results of 02 Table 2.4: true for an infinity, false for the largest finite value. -/
def overflowsToInf (mode : Rnd) (neg : Bool) : Bool :=
  match mode with
  | .rne => true
  | .rtz => false
  | .rup => !neg
  | .rdn => neg

/-- RND(fmt, mode, v) for the value `(-1)^neg · n · 2^e`, with its flags (02 R72 to R75).  An exactly zero value is the
caller's (02 R73). -/
def roundFmt (f : Fmt) (mode : Rnd) (neg : Bool) (n : Nat) (e : Int) : FRes :=
  if n = 0 then ⟨f.signed neg 0, 0⟩
  else
    let r := roundMag f mode neg n e
    if r.ovf then
      ⟨if overflowsToInf mode neg then f.inf neg else f.signed neg f.maxC, flagOF ||| flagNX⟩
    else ⟨f.signed neg r.code, flagIf (r.tiny && !r.exact) flagUF ||| flagIf (!r.exact) flagNX⟩

/-- One term of a fused operation (02 R81): its value, and whether forming it was 0 × ∞. -/
structure Term where
  v       : FVal
  zeroInf : Bool
deriving DecidableEq, Repr

def Term.of (v : FVal) : Term := ⟨v, false⟩

/-- Flip the sign of a value (06 R182: negation flips the sign of b, a zero's too). -/
def FVal.neg : FVal → FVal
  | .nan s => .nan s
  | .inf n => .inf (!n)
  | .fin n m e => .fin (!n) m e

def Term.neg (t : Term) : Term := { t with v := t.v.neg }

/-- An exact product as a term (02 R81); the sign is the exclusive OR of the signs (02 R73). -/
def Term.mul (a b : FVal) : Term :=
  match a, b with
  | .nan sa, .nan sb => ⟨.nan (sa || sb), false⟩
  | .nan s, _ => ⟨.nan s, false⟩
  | _, .nan s => ⟨.nan s, false⟩
  | .inf n, .inf n' => ⟨.inf (n ^^ n'), false⟩
  | .inf n, .fin n' m _ => if m = 0 then ⟨.nan false, true⟩ else ⟨.inf (n ^^ n'), false⟩
  | .fin n m _, .inf n' => if m = 0 then ⟨.nan false, true⟩ else ⟨.inf (n ^^ n'), false⟩
  | .fin n m e, .fin n' m' e' => ⟨.fin (n ^^ n') (m * m') (e + e'), false⟩

def FVal.isNan : FVal → Bool | .nan _ => true | _ => false
def FVal.isSig : FVal → Bool | .nan s => s | _ => false
def FVal.isInf : FVal → Bool | .inf _ => true | _ => false
def FVal.isInfOf (neg : Bool) : FVal → Bool | .inf n => n == neg | _ => false
def FVal.isZero : FVal → Bool | .fin _ m _ => m == 0 | _ => false
def FVal.signBit : FVal → Bool | .nan _ => false | .inf n => n | .fin n _ _ => n

/-- The least exponent among finite non-zero values, to align a sum. -/
def minExp : List FVal → Int
  | [] => 0
  | [.fin _ _ e] => e
  | .fin _ _ e :: vs => min e (minExp vs)
  | _ :: vs => minExp vs

/-- The exact sum of the finite values, in units of `2^e` with `e` not above any of their exponents (02 R72). -/
def exactSum (e : Int) : List FVal → Int
  | [] => 0
  | .fin n m e' :: vs =>
    let x : Int := (m * 2 ^ (e' - e).toNat : Nat)
    (if n then -x else x) + exactSum e vs
  | _ :: vs => exactSum e vs

/-- A fused operation (02 R81): the exact sum of its terms, rounded once; NaN, infinity and zero cases as R81 and R73 say. -/
def fused (f : Fmt) (mode : Rnd) (ts : List Term) : FRes :=
  let vs := ts.map (·.v)
  let sig := vs.any FVal.isSig
  let zi := ts.any (·.zeroInf)
  let pinf := vs.any (FVal.isInfOf false)
  let ninf := vs.any (FVal.isInfOf true)
  if vs.any FVal.isNan || (pinf && ninf) then FRes.nan f (flagIf (sig || zi || (pinf && ninf)) flagNV)
  else if pinf then ⟨f.inf false, 0⟩
  else if ninf then ⟨f.inf true, 0⟩
  else
    let e := minExp vs
    let x := exactSum e vs
    if x = 0 then
      match vs with
      | [v] => ⟨f.signed v.signBit 0, 0⟩
      | _ => ⟨f.signed (vs.all FVal.signBit && vs.all FVal.isZero || mode == .rdn) 0, 0⟩
    else roundFmt f mode (decide (x < 0)) x.natAbs e

/-- Round the exact quotient `n / d · 2^e` of positive numbers (06 R198): the quotient is taken to enough bits, and a
sticky bit stands for the rest. -/
def roundQuot (f : Fmt) (mode : Rnd) (neg : Bool) (n d : Nat) (e : Int) : FRes :=
  let k := 2 * f.mb + 8 + (Nat.log2 d + 1)
  let q := n * 2 ^ k / d
  let st := if n * 2 ^ k % d = 0 then 0 else 1
  roundFmt f mode neg (2 * q + st) (e - k - 1)

/-- The whole square root of a number by bisection from the top bit, on `fuel` bits. -/
def isqrtGo (x : Nat) : Nat → Nat → Nat
  | 0, r => r
  | b + 1, r =>
    let r' := r + 2 ^ b
    if r' * r' ≤ x then isqrtGo x b r' else isqrtGo x b r

/-- `⌊√x⌋`. -/
def isqrt (x : Nat) : Nat := isqrtGo x (Nat.log2 x / 2 + 1) 0

/-- Round the exact square root of the positive value `m·2^e` (06 R197). -/
def roundSqrt (f : Fmt) (mode : Rnd) (m : Nat) (e : Int) : FRes :=
  let (m, e) := if e % 2 = 0 then (m, e) else (2 * m, e - 1)
  let k := f.mb + 4
  let x := m * 2 ^ (2 * k)
  let r := isqrt x
  let st := if r * r = x then 0 else 1
  roundFmt f mode false (2 * r + st) (e / 2 - k - 1)

/-- The exact comparison of two values that are not NaN: -1, 0 or 1 as a is below, equal to or above b; zeros are equal. -/
def cmpVal (a b : FVal) : Int :=
  let rank : FVal → Int := fun v => match v with
    | .inf true => -1 | .inf false => 1 | _ => 0
  if rank a ≠ rank b then (if rank a < rank b then -1 else 1)
  else if a.isInf then 0
  else
    let d := exactSum (min (minExp [a]) (minExp [b])) [a, b.neg]
    if d < 0 then -1 else if d = 0 then 0 else 1

/-- Conversion of a floating-point value to a floating-point format (02 R78, Table 2.6). -/
def convFF (f : Fmt) (mode : Rnd) (sat : Bool) (v : FVal) : FRes :=
  match v with
  | .nan s => FRes.nan f (flagIf s flagNV)
  | .inf n =>
    match f.infC with
    | some i => if sat then ⟨f.signed n f.maxC, 0⟩ else ⟨f.signed n i, 0⟩
    | none => if sat then ⟨f.signed n f.maxC, 0⟩ else FRes.nan f flagNV
  | .fin n m e =>
    if m = 0 then ⟨f.signed n 0, 0⟩
    else
      let r := roundMag f mode n m e
      if r.ovf then
        if sat then ⟨f.signed n f.maxC, flagOF ||| flagNX⟩
        else if overflowsToInf mode n then
          (match f.infC with
           | some i => ⟨f.signed n i, flagOF ||| flagNX⟩
           | none => FRes.nan f (flagOF ||| flagNX))
        else ⟨f.signed n f.maxC, flagOF ||| flagNX⟩
      else ⟨f.signed n r.code, flagIf (r.tiny && !r.exact) flagUF ||| flagIf (!r.exact) flagNX⟩

/-- A finite value rounded to an integer under a mode (02 R79), and whether that was exact. -/
def roundInt (mode : Rnd) (neg : Bool) (m : Nat) (e : Int) : Int × Bool :=
  let (k, ex) := roundQ mode neg m e 0
  (if neg then -(k : Int) else k, ex)

/-- Conversion of a floating-point value to an integer range (02 R79): the integer and the flags. -/
def convFI (lo hi : Int) (mode : Rnd) (v : FVal) : Int × FFlags :=
  match v with
  | .nan _ => (0, flagNV)
  | .inf true => (lo, flagNV)
  | .inf false => (hi, flagNV)
  | .fin n m e =>
    let (k, ex) := roundInt mode n m e
    if k < lo then (lo, flagNV) else if hi < k then (hi, flagNV) else (k, flagIf (!ex) flagNX)

/-- Conversion of an integer to a floating-point format (02 R80, R77): an integer zero is +0, and an overflow takes the
column of 02 Table 2.6 that SAT selects. -/
def convIF (f : Fmt) (mode : Rnd) (sat : Bool) (x : Int) : FRes := convFF f mode sat (.fin (decide (x < 0)) x.natAbs 0)

/-- FRND (06 R185): an integral value in the format, no NX; a zero keeps the sign. -/
def roundIntegral (f : Fmt) (mode : Rnd) (bits : Nat) : FRes :=
  match FVal.decode f bits with
  | .nan s => FRes.nan f (flagIf s flagNV)
  | .inf n => ⟨f.inf n, 0⟩
  | .fin n m e => ⟨(roundFmt f .rne n (roundInt mode n m e).1.natAbs 0).bits, 0⟩

/-- Order of two non-NaN values with −0 below +0 (06 R184). -/
def fLess (a b : FVal) : Bool :=
  let c := cmpVal a b
  decide (c < 0) || (decide (c = 0) && a.signBit && !b.signBit)

/-- FMIN and FMAX (06 R184). -/
def fMinMax (f : Fmt) (isMax : Bool) (a b : Nat) : FRes :=
  let va := FVal.decode f a
  let vb := FVal.decode f b
  let fl := flagIf (va.isSig || vb.isSig) flagNV
  if va.isNan && vb.isNan then FRes.nan f fl
  else if va.isNan then ⟨b, fl⟩
  else if vb.isNan then ⟨a, fl⟩
  else if isMax then ⟨if fLess va vb then b else a, fl⟩
  else ⟨if fLess vb va then b else a, fl⟩

/-- The conditions of 06 Table 6.3: the result and the flags. -/
def fCompare (cc : Fin 8) (a b : FVal) : Bool × FFlags :=
  let un := a.isNan || b.isNan
  let sig := a.isSig || b.isSig
  let c := if un then 0 else cmpVal a b
  let res : Bool := match cc with
    | 0 => !un && c = 0
    | 1 => un || c ≠ 0
    | 2 => !un && c < 0
    | 3 => !un && c ≤ 0
    | 4 => !un && c > 0
    | 5 => !un && c ≥ 0
    | 6 => un
    | 7 => !un
  let signalling := 2 ≤ cc.val && cc.val ≤ 5
  (res, flagIf (sig || (signalling && un)) flagNV)

/-- FCLASS (06 Table 6.4). -/
def fClass (f : Fmt) (bits : Nat) : Nat :=
  let small (m : Nat) : Bool := m < 2 ^ f.mb
  match FVal.decode f bits with
  | .inf true => 2 ^ 0
  | .inf false => 2 ^ 7
  | .nan true => 2 ^ 8
  | .nan false => 2 ^ 9
  | .fin true m _ => if m = 0 then 2 ^ 3 else if small m then 2 ^ 2 else 2 ^ 1
  | .fin false m _ => if m = 0 then 2 ^ 4 else if small m then 2 ^ 5 else 2 ^ 6

end Sys2Proof.Machine
end

