-- ==== Sys2Proof/Config.lean ====
section
/-!
DEFINITION. What one EV4 fixes: the counts of 00 Table 0.1, the cryptographic functions that the manual names by their
standards, and the free values, which are opaque constants: nothing in Lean evaluates them.
-/
namespace Sys2Proof.Config

/-- Threads of a group (00 R5). -/
def threads : Nat := 32
/-- Physical clusters, quads and cores (00 Table 0.1; 15 Table 15.15). -/
def clusters : Nat := 12
def quads : Nat := 300
def cores : Nat := 1200
def quadsPerCluster : Nat := 25
def coresPerQuad : Nat := 4
def clustersPerDie : Nat := 3
/-- Tenant contexts 0 to 16 (14 Table 14.8). -/
def tenants : Nat := 17

def quadOf (core : Nat) : Nat := core / coresPerQuad
def clusterOfQuad (quad : Nat) : Nat := quad / quadsPerCluster
def clusterOf (core : Nat) : Nat := clusterOfQuad (quadOf core)
def dieOfCluster (cl : Nat) : Nat := cl / clustersPerDie
def dieOf (core : Nat) : Nat := dieOfCluster (clusterOf core)

/-- A free number: what the manual leaves to one of several possibilities (log 8); applied to the counter `fresh`. -/
opaque freeNat : Nat → Nat
/-- Whether an element that took more contributions than it may reads as the canonical NaN (02 R90; log 8), by their number and their
sum. -/
opaque redOver : Nat → Int → Bool
/-- The random draws of the management core's SP 800-90A generator (15 R405; log 8). -/
opaque draw64 : Nat → BitVec 64
/-- KEY is never 0 (15 R405). -/
def launchKey (n : Nat) : BitVec 64 := if draw64 n = 0 then 1 else draw64 n

/-- The DEC-TED code of the 64 bytes of a dirty L2 line (16 R444); the manual names no polynomial (log 36). -/
opaque decTed : List (BitVec 8) → BitVec 64

/-- The index of the pseudo-channel or LPDDR6 site that holds a physical address (16 Table 16.5); the manual does not say which it is
(log 11). -/
opaque memIndex : Nat → Nat

/-- The set of the L2 TLB in which a tenant's page lies (16 R457); the manual gives no index function (log 9). -/
opaque tlbSet : Nat → Nat → Nat

/-- SHA-384 over bytes (18; log 10). -/
opaque sha384 : List (BitVec 8) → List (BitVec 8)
/-- An ECDSA P-384 signature with a named device key over bytes (18; log 10). -/
opaque ecdsaSign : Nat → List (BitVec 8) → List (BitVec 8)
/-- Whether an ECDSA P-384 signature verifies under a named key (18; log 10). -/
opaque ecdsaVerify : Nat → List (BitVec 8) → List (BitVec 8) → Bool

/-- The numbers by which this model names the keys that the manual speaks of: Tvedley's firmware and update keys, the device
attestation key; an owner's public key is named by its bytes (log 10). -/
def keyFirmware : Nat := 0
def keyUpdate : Nat := 1
def keyDevice : Nat := 2
/-- The boot ROM's content, and the certificate chain of slot 0 (18 R501; log 10). -/
opaque bootRom : List (BitVec 8)
opaque certChain : List (BitVec 8)

/-- AES-256-XTS of one 256-byte unit under a 64-byte key pair with a tweak, and its inverse (18 R499; log 10). -/
opaque xtsEncrypt : List (BitVec 8) → Nat → List (BitVec 8) → List (BitVec 8)
opaque xtsDecrypt : List (BitVec 8) → Nat → List (BitVec 8) → List (BitVec 8)
/-- AES-256-CMAC under a 32-byte key (18 R499; log 10). -/
opaque aesCmac : List (BitVec 8) → List (BitVec 8) → List (BitVec 8)

end Sys2Proof.Config
end

