-- ==== Sys2Proof/Machine/Sparse.lean ====
section
/-!
DEFINITION. Tables keyed by numbers, as lists of pairs with strictly rising keys: plain data, so that equal tables are equal
lists.  A table with a default value (`kvPut`, `kvGetD`) lists no entry equal to its default.
-/
namespace Sys2Proof.Machine

/-- The entry of a key, if the table lists it. -/
def kvGet {α : Type} : List (Nat × α) → Nat → Option α
  | [], _ => none
  | (k', v) :: m, k => if k' = k then some v else kvGet m k

/-- The entry of a key, or the default. -/
def kvGetD {α : Type} (d : α) (m : List (Nat × α)) (k : Nat) : α := (kvGet m k).getD d

/-- Write an entry, keeping the keys rising. -/
def kvSet {α : Type} : List (Nat × α) → Nat → α → List (Nat × α)
  | [], k, v => [(k, v)]
  | (k', v') :: m, k, v =>
    if k' = k then (k, v) :: m
    else if k < k' then (k, v) :: (k', v') :: m
    else (k', v') :: kvSet m k v

/-- Remove a key. -/
def kvDel {α : Type} : List (Nat × α) → Nat → List (Nat × α)
  | [], _ => []
  | (k', v') :: m, k => if k' = k then kvDel m k else (k', v') :: kvDel m k

/-- Write an entry of a table with a default: writing the default removes the entry. -/
def kvPut {α : Type} [DecidableEq α] (d : α) (m : List (Nat × α)) (k : Nat) (v : α) : List (Nat × α) :=
  if v = d then kvDel m k else kvSet m k v

/-- Change an entry that is there. -/
def kvMod {α : Type} (m : List (Nat × α)) (k : Nat) (f : α → α) : List (Nat × α) :=
  match kvGet m k with
  | none => m
  | some v => kvSet m k (f v)

/-- The keys of a table rise strictly. -/
def kvRising {α : Type} : List (Nat × α) → Bool
  | [] => true
  | [_] => true
  | a :: b :: m => decide (a.1 < b.1) && kvRising (b :: m)

/-- The canonical form of a table with a default: rising keys, and no entry equal to the default. -/
def kvWf {α : Type} [DecidableEq α] (d : α) (m : List (Nat × α)) : Bool :=
  kvRising m && m.all (fun e => decide (e.2 ≠ d))

/-- A key not in use: one above the largest, or the start value. -/
def kvFresh {α : Type} (start : Nat) (m : List (Nat × α)) : Nat := m.foldl (fun n e => max n (e.1 + 1)) start

/-- Insert a number into a rising list without repeats. -/
def setInsert : List Nat → Nat → List Nat
  | [], k => [k]
  | k' :: m, k => if k' = k then k' :: m else if k < k' then k :: k' :: m else k' :: setInsert m k

/-- Remove a number from a list. -/
def setRemove (m : List Nat) (k : Nat) : List Nat := m.filter (· ≠ k)

end Sys2Proof.Machine
end

