-- ==== Sys2Proof/Machine/State.lean ====
section
/-!
DEFINITION. The state of one EV4 (INVENTORY, State), as plain data; the reasons to stop; the state after reset.
Tables are lists of pairs with rising keys (Machine/Sparse.lean).  A table of physical units (cores, quads, clusters) lists
only units that were touched since reset.
-/
namespace Sys2Proof.Machine
open Sys2Proof

/-! ## Threads and groups (01) -/

/-- One 32-bit word of a register file, of pocket or of scratch, with its poison mark (16 R445). -/
structure RegWord where
  val  : Word
  pois : Bool
deriving DecidableEq, Repr

def RegWord.zero : RegWord := ⟨0, false⟩

/-- A file of words by number; an unlisted word is `RegWord.zero` (01 R57). -/
abbrev RegFile := List (Nat × RegWord)

/-- ST of 01 Table 1.6. -/
inductive TStat where
  | live | exited | dead
deriving DecidableEq, Repr

/-- What the check of a block's descriptor leaves with the threads that entered it (01 R58, 03 R100). -/
structure Entered where
  len   : Nat
  vlive : Nat
  slive : Nat
  dpc   : Cls
deriving DecidableEq, Repr

/-- One thread (01 Table 1.3). -/
structure Thread where
  st     : TStat
  pc     : BitVec 57           -- address of the next instruction word, R39, R40
  blk    : BitVec 57           -- descriptor address of the block it is in
  ent    : Option Entered      -- the block's fields once its descriptor has been checked, R58
  v      : RegFile
  p      : BitVec 7            -- p0 to p6, R29
  x      : List (Nat × Byte)   -- x0 to x3, R28; unlisted 0
  psp    : BitVec 16           -- R36
  pocket : RegFile             -- the pocket slice by 32-bit word, R25
  vw     : List Nat            -- vector registers written since the block was entered, R58
  entAt  : Nat                 -- the group's count of block entries when it entered its block, R58
  late   : List (Nat × RegWord) -- returned words of vector registers that the group has not parked for, R45, 08 R229
deriving DecidableEq, Repr

/-- One loop register and the words of its span in the loop buffer (01 R31, 04 R143, R150). -/
structure LoopReg where
  active : Bool
  rem    : Nat
  max    : Nat
  body   : BitVec 57
  len    : Nat
  buf    : List DWord
deriving DecidableEq, Repr

def LoopReg.idle : LoopReg := ⟨false, 0, 0, 0, 0, []⟩

/-- Where a stopped or resumed instruction stands: the threads of its EXEC and the resume index (01 R52, 16 R434). -/
structure StopAt where
  ex   : List Nat
  ridx : Nat
deriving DecidableEq, Repr

/-- The kinds of a trap (11 Table 11.4, 16 Table 16.1); a block-entry trap is delivered with KIND 0. -/
inductive TrapKind where
  | instruction | thread | deferred
deriving DecidableEq, Repr

/-- Where a returned value goes: a vector register of a thread, a uniform register, or nowhere. -/
inductive LoadDst where
  | vreg (t n : Nat)
  | sreg (n : Nat)
  | none
deriving DecidableEq, Repr

/-- How an outstanding load is issued again after a restore (14 R388, R392): a global access by virtual address, with its hint, or a scratch
access; its width and its destinations. -/
inductive Again where
  | glob (va n : Nat) (cp : Cpol) (dsts : List LoadDst)
  | scr (addr n : Nat) (dsts : List LoadDst)
deriving DecidableEq, Repr

/-- One outstanding long-latency result of a group (01 R45): the words that its return writes (08 R229). -/
structure Pending where
  tok   : Nat
  t     : Nat                       -- the thread, or 32 for a uniform load
  ready : Bool                      -- its value is fixed
  req   : Option Nat                -- the request of the lane's 128 that it holds (08 R226)
  again : Option Again              -- how it is issued again, as long as its value may still be read anew
  due   : Bool                      -- a restore has still to issue it again (14 R392)
  words : List (LoadDst × RegWord)
deriving DecidableEq, Repr

/-- What a group that is not running waits for.  `pd` and `ex` are the predicate and the threads that the outcome is written
to; a deadline is a core cycle count. -/
inductive RunSt where
  | running
  | event (pd : Nat) (ex : List Nat) (deadline : Nat)      -- WAITEV, 04 R156
  | barrier (off tok : Nat) (pd : Nat) (ex : List Nat) (deadline : Nat) (later : Bool)  -- BWAIT; in a later run, R278, 09 R269
  | colour (k need : Nat) (pd : Nat) (ex : List Nat) (deadline : Nat)    -- HBAR and HBARW, and the flips that it has still to see, 09 R271
  | qpush (q : Nat) (words : List Word) (pd : Nat) (ex : List Nat) (deadline : Nat)   -- 09 R273
  | qpop (q : Nat) (dst : Opnd) (pd : Nat) (ex : List Nat) (deadline : Nat)
  | dqpop (dst : Opnd) (pd : Nat) (ex : List Nat) (deadline : Nat)                -- 09 R276
  | sleep (deadline : Nat)                                   -- 11 R315
  | regq                                                     -- 11 R312
  | release                                                  -- an instruction that waits to begin, 12 R338
  | acquire (i : Nat)                                        -- an acquire parked on a sweep, 12 R328
  | bank (at_ : Nat)                                         -- a scratchpad request held over to a cycle, 12 R325
  | room                                                     -- a full side log, buffer, ring or mover: it begins again
  | stopped                                                  -- system path, 16 R434
  | halted (tag : Nat)                                       -- BKPT, 04 R154
  | ended                                                    -- 01 R17
deriving DecidableEq, Repr

/-- The part of a thread's place that its PC-vector entry does not hold: its block, the block's checked fields, the
registers written since it entered it and when it did (R58). -/
structure Place where
  blk : BitVec 57
  ent : Option Entered
  vw  : List Nat
  entAt : Nat
deriving DecidableEq, Repr

/-- One group of 32 threads (01). -/
structure Group where
  team   : Nat                 -- key of its team
  gid    : Nat                 -- %gid, R19
  role   : Nat
  lane   : Nat                 -- home lane
  threads : List Thread
  s      : RegFile             -- uniform registers
  entries : Nat                -- how often threads of it have entered a block, R58
  sw     : List (Nat × Nat)    -- by uniform register, `entries` at its last write, R58
  lateS  : List (Nat × RegWord) -- returned words of uniform registers that it has not parked for, R45
  loops  : List LoopReg        -- k0 to k3
  gstat  : Word                -- Table 1.5
  gclass : Word                -- 11 Table 11.3
  tvec   : DWord
  tcause : Word                -- 11 Table 11.4
  texec  : Word
  taddr  : DWord
  tpc    : List DWord          -- tpc0 to tpc31, PC-vector entries
  tplace : List Place          -- where each thread stood in its block when the trap was delivered (R58, R311)
  tsize  : Nat                 -- size of the trapping instruction, for TRET.skip (R311)
  stopAt : Option StopAt       -- stop state (16 R434)
  stopSize : Nat
  stopCode : Nat               -- the code and the address of the trap that stopped it (16 R435, R437)
  stopVa   : Nat
  resume : Option StopAt       -- the next issue continues this instruction (01 R52)
  begun  : Bool                -- an instruction of it has passed some of its threads and is in progress on its lane (01 R44)
  wake   : Bool                -- wake-pending, 04 R156
  run    : RunSt
  parked : Bool                -- 01 R45
  pend   : List Pending        -- outstanding results
  unacked : List Nat           -- tokens of performed writes whose acknowledgement is on its way (12 R329)
  unapplied : List Nat         -- tokens of writes that are not yet performed at device scope (12 Table 12.4)
  seen   : List (Nat × Nat)    -- writes of other groups (group, token) that it has seen before they were performed (12 R341)
  fenced : Bool                -- a FENCE makes its next write a release (12 R344)
  served : Bool                -- its held-over scratchpad request has been served (12 R325)
  seq    : Nat                 -- completed instructions, 15 R410
  logPos : Nat                 -- bytes used (original) or read (later runs) of its log segment, 15 R409
  waitPk : Bool                -- the PK of the instruction whose wait it is in (01 R45)
  hbarTok : Option Nat         -- the arrival that an interrupted HBAR has already made (09 R271)
  yieldUntil : Nat             -- cycle until which YIELD defers it (04 R155); 0 none
  issued : Nat                 -- stamp of its last issue (01 R44)
  aborts : Nat                 -- descriptors aborted since its last CPYF, 09 R263
  copyAborts : List Bool       -- deferred COPY_ABORTs to deliver, oldest first; true: raised since its last CPYF, R262
  deferred : List Nat          -- trap codes of deferred traps not yet delivered (16 R438)
deriving DecidableEq, Repr

/-! ## Teams and launches (14, 15) -/

/-- One role of a launch (01 Table 1.1). -/
structure Role where
  vregs  : Nat
  sregs  : Nat
  pocket : Nat
  groups : Nat
deriving DecidableEq, Repr

/-- Which run of a team (15 R415). -/
inductive RunKind where
  | original | replay | auth
deriving DecidableEq, Repr

/-- An open REGQ rendezvous (11 R312). -/
structure RegqSet where
  src : Nat
  dst : Nat
  n   : Nat
  arrived : List Nat        -- keys of the groups that have arrived
deriving DecidableEq, Repr

/-- A 64-byte error record (16 Table 16.5). -/
structure ErrRec where
  typ    : Nat
  sev    : Nat
  unit   : Nat
  code   : Nat
  overflow : Bool
  poison : Bool
  run    : Nat
  ended  : Bool
  die    : Nat
  cluster : Nat
  quad   : Nat
  core   : Nat
  lane   : Nat
  gid    : Nat
  thread : Nat
  index  : Nat
  time   : Nat
  addr   : Nat
  desc   : Nat
  kid    : Nat
  team   : Nat
  widx   : Nat
  synd   : Nat
  demerit : Nat
  tenant : Nat
  detail : Nat
  extra  : Nat
deriving DecidableEq, Repr

/-- The checking modes of 00 Table 0.4. -/
inductive Mode where
  | speed | verified | sentinel
deriving DecidableEq, Repr

/-- Hold policies (15 Table 15.10). -/
inductive Hold where
  | all | sampled | none
deriving DecidableEq, Repr

/-- Release policies (15 Table 15.11). -/
inductive Release where
  | wait | after | pressure
deriving DecidableEq, Repr

/-- The replay levels (14 Table 14.4): off, the fraction 1/2^s, or every team. -/
inductive Level where
  | off | sample (s : Nat) | full
deriving DecidableEq, Repr

/-- Watchdog policies (14 Table 14.12). -/
inductive Wdpol where
  | kill | resume | hold
deriving DecidableEq, Repr

/-- A launch record as the dispatcher holds it (14 Table 14.2 to 14.4), with what the mode supplies filled in (14 R398). -/
structure LaunchRec where
  entry    : Nat
  const    : Nat
  constLen : Nat
  gridX    : Nat
  gridY    : Nat
  gridZ    : Nat
  roles    : List Role
  scratch  : Nat
  log      : Nat
  gang     : Nat
  colours  : Nat
  persist  : Bool
  debug    : Bool
  repro    : Bool
  deque    : Bool
  preempts : Bool
  serial   : Bool
  cls      : Cls         -- CLASS, `inherit` for "by mode"
  mode     : Mode        -- the checking mode in force
  release  : Release
  hold     : Hold
  level    : Level
  delay    : Nat         -- µs
  relTime  : Nat         -- µs
  beat     : Nat         -- µs
  wall     : Nat         -- ms, 0 for the device default
  prio     : Nat
  tenant   : Nat
  share    : Nat
  wdpol    : Wdpol
  tvec     : Nat
  done     : Nat
deriving DecidableEq, Repr

/-- Where a record came from: a ring and its slot, or a LAUNCH of a team (14 R373). -/
inductive RecSrc where
  | ring (r slot : Nat)
  | team (key : Nat)
deriving DecidableEq, Repr

/-- One launch that the device holds (14). -/
structure Launch where
  r        : LaunchRec
  src      : RecSrc
  kid      : Nat
  key      : DWord            -- KEY, 15 R405
  slot     : Nat              -- LSLOT, 15 Table 15.9
  next     : Nat              -- the lowest %team not yet placed
  ended    : Nat              -- original teams that ended
  killed   : Nat              -- the counts of 14 Table 14.6
  lostSt   : Nat
  unchecked : Nat
  votes    : Nat
  unstable : Nat
  conflict : Nat
  firings  : Nat              -- watchdog firings, 14 Table 14.12
  fired    : Bool             -- its timers restart with its next restore, 14 Table 14.12
  wallUsed : Nat              -- nanoseconds of wall-clock time used, 14 R395
  logBase  : Nat              -- address of the launch's replay logs, 15 R409
  waitsFor : Option Nat       -- the launch whose completion a SERIAL record waits for, 14 R373
  heldBy   : Option Nat       -- the issuing team whose held stores it waits for, 11 R313
  seq      : Nat             -- stamp of its acceptance, 14 R373, R376
deriving DecidableEq, Repr

/-- Where a team is (14 R387 to R394; 08 R221): resident; resident and asked to halt; halted; saved out; ended, its scratch still on
its core; ended, its scratch saved with its gang. -/
inductive Residence where
  | placed | preempting | halted | saved | gone | goneSaved
deriving DecidableEq, Repr

/-- One bank of a team's progress in checked execution (15 R404 to R416). -/
structure Checked where
  sig      : DWord            -- signature accumulator, R406
  sampled  : Bool
  tainted  : Bool
  unreplay : Bool             -- R413
  diverged : Bool             -- R412
  logBad   : Bool             -- an uncorrectable word in its log ended it, R412
  released : Bool             -- a version of it was released unchecked, R426
  unheld   : Bool             -- a store of it was not held, R425
  producers : List Nat        -- Sleeve entries of teams, R423
  scratchDeps : List Nat      -- the producers marked as scratch dependences
deriving DecidableEq, Repr

/-! ## Matrix engines (10) -/

/-- A tile register (10 R281): its owner's team key, shape and tag (Table 10.1), and its data and sidecar by 32-bit word with
their poison (R302); sidecar row r starts at word 4r. -/
structure Tile where
  owner : Option Nat
  rows  : Nat
  bytes : Nat
  tag   : Nat
  data  : RegFile
  side  : RegFile
deriving DecidableEq, Repr

def Tile.free : Tile := ⟨none, 0, 0, 0, [], []⟩

/-- A region of the accumulator (10 Table 10.3). -/
structure Region where
  row0 : Nat
  col0 : Nat
  m    : Nat
  n    : Nat
deriving DecidableEq, Repr

/-- The operands of an MMA or MMAS as they were checked (10 R290 to R293): tiles, shapes, tags, logical K, the metadata of an MMAS
as it was read, and the class of the matrix kind. -/
structure MmaOp where
  ta    : Nat
  tb    : Nat
  bytesA : Nat
  bytesB : Nat
  tagA  : Nat
  tagB  : Nat
  k     : Nat
  reg   : Region
  sparse : Option (List (Byte × Bool))
  cls   : Cls
deriving DecidableEq, Repr

/-- Where a drain's amax goes (10 R300): nowhere, a scratch offset, or a translated global word. -/
inductive AmaxDst where
  | none
  | scratch (off : Nat)
  | global (va pa : Nat) (host : Bool)
deriving DecidableEq, Repr

/-- The posted operations (10 R287 to R300), with the shapes and tags that the configuration gave them when they were posted. -/
inductive MatKind where
  | tcfg (t rows bytes : Nat)
  | untile (t : Nat)
  | tzr (t : Nat)
  | tmov (t a : Nat)
  | mxsc (t rows bytes : Nat) (b : Int)
  | tld (t rows bytes tag : Nat) (tr : Bool) (a pitch c : Nat)
  | tldq (t rows bytes a pitch c ppitch : Nat)
  | mma (o : MmaOp)
  | azr (rb n : Nat)
  | unrow (rbs : List Nat)
  | ald (reg : Region) (fresh : List Nat) (a pitch : Nat)
  | amov (dst src : Region) (scale : Option Nat) (cls : Cls)
  | adrn (reg : Region) (tags : List Nat) (fmt : Nat) (sat zero : Bool) (a pitch scale : Nat) (amax : AmaxDst) (bar : Option Nat)
      (cls : Cls)
deriving DecidableEq, Repr

/-- An operation of a reservation that is not complete: its posting cycle, the token of its long-latency result, whether it has
begun, the passes granted and in the array, a drain's amax that is still to be merged, with its poison, and the writes (group, token)
that it has to follow (12 R348). -/
structure MatOp where
  id    : Nat
  gk    : Nat
  tok   : Option Nat
  at_   : Nat
  kind  : MatKind
  begun : Bool
  granted : Nat
  inArray : List Nat
  amax  : Option (Nat × Bool)
  after : List (Nat × Nat)
deriving DecidableEq, Repr

/-- A reservation (10 R280): its team, bits [9:0] of its status (Table 10.5), its operations in posting order. -/
structure Reservation where
  team   : Nat
  status : BitVec 10
  ops    : List MatOp
deriving DecidableEq, Repr

/-- A declared convergence register (09 Table 9.10): EXPECT of the open round, by how much deaths after signing lower the next
one (01 R56), the threads that signed, and the first MMA signer's fields and checked operands (10 R292). -/
structure ConvReg where
  owner   : Nat
  members : Nat
  expect  : Nat
  lower   : Nat
  signed  : List (Nat × Nat)
  op      : Option (F3 × DWord × Bool × Cls × MmaOp)
deriving DecidableEq, Repr

/-- One quad's matrix engine (10): tiles, accumulator words by 256·row + column, the owners of its row blocks, the tag codes of its
element blocks by 4·row block + column block, the reservation table, the convergence registers that are VALID, demerits. -/
structure Quad where
  tiles  : List (Nat × Tile)
  acc    : RegFile
  rbs    : List (Nat × Nat)
  etags  : List (Nat × Nat)
  res    : List (Nat × Reservation)
  conv   : List (Nat × ConvReg)
  demerit : Nat
deriving DecidableEq, Repr

def Quad.reset : Quad := ⟨[], [], [], [], [], [], 0⟩


/-! ## Memory-side state (08, 12, 13, 15) -/

/-- An operator tag of 08 Table 8.6: AOP and ATYPE. -/
structure RedTag where
  aop : Nat
  ty  : Ty
deriving DecidableEq, Repr

/-- One element slot of a partial (13 R359): for the exact tags the accumulator of 02 R88, in units of 2^-149, and how many
contributions it took (R90); for the others the operator's value in `a`. -/
structure Slot where
  a    : Int
  n    : Nat
  pinf : Bool
  ninf : Bool
  nan  : Bool
  nz   : Bool
  pois : Bool
deriving DecidableEq, Repr

/-- Slots by byte offset in the line; an unlisted element holds the identity. -/
abbrev Slots := List (Nat × Slot)

/-- An entry of a core's reduction buffer (13 Table 13.2); `gen` names the REG it sent. -/
structure RedEntry where
  line  : Nat
  tag   : RedTag
  half  : Nat
  slots : Slots
  regd  : Bool
  gen   : Nat
  used  : Nat                     -- stamp of its last use
deriving DecidableEq, Repr

/-- A REG that a core sent and that is not yet acknowledged: the contributions (group, token) that wait for its RACK (13 R364). -/
structure CoreReg where
  gen  : Nat
  line : Nat
  tag  : RedTag
  toks : List (Nat × Nat)
deriving DecidableEq, Repr

/-- An entry of a cluster merge unit (13 Table 13.2, R361).  While it gathers for the home's merge of a number, `asked` are the cores
whose MPART it still waits for and `parts` the ones that have come, by core. -/
structure MuEntry where
  line    : Nat
  tag     : RedTag
  slots   : Slots
  holders : List Nat
  regd    : Bool
  gen     : Nat
  gather  : Option Nat
  asked   : List Nat
  parts   : List (Nat × Slots)
  used    : Nat
deriving DecidableEq, Repr

/-- A REG that a merge unit sent to a home and the cores that its RACK acknowledges (13 R361). -/
structure MuReg where
  gen   : Nat
  line  : Nat
  tag   : RedTag
  cores : List Nat
deriving DecidableEq, Repr

/-- Ends of a protocol message. -/
inductive Node where
  | core (c : Nat)
  | unit (cl : Nat)
  | home
deriving DecidableEq, Repr

/-- How an access uses L2 (08 Table 8.2, Table 8.3): it allocates with a retention (0 evicted first, 1 normal, 2 evicted last), it only
uses a copy that is there, or it goes through the home to memory. -/
inductive L2Use where
  | alloc (ret : Nat) | hit | through
deriving DecidableEq, Repr

/-- An ordinary access at a home on behalf of a group: n bytes at a physical address, with the token of its outstanding result
or of its unacknowledged write. -/
inductive HomeAcc where
  | rd (gk tok pa n : Nat) (u : L2Use) (dsts : List LoadDst)
  | wr (gk tok pa : Nat) (u : L2Use) (bytes : List Byte)
  | at (gk tok pa n : Nat) (u : L2Use) (dsts : List LoadDst) (op : AtomOp)
deriving DecidableEq, Repr

/-- Contents of the messages of 13 Table 13.3. -/
inductive MsgBody where
  | reg (tag : RedTag)
  | rack (tag : RedTag)
  | flush (tag : RedTag) (slots : Slots) (dereg : Bool)
  | mreq (tag : RedTag) (mn : Nat)
  | mpart (tag : RedTag) (mn : Nat) (slots : Slots)
  | lost (cl : Nat)
  | acc (a : HomeAcc)
deriving DecidableEq, Repr

/-- A protocol message in flight about one line, with the clock of the die that a write leaves (12 R342). -/
structure NetMsg where
  src  : Node
  dst  : Node
  line : Nat
  body : MsgBody
  vc   : List Nat
deriving DecidableEq, Repr

/-- The states of 13 Table 13.4 but for I, S and M. -/
inductive HomeSt where
  | iu | mu | u | ums | um
  | umu (op : RedTag)
deriving DecidableEq, Repr

/-- An event that a transient state has queued, or that waits for the end of a merge (13 R365): an access, an access that waits for the
registrations of the present merge (R347), a registration and whether a merge unit waits for its RACK, a flush, a lost cluster. -/
inductive HomeEv where
  | acc (a : HomeAcc)
  | after (a : HomeAcc)
  | reg (cl : Nat) (tag : RedTag) (ack : Bool)
  | flush (cl : Nat) (tag : RedTag) (slots : Slots) (dereg : Bool)
  | lost (cl : Nat)
deriving DecidableEq, Repr

/-- What memory holds beneath a dirty L2 line (13 Table 13.1, M): the content of its last write-back. -/
structure Backing where
  bytes : List Byte
  pois  : List Nat
deriving DecidableEq, Repr

/-- One L2 line (12 R331): what memory holds beneath it while it is dirty (M; clean: S), its retention (08 Table 8.2), its 64 check
bits, parity while it is clean and the DEC-TED code while it is dirty (16 R444), and whether memory fails too when it is fetched again. -/
structure L2Line where
  back  : Option Backing
  ret   : Nat
  check : BitVec 64
  lost  : Bool
deriving DecidableEq, Repr

/-- A line in U(op) or in a transient state at its home (13 Table 13.1).  Its base B is the line's content in `mem`, `back` what lay
beneath it when it left M.  `regs` are the registrations of the transient state, oldest first (CV′ during a merge): cluster, tag, and
whether a merge unit waits for the RACK. -/
structure HomeLine where
  st    : HomeSt
  op    : RedTag
  ha    : Slots
  cv    : List Nat
  regs  : List (Nat × RedTag × Bool)
  queue : List HomeEv
  back  : Option Backing
  mn    : Nat                     -- number of its present merge
  parts : List (Nat × Slots)      -- the parts that have arrived, by cluster
  lost  : List Nat                -- clusters whose part was lost, R369
  spilled : Bool                  -- R362
  used  : Nat
deriving DecidableEq, Repr

/-- As whom an L1 line was filled: as every observer, as a checked launch or one of its later runs, which see held bytes (15 R416, R423),
or as the constants of a launch (12 Table 12.1). -/
inductive L1View where
  | plain
  | launch (kid : Nat)
  | run (tk : Nat)
  | const (kid : Nat)
deriving DecidableEq, Repr

/-- One line of a core's L1 data cache (12 R326, R327) with its epoch tags for team, gang and device scope. -/
structure L1Line where
  line : Nat
  view : L1View
  first : Bool                    -- evicted first (08 Table 8.2)
  data : List Byte
  pois : List Nat                 -- poisoned 16-byte chunks 0 to 3
  from_ : List (Nat × Nat)        -- by byte offset, the Sleeve entries of the versions it was composed from (15 R423)
  et   : Nat
  eg   : Nat
  ed   : Nat
deriving DecidableEq, Repr

/-- What the scratchpad of a core has given away in one cycle (12 R325): the words served, by bank, the requests served, the rank of
the last requester considered, and whether a request was held over from it. -/
structure BankUse where
  cycle : Nat
  words : List (Nat × Nat)
  served : Nat
  last  : Nat
  heldOver : Bool
deriving DecidableEq, Repr

/-- A side-log entry (08 Table 8.8), with the group and the token that a release waits for. -/
structure SideEntry where
  team : Nat                      -- key of the team
  gk   : Nat
  tok  : Nat
  inst : Nat                      -- the issue that made it: threads of one instruction share an entry
  va   : Nat                      -- address of the 16-byte chunk
  red  : Bool
  tag  : RedTag
  data : List (Nat × Byte)        -- bytes by offset in the chunk
  pois : Bool                     -- an uncorrectable word in it: the chunk is applied poisoned, 16 R443
deriving DecidableEq, Repr

/-- VKIND of 15 Table 15.9. -/
inductive VKind where
  | original | replay | auth | partialV
deriving DecidableEq, Repr

/-- A version of a line in the Apron (15 R421, Table 15.9).  The versions of a line stand in chain order.  A held store to host or peer
memory is kept as a version too, of a line that `outLine` numbers (12 R352). -/
structure Version where
  line  : Nat
  kind  : VKind
  kid   : Nat
  owner : Nat                     -- key of the owning run's team
  entry : Nat                     -- key of that team's Sleeve entry (R414)
  bytes : List (Nat × Byte)       -- the held bytes by offset
  pois  : List Nat                -- poisoned chunks 0 to 3
  parts : List (RedTag × Slots)   -- held contributions (13 R370), oldest first
  rel   : Bool                    -- it holds a release, which is committed with the writes it orders (15 R424)
deriving DecidableEq, Repr

/-! ## Mover, barriers, queues, deques, copy engines (09) -/

/-- A mover descriptor as it was checked (09 Table 9.2, Table 9.3); strides in bytes, index 0 the element size. -/
structure Desc where
  kind   : Nat
  rows   : Option Nat          -- CPYG and CPYS: the own-scratch address of the row indexes
  scatter : Bool               -- CPYS
  gaddr  : Nat
  saddr  : Nat
  bar    : Option Nat
  cpol   : Nat
  enc    : Bool
  dec    : Bool
  digest : Option (Bool × Nat) -- DIGSP and DIGADDR
  esize  : Nat
  ndim   : Nat
  ext    : List Nat
  gstr   : List Nat
  sstr   : List Nat
deriving DecidableEq, Repr

/-- Where a descriptor stands (09 R257, R258): queued, at work, or in the fault queue on an address. -/
inductive DescSt where
  | queued | working
  | faulted (va : Nat)
deriving DecidableEq, Repr

/-- A descriptor in flight. -/
structure Move where
  id     : Nat
  team   : Nat
  gk     : Nat
  d      : Desc
  st     : DescSt
  pos    : Nat                 -- bytes of the box written
  counted : Nat                -- bytes counted into BAR
  h0     : DWord               -- the digest so far
  h1     : DWord
  carry  : List Byte           -- written bytes of the digest's last, incomplete chunk
  tail   : List Byte           -- bytes written of the destination chunk at hand, whose signature event is still to be formed (15 R407)
  digDone : Bool
  idx    : Nat                 -- CPYG and CPYS: the index of the row at work, as it was read (R254)
  after  : List (Nat × Nat)    -- the writes (group, token) that it has to follow (12 R348)
  log    : Option (List Byte)  -- a later run's bytes for a kind 2 copy out of a partner's scratch (R278)
  logAt  : Option Nat          -- the original's log record that such a copy fills, by its position in the group's segment (15 R411)
deriving DecidableEq, Repr

/-- A queue register that has been set up (09 Table 9.9). -/
structure QueueReg where
  owner : Nat                  -- key of the owner team
  head  : Nat
  tail  : Nat
  full  : Nat
  ssize : Nat
  slots : Nat
  base  : Nat
deriving DecidableEq, Repr

/-- A core's deque (09 R276): the launch that holds it, and its entries from top to bottom with their poison. -/
structure Deque where
  kid     : Nat
  entries : List (DWord × Bool)
deriving DecidableEq, Repr

/-- A copy command in an engine's ring (09 Table 9.5), or a management-core copy by physical address (16 R463). -/
structure CopyCmd where
  src     : Nat
  dst     : Nat
  len     : Nat
  doneAt  : Option Nat
  doneVal : Nat
  dig     : Nat
  tenant  : Nat
  phys    : Bool
  team    : Option Nat
  gk      : Nat
  id      : Nat
  after   : List (Nat × Nat)   -- as for a descriptor (12 R348)
deriving DecidableEq, Repr

/-- One package copy engine (09 R264). -/
structure CopyEngine where
  ring : List CopyCmd
  busy : Option CopyCmd
deriving DecidableEq, Repr

/-- A hardware barrier colour (09 Table 9.8).  `flips` holds the cycles at which its flips become visible, and `seen` the parity
that waiters see (R271). -/
structure Colour where
  cfg     : Bool
  phase   : Bool
  expect  : Nat
  pending : Nat
  seen    : Bool
  flips   : List Nat
deriving DecidableEq, Repr

def Colour.reset : Colour := ⟨false, false, 0, 0, false, []⟩

/-- A gang (01, 14): its launch, its members by rank, and its colours. -/
structure Gang where
  kid     : Nat
  members : List Nat           -- keys of its original teams by %grank
  cluster : Nat
  colours : List Colour
deriving DecidableEq, Repr

/-! ## Teams (01, 14, 15) -/

/-- One section of a context image as the save area holds it: its bytes and its CRC-32 (14 R391). -/
structure ImageSect where
  bytes : List Byte
  crc   : Nat
deriving DecidableEq, Repr

/-- What a save takes from a team's core and quad (14 Table 14.10; 10 R284): its reservation with tiles, row blocks, the words of
their accumulator and their element-block tags, its queue and convergence registers, its deque's entries, its descriptors, its
pending side-log entries; and the sections of the whole image as bytes. -/
structure Image where
  res    : Option Reservation
  tiles  : List (Nat × Tile)
  rbs    : List Nat
  acc    : RegFile
  etags  : List (Nat × Nat)
  queues : List (Nat × QueueReg)
  conv   : List (Nat × ConvReg)
  deque  : Option (List (DWord × Bool))
  moves  : List Move
  slog   : List SideEntry
  sections : List ImageSect
deriving DecidableEq, Repr

/-- What other teams have given to a barrier (09 R278; log 42): arrivals and net bytes of the present phase, early arrivals for the next one,
arrivals and net bytes of the phase that ended last. -/
structure Given where
  arr   : Nat
  tx    : Int
  next  : Nat
  arr0  : Nat
  tx0   : Int
deriving DecidableEq, Repr

/-- One run of one team (01, 14, 15). -/
structure Team where
  kid    : Nat
  tid    : Nat                -- %team
  gang   : Nat                -- key of its gang
  grank  : Nat
  core   : Nat
  kind   : RunKind
  roles  : List Role          -- with the quotas in force (11 R312)
  groups : List Nat           -- keys of its groups in %gid order
  scratchSize : Nat
  scratch : RegFile           -- scratch by 32-bit word, 01 R25
  regq   : Option RegqSet
  ticket : Nat                -- descriptor tickets given, 09 R256
  recq   : List ErrRec        -- the 16 most recent records, oldest first, 11 R317
  unread : Nat                -- how many of them ERRR has not read
  chk    : Checked
  startCycle : Nat            -- 11 R316
  startThr : Nat
  startClk : Nat
  beatAt : Nat                -- %clk at which the heartbeat timer last started, 14 R396
  resid  : Residence
  held   : Bool               -- not restored until LCMD CMD 2 or 3, 14 R394, R397
  placedAt : Nat              -- stamp of its placement, 14 R387
  image  : Option Image       -- while it is saved
  ended  : Option Nat         -- the trap code it was ended with, 16 R437; or 0
  exits  : Nat                -- threads exited by EXIT, 15 Table 15.3
  endClk : Nat                -- %clk at its end, 15 Table 15.11
  sameAs : Nat                -- key of the original run's Sleeve entry, 15 R414
  lastKid : Option Nat        -- the launch accepted last from a LAUNCH of it, 14 R373
  given  : List (Nat × Given) -- model: by scratch offset of a barrier, log 42
deriving DecidableEq, Repr


/-! ## Physical units (01, 03, 12, 16) -/

/-- A block in a core's instruction cache (03 R100): the fields of its checked descriptor and its words as fetched. -/
structure CBlock where
  tenant : Nat
  addr   : Nat
  ent    : Entered
  words  : List DWord
deriving DecidableEq, Repr

/-- Page attributes (16 Table 16.11). -/
inductive PAttr where
  | wb | uc | dev | prot
deriving DecidableEq, Repr

/-- A translation: where a page or window unit lies, and what it permits (16 R451, R453). -/
structure Xlat where
  base : Nat            -- virtual address of the page's first byte
  size : Nat            -- bytes of the page
  pa   : Nat            -- physical (or host bus) address of the page's first byte
  host : Bool
  attr : PAttr
  r    : Bool
  w    : Bool
  x    : Bool
deriving DecidableEq, Repr

/-- A TLB entry with its hotness counter (16 R457, R459). -/
structure TlbEntry where
  tenant : Nat
  xl     : Xlat
  leaf   : Nat          -- physical address of the leaf entry
  hot    : Nat
deriving DecidableEq, Repr

/-- A table pointer in the walkers' cache of a die (16 R456, R457): the level of the table that it points to, the first virtual address
that the table serves, where the table lies, whether it is a 64-KiB-page table. -/
structure WalkPtr where
  die    : Nat
  tenant : Nat
  level  : Nat
  base   : Nat
  next   : Nat
  big    : Bool
deriving DecidableEq, Repr

/-- One physical core. -/
structure Core where
  cpdg    : Word                  -- CSR 0x0A0, 08 Table 8.4
  l1      : List L1Line           -- L1 data cache, 12 R326
  banks   : List BankUse          -- its scratchpad's cycles, latest first, 12 R325
  epochs  : List Nat              -- the team, gang and device epoch counters, 12 R327
  sweeps  : List (Nat × Nat)      -- sweeps in progress: scope index, cycle at which it ends, 12 R328
  red     : List RedEntry         -- reduction buffer, 13 R359
  regs    : List CoreReg          -- its unacknowledged REGs
  slog    : List SideEntry        -- side log in order of entry, 08 R243
  moves   : List Move             -- the mover's descriptors in issue order, 09 R257
  queues  : List (Nat × QueueReg) -- q0 to q15 that are VALID, 09 Table 9.9
  deque   : Option Deque          -- 09 R276
  icache  : List CBlock
  tlb     : List TlbEntry         -- L1 TLB, oldest first
  demerit : Nat                   -- 15 R427
  collar  : Bool                  -- 15 Table 15.15
  retired : Bool
  slots   : List Byte             -- its slot table as written, and the one in force, 14 R382, R383
  slotsOn : List Byte
  lend    : Bool                  -- LEND as written and in force
  lendOn  : Bool
  mhz     : Nat                   -- the core clock (11 R316, 18 R504)
  thr     : Nat                   -- throttle steps so far
deriving DecidableEq, Repr

/-- The slot table at reset: tenant 0 in every entry (14 R382). -/
def slotsReset : List Byte := List.replicate 64 0x80

def Core.reset : Core :=
  { cpdg := 0, l1 := [], banks := [], epochs := [0, 0, 0], sweeps := [], red := [], regs := [], slog := [], moves := [], queues := [],
    deque := none, icache := [], tlb := [], demerit := 0, collar := false, retired := false, slots := slotsReset, slotsOn := slotsReset,
    lend := false, lendOn := false, mhz := 1800, thr := 0 }

/-- One physical cluster. -/
structure Cluster where
  tlb    : List TlbEntry          -- L2 TLB
  mus    : List MuEntry           -- merge unit, 13 R361
  muRegs : List MuReg             -- its unacknowledged REGs, oldest first
  spareQuad : Nat                 -- its spare quad, 00 Table 0.1
  spareUsed : Bool                -- 15 R428
  fenced : Option Nat             -- %clk of the fence of a containment reset, 17 R474
deriving DecidableEq, Repr

def Cluster.reset (cl : Nat) : Cluster := { tlb := [], mus := [], muRegs := [], spareQuad := Config.quadsPerCluster * cl + 24, spareUsed := false, fenced := none }

/-- The registers of one tenant context (16 Table 16.6). -/
structure Ctx where
  wbase  : Nat
  wlimit : Nat
  woff   : Nat
  wen    : Bool
  wx     : Bool
  ww     : Bool
  wr     : Bool
  ptroot : Nat
  pten   : Bool
  shadow : Nat
  erbase : Nat
  eren   : Bool
  erlog  : Nat
  ertail : Nat
  erhead : Nat
  erdrop : Nat
  erover : Bool                   -- the next record written carries OVERFLOW, R441
  tcarg  : Nat
  iva    : Nat
  isize  : Nat
  idone  : Bool
  mpa    : Nat
  msize  : Nat
  mbusy  : Bool
  mdone  : Bool
  tcmderr : Nat
deriving DecidableEq, Repr

def Ctx.reset : Ctx :=
  { wbase := 0, wlimit := 0, woff := 0, wen := false, wx := false, ww := false, wr := false, ptroot := 0, pten := false,
    shadow := 0, erbase := 0, eren := false, erlog := 6, ertail := 0, erhead := 0, erdrop := 0, erover := false, tcarg := 0,
    iva := 0, isize := 0, idone := true, mpa := 0, msize := 0, mbusy := false, mdone := true, tcmderr := 0 }

/-- A record of the replay log as its bytes say it (15 Table 15.4, 15.5). -/
structure LogRec where
  kind    : Nat
  tid     : Nat
  seq     : Nat
  value   : Nat
  payload : List Byte
deriving DecidableEq, Repr

/-- The states of a team of a checked kernel (15 Table 15.7). -/
inductive CheckSt where
  | run | sleeve | replay | auth | rerun | checked | repaired | unstable | unchk
deriving DecidableEq, Repr

/-- What the other teams had given to the phase that a wait saw over (09 R278; log 42): the group and its instruction count, and their
arrivals and net bytes. -/
structure SeenOver where
  gid : Nat
  seq : Nat
  arr : Nat
  tx  : Int
deriving DecidableEq, Repr

/-- The trap that ended a team (15 R436): its group, the instruction by its count, its code. -/
structure EndTrap where
  gid  : Nat
  seq  : Nat
  code : Nat
deriving DecidableEq, Repr

/-- A Sleeve entry (15 Table 15.6), with the bytes of the team's replay log by group (15 R409; log 14), what each run came to, and what later
runs need to know of the original beside its log (log 42). -/
structure SleeveEntry where
  kid      : Nat
  tid      : Nat
  sigO     : DWord
  sigR     : DWord
  sigA     : DWord
  coreO    : Nat
  coreR    : Option Nat
  coreA    : Option Nat
  st       : CheckSt
  tainted  : Bool
  scratchDep : Bool
  replayTainted : Bool
  replayBad : Bool                      -- its replay was tainted or divergent (15 Table 15.8)
  second   : Bool
  doomed   : Bool                       -- it becomes UNSTABLE at its end (15 R425)
  notBefore : Nat
  wants    : Option RunKind             -- the run that it waits to have placed
  run      : Option Nat                 -- key of the team of its run in progress
  logs     : List (Nat × List Byte)     -- by %gid, the bytes of its segment that are in use
  overs    : List SeenOver              -- model: latest first
  endTrap  : Option EndTrap             -- model
deriving DecidableEq, Repr


/-! ## Device links and communication groups (17) -/

/-- A device link (17 Table 17.7). -/
structure Link where
  up      : Bool
  peer    : Nat
  resends : Nat
deriving DecidableEq, Repr

def Link.reset : Link := ⟨false, 0xFFF, 0⟩

/-- A route entry (17 R482). -/
structure Route where
  valid : Bool
  link  : Nat
deriving DecidableEq, Repr

/-- A communication group's word (17 R484). -/
structure CommGroup where
  valid : Bool
  gen   : Nat
deriving DecidableEq, Repr

/-- A peer slot (17 R484). -/
structure PeerSlot where
  valid : Bool
  group : Nat
  dev   : Nat
deriving DecidableEq, Repr

/-- The fabric registers and tables (17 Table 17.7); unlisted entries are all zero, an unlisted link is `Link.reset`. -/
structure Fabric where
  node    : Nat
  apbase  : Nat
  membase : Nat
  fabarg  : Nat
  done    : Bool
  result  : Nat
  index   : Nat
  links   : List (Nat × Link)
  routes  : List (Nat × Route)
  groups  : List (Nat × CommGroup)
  slots   : List (Nat × PeerSlot)
deriving DecidableEq, Repr

def Fabric.reset : Fabric :=
  { node := 0xFFF, apbase := 0, membase := 0, fabarg := 0, done := true, result := 0, index := 0, links := [], routes := [],
    groups := [], slots := [] }

/-- What a peer answers to a request of the present turn (log 15): it refuses, or it delivers bytes. -/
structure PeerAns where
  refused : Bool
  bytes   : List Byte
  pois    : Bool
deriving DecidableEq, Repr

/-- What leaves the device (log 12). -/
inductive OutMsg where
  | msix (tenant : Nat)                  -- the tenant context's completion vector, 14 R377
  | msixErr (tenant : Nat)               -- its error vector, 16 R434
  | packet (link : Nat) (p : Packet)     -- on a device link
  | bytes (kind : Nat) (bs : List Byte)  -- an answer or a packet, by kind
deriving DecidableEq, Repr

/-- A tenant's key slot (18 R498): the 64 bytes of the XTS key pair and the 32 bytes of the MAC key. -/
structure KeySlot where
  xts : List Byte
  mac : List Byte
deriving DecidableEq, Repr

/-! ## Launch rings (14) -/

/-- A launch ring's registers (14 Table 14.1); LOGSIZE and TENANT as written. -/
structure Ring where
  base    : Nat
  en      : Bool
  logsize : Nat
  tenant  : Nat
  tail    : Nat
  head    : Nat
  last    : Option Nat               -- the launch accepted last from it, 14 R373
deriving DecidableEq, Repr

def Ring.reset : Ring := ⟨0, false, 4, 0, 0, 0, none⟩

/-! ## The package fabric (17 R466 to R477) -/

/-- One virtual channel of one direction of a link: at the sender the flits sent S, the credits C, whether the counter failed its
parity; at the receiver the flits accepted A, the free slots F, the header of the packet under way, whether it is dropped. -/
structure Channel where
  sent     : Nat
  credits  : Nat
  bad      : Bool
  accepted : Nat
  free     : Nat
  header   : Option (List Byte)
  dropping : Bool
deriving DecidableEq, Repr

/-- An audit on its way (17 R472): VC, A, F. -/
structure Audit where
  vc : Nat
  a  : Nat
  f  : Nat
deriving DecidableEq, Repr

/-- One direction of a link: its channels (unlisted: at full depth), the replay buffer of unacknowledged flits, the resends in a
row, whether it is in its bundle, the audits and the audit requests in flight, its last audit time. -/
structure Port where
  vcs    : List (Nat × Channel)
  replay : List Flit
  fails  : Nat
  live   : Bool
  audits : List Audit
  asked  : List Nat
deriving DecidableEq, Repr

def Port.reset : Port := ⟨[], [], 0, true, [], []⟩

/-- A pinned spine (17 R470): the spine chosen last and the packets in flight. -/
structure Pin where
  spine : Nat
  count : Nat
deriving DecidableEq, Repr

/-! ## The configuration store (18 R495, Table 18.4) -/

/-- One bank: its sequence number, whether its signature verifies, its records. -/
structure Bank where
  seq     : Nat
  sound   : Bool
  set     : Settings
  collars : List (Nat × Nat × Nat)   -- core, %clk, demerit
  spareQuads : List (Nat × Nat)      -- cluster, its spare quad (SPARE of 15 Table 15.15); unlisted: the cluster's last
  spares  : List (Nat × Nat)         -- cluster, the quad that its spare replaces
  repair  : List Byte                -- array repair data
  owner   : Option (List Byte)       -- the owner's public key
  minFw   : Nat
deriving DecidableEq, Repr

/-! ## Sessions and health (17 R478, 18 R501, 15 R430) -/

/-- A function's SPDM state: the transcript so far, and whether a session is open and secured. -/
structure Session where
  transcript : List Byte
  opened  : Bool
  secured : Bool
deriving DecidableEq, Repr

/-- A suspect entry (15 Table 15.16). -/
structure Suspect where
  unit   : Nat
  lane   : Nat
  index  : Nat
  events : Nat
  last   : Nat
deriving DecidableEq, Repr


/-! ## The model's own data -/

/-- An upset of one thread operation of the instruction being issued (log 11; thread 32: the group's once-only computation; 64 + t: the
write pass of thread t, and 128: PICK's routed read, 07 R208): whether a third result agrees with one of the first two (15 Table 15.2), by how
many lanes the lane whose result lost stands after the home lane (15 R400, R402), and the bits that a plain-class result suffers. -/
structure Vote where
  t     : Nat
  agree : Bool
  loser : Nat
  flip  : Nat
deriving DecidableEq, Repr

/-- An array error that the outside brings about (16 R443, Table 16.8; log 11): an uncorrectable word of the issuing group's
registers, pocket, scratch, or thread or group state; of a quad's tile, sidecar or accumulator; of a reduction buffer's, merge unit's or
home merge buffer's element; of side-log, deque, queue or convergence state; of a replay log; of memory or a dirty L2 line; a change of a
byte of a saved context image and of its CRC (R450); a change of the check bits of a clean L2 line, which the line's next use finds, and
whether memory fails too when it is fetched again (R444); a dropped L1 line, instruction block, entry of an L1 or L2 TLB or of the walkers'
cache, or loop buffer of the issuing group; or an error that an array's code
corrected in a unit of a type and an index of 15 Table 15.16. -/
inductive Hit where
  | vreg (t n : Nat)
  | sreg (n : Nat)
  | pocket (t w : Nat)
  | scratch (w : Nat)
  | threadState (t : Nat)
  | groupState
  | tile (q t w : Nat)
  | sidecar (q t w : Nat)
  | acc (q w : Nat)
  | redElem (core line off : Nat)
  | muElem (cl line off : Nat)
  | homeElem (line off : Nat)
  | sideChunk (core i : Nat)
  | dequeEntry (core i : Nat)
  | teamState (team : Nat)
  | logWord (team : Nat)
  | image (team sect off flip crc : Nat)
  | memLine (pa : Nat)
  | l2Line (pa flip : Nat) (lost : Bool)
  | l1Line (core line : Nat)
  | codeBlock (core tenant addr : Nat)
  | tlb (core i : Nat)
  | l2Tlb (cl i : Nat)
  | walkPtr (i : Nat)
  | loopBuf (n : Nat)
  | corrected (array unit die lane index : Nat)
deriving DecidableEq, Repr

/-- What one turn brings from outside besides the act itself (log 2, log 11): the time that each executing thread adds to
%clk in turn, and the upsets of its computations. -/
structure Env where
  lane  : List Nat
  votes : List Vote
  peer  : List PeerAns     -- the answers of peer devices, in order, log 15
  cut   : Option Nat       -- a per-thread instruction passes so many threads in this turn; the others pass later, 01 R44, 14 R388
  sense : Option (Nat × Nat)   -- MODW and TMAX as they now stand, 18 Table 18.1
  req   : Option (Nat × Nat)   -- not brought: the request being gathered, its line and its number, 08 R226
  rel   : Bool                 -- not brought: the access at hand is a release, 15 R424
deriving DecidableEq, Repr

def Env.quiet : Env := { lane := [], votes := [], peer := [], cut := none, sense := none, req := none, rel := false }

/-- Whose turn it is (log 1): a group issues, or an agent acts. -/
inductive Act where
  | issue (group : Nat)
  | event (i : Instr)
deriving DecidableEq, Repr

/-- One turn: the core cycles and the nanoseconds of %clk that pass before it, its environment and its act. -/
structure Turn where
  dCycles : Nat
  dClk    : Nat
  env     : Env
  hits    : List Hit
  act     : Act
deriving DecidableEq, Repr

/-- The whole machine. -/
structure State where
  agenda   : List Turn                 -- model: whose turn it is, log 1
  cur      : Nat                       -- model: the issuing group, log 1
  cycle    : Nat                       -- core cycles so far, log 2
  clk      : DWord                     -- %clk, 01 R34
  env      : Env                       -- model: what the present turn brought
  fresh    : Nat                       -- model: counter of free values, log 8
  stamp    : Nat                       -- model: counter of issues and of order of arrival
  mem      : List Host.Cell            -- device memory by physical address
  mpois    : List Nat                  -- poisoned 16-byte chunks, by address / 16, 16 R445
  host     : List Host.Cell            -- host memory by host bus address
  homes    : List (Nat × HomeLine)     -- lines in U or a transient state, by PA / 64, 13 R357
  homeQ    : List (Nat × HomeEv)       -- events that wait for a merge-buffer entry, by PA / 64, 13 R362
  l2       : List (Nat × L2Line)       -- L2 lines in S and M, by PA / 64, 12 R331
  net      : List NetMsg               -- protocol messages in flight, oldest first
  apron    : List Version              -- 15 R421, chains in order
  vclocks  : List (Nat × List Nat)     -- the dies' vector clocks, 12 R342; unlisted [0, 0, 0, 0, 0]
  groups   : List (Nat × Group)
  teams    : List (Nat × Team)
  launches : List (Nat × Launch)
  cores    : List (Nat × Core)         -- by physical core number; unlisted: Core.reset
  clusters : List (Nat × Cluster)      -- by physical cluster number; unlisted: Cluster.reset
  walkPtrs : List WalkPtr              -- the walkers' caches of table pointers, 16 R457
  quads    : List (Nat × Quad)         -- by physical quad number; unlisted: Quad.reset
  gangs    : List (Nat × Gang)
  engines  : List (Nat × CopyEngine)   -- package copy engines 0 to 31; unlisted: empty, 09 R264
  ctxs     : List (Nat × Ctx)          -- by tenant context; unlisted: Ctx.reset
  mlogs    : List (Nat × List ErrRec)  -- management logs by die, 16 R441
  sleeve   : List (Nat × SleeveEntry)  -- by the original team's key, 15 R414
  outbox   : List OutMsg               -- model: what left the device, newest first, log 12
  recQ     : List ErrRec               -- model: records raised in this step, not yet offered to their rings (16 R441)
  fabric   : Fabric                    -- 17 Table 17.7
  thresh   : Nat                       -- CHKCTL.THRESH, 15 Table 15.14
  counts   : List (Nat × Nat)          -- the health counters COUNTS, 15 Table 15.16; unlisted 0
  spillMiB : Nat                       -- spill area of each die, configuration store, 13 R362
  devMode  : Mode                      -- the default checking mode, 00 R6
  keys     : List (Nat × KeySlot)      -- by tenant context; unlisted: an empty slot, 18 R498
  confid   : Bool                      -- Confidential mode, 00 Table 0.4
  rings    : List (Nat × Ring)         -- launch rings 0 to 63, 14 Table 14.1; unlisted: Ring.reset
  lastPos  : Nat                       -- the position served last: a ring, or 64 for LAUNCH, 14 R373
  nextKid  : Nat                       -- 14 R376
  fullAt   : List (Nat × Nat)          -- slices whose Apron is full, with the %clk since when, 15 Table 15.11
  decayed  : Nat                       -- demerit decay steps done since power-up, 15 R427
  ready    : Bool                      -- DEVREADY, 18 Table 18.1
  fail     : Bool
  fcode    : Nat
  phase    : Nat
  confreq  : Bool                      -- DEVCTL
  cap      : Nat                       -- PWRCTL.CAP, and the cap in force, 18 R503
  capOn    : Nat
  modw     : Nat                       -- PWRSTAT
  tmax     : Nat
  steps    : List (Nat × Nat × Nat)    -- by die: STEP and the %clk of its last change, 18 R504; unlisted 0, 0
  duty     : List Nat                  -- quads whose engine is duty-throttled, 18 R504
  store    : List Bank                 -- the two banks, 18 R495
  inForce  : Nat                       -- the bank loaded
  locked   : Bool                      -- CHKCTL.LOCKED, 15 Table 15.14
  serial   : DWord                     -- device serial number
  fw       : List Byte                 -- the firmware image, its security version, its signature, 18 R493
  fwVer    : Nat
  fwSig    : List Byte
  sessions : List (Nat × Session)      -- SPDM state by function, 18 R501
  ide      : List (Nat × List Byte)    -- IDE streams that are set up, 17 R478
  healthSeq : Nat                      -- SEQ of the health record, 15 Table 15.16
  suspects : List Suspect
  ringsShut : Bool                     -- a failed restore keeps every EN at 0, 17 R488
  ports    : List (Nat × Port)         -- directions of fabric links, 17 R466; unlisted: Port.reset
  pins     : List (Nat × Pin)          -- pinned spines by leaf, destination leaf and VC, 17 R470
  colFirst : List (Nat × Nat)          -- pairs of dies that route column first, 17 R477
  pausedTo : Nat                       -- %clk until which injection between dies is stopped, 17 R477
deriving DecidableEq, Repr

/-- The settings of the configuration store as shipped (18 Table 18.4; log 7). -/
def settingsShipped : Settings :=
  { mode := 2, confreq := false, cap := 0, thresh := 128, locked := false, spill := 64, wall := 3600000,
    debug := [1, 2, 3, 4, 5, 6, 7, 8, 9, 10, 11, 12, 13, 14, 15, 16], modes := [], classes := [] }

/-- A bank as shipped (log 7). -/
def Bank.shipped (seq : Nat) : Bank :=
  { seq := seq, sound := true, set := settingsShipped, collars := [], spareQuads := [], spares := [], repair := [], owner := none, minFw := 0 }

/-- The machine right after reset, before bring-up (18 Table 18.1): every register at the reset value of its table, CFG values as
shipped (log 7), the others as log 6 says, and no group. -/
def State.reset : State :=
  { agenda := [], cur := 0, cycle := 0, clk := 0, env := Env.quiet, fresh := 0, stamp := 1, mem := [], mpois := [], host := [],
    homes := [], homeQ := [], l2 := [], net := [], apron := [], vclocks := [], groups := [], teams := [], launches := [], cores := [],
    clusters := [], walkPtrs := [], quads := [], gangs := [], engines := [], ctxs := [], mlogs := [], sleeve := [], outbox := [], recQ := [],
    fabric := Fabric.reset, thresh := 128, counts := [], spillMiB := 64, devMode := .verified, keys := [], confid := false,
    rings := [], lastPos := 64, nextKid := 1, fullAt := [], decayed := 0, ready := false, fail := false, fcode := 0, phase := 0,
    confreq := false, cap := 0, capOn := 0, modw := 0, tmax := 0, steps := [], duty := [], store := [Bank.shipped 1, Bank.shipped 0],
    inForce := 0, locked := false, serial := 0, fw := [], fwVer := 0, fwSig := [], sessions := [], ide := [], healthSeq := 0,
    suspects := [], ringsShut := false, ports := [], pins := [], colFirst := [], pausedTo := 0 }

/-! ## Why the machine stops -/

/-- Reasons of a fault. -/
inductive Fault where
  /-- An instruction is executed while no group of the device is issuing it.  Raised by every instruction's meaning when
  `cur` names no group.  Safe: no hardware is in such a state, since an instruction is always some group's. -/
  | noIssuingGroup
deriving DecidableEq, Repr

/-- Reasons of a refusal. -/
inductive Refusal where
  /-- The instruction has no meaning in the model yet.  Raised by `exec`'s arms only.  Safe. -/
  | notModelled (mnemonic : String)
deriving DecidableEq, Repr

/-- The outcome of a step. -/
abbrev Out := Host.Outcome State Fault Refusal

end Sys2Proof.Machine
end

