-- ==== Sys2Proof/Machine/Access.lean ====
section
/-!
DEFINITION. Reading and changing the pieces of State: groups, threads, teams, launches, cores, contexts, and the bytes of
memory with their poison marks.
-/
namespace Sys2Proof.Machine
open Sys2Proof

/-! ## Members of the tables -/

/-- A thread at team start (01 Table 1.3), at address 0. -/
def Thread.fresh : Thread :=
  { st := .live, pc := 0, blk := 0, ent := none, v := [], p := 0, x := [], psp := 0, pocket := [], vw := [], entAt := 0, late := [] }

/-- A group at team start (01 Table 1.3) without threads; placement fills it in. -/
def Group.fresh : Group :=
  { team := 0, gid := 0, role := 0, lane := 0, threads := [], s := [], entries := 0, sw := [], lateS := [],
    loops := [LoopReg.idle, LoopReg.idle, LoopReg.idle, LoopReg.idle], gstat := 0, gclass := 0, tvec := 0, tcause := 0,
    texec := 0, taddr := 0, tpc := [], tplace := [], tsize := 8, stopAt := none, stopSize := 8, stopCode := 0, stopVa := 0,
    resume := none, begun := false, wake := false, run := .running, parked := false, pend := [],
    unacked := [], unapplied := [], seen := [], fenced := false, served := false, seq := 0, logPos := 0, waitPk := false, hbarTok := none,
    yieldUntil := 0, issued := 0, aborts := 0, copyAborts := [], deferred := [] }

def Role.none : Role := ⟨0, 0, 0, 0⟩

def LaunchRec.none : LaunchRec :=
  { entry := 0, const := 0, constLen := 0, gridX := 1, gridY := 1, gridZ := 1, roles := [], scratch := 0, log := 0, gang := 1,
    colours := 0, persist := false, debug := false, repro := false, deque := false, preempts := false, serial := false,
    cls := .inherit, mode := .speed, release := .wait, hold := .none, level := .off, delay := 50, relTime := 0, beat := 0,
    wall := 0, prio := 0, tenant := 0, share := 1, wdpol := .kill, tvec := 0, done := 0 }

def Launch.none : Launch :=
  { r := LaunchRec.none, src := .ring 0 0, kid := 0, key := 0, slot := 0, next := 0, ended := 0, killed := 0, lostSt := 0,
    unchecked := 0, votes := 0, unstable := 0, conflict := 0, firings := 0, fired := false, wallUsed := 0, logBase := 0, waitsFor := Option.none,
    heldBy := Option.none, seq := 0 }

def Checked.fresh : Checked :=
  { sig := 0, sampled := false, tainted := false, unreplay := false, diverged := false, logBad := false, released := false,
    unheld := false, producers := [], scratchDeps := [] }

def Team.none : Team :=
  { kid := 0, tid := 0, gang := 0, grank := 0, core := 0, kind := .original, roles := [], groups := [], scratchSize := 0,
    scratch := [], regq := Option.none, ticket := 0, recq := [], unread := 0, chk := Checked.fresh, startCycle := 0, startThr := 0,
    startClk := 0, beatAt := 0, resid := .placed, held := false, placedAt := 0, image := Option.none, ended := Option.none,
    exits := 0, endClk := 0, sameAs := 0, lastKid := Option.none, given := [] }

def State.group (s : State) (k : Nat) : Group := (kvGet s.groups k).getD Group.fresh
def State.team (s : State) (k : Nat) : Team := (kvGet s.teams k).getD Team.none
def State.launch (s : State) (kid : Nat) : Launch := (kvGet s.launches kid).getD Launch.none
def State.core (s : State) (c : Nat) : Core := (kvGet s.cores c).getD Core.reset
def State.cluster (s : State) (c : Nat) : Cluster := (kvGet s.clusters c).getD (Cluster.reset c)
def State.ctx (s : State) (t : Nat) : Ctx := (kvGet s.ctxs t).getD Ctx.reset

def State.modGroup (s : State) (k : Nat) (f : Group → Group) : State := { s with groups := kvMod s.groups k f }
def State.quad (s : State) (q : Nat) : Quad := (kvGet s.quads q).getD Quad.reset
def State.modQuad (s : State) (q : Nat) (f : Quad → Quad) : State := { s with quads := kvSet s.quads q (f (s.quad q)) }
def State.modTeam (s : State) (k : Nat) (f : Team → Team) : State := { s with teams := kvMod s.teams k f }
def State.modLaunch (s : State) (k : Nat) (f : Launch → Launch) : State := { s with launches := kvMod s.launches k f }
def State.modCore (s : State) (c : Nat) (f : Core → Core) : State := { s with cores := kvSet s.cores c (f (s.core c)) }
def State.modCluster (s : State) (c : Nat) (f : Cluster → Cluster) : State :=
  { s with clusters := kvSet s.clusters c (f (s.cluster c)) }
def State.modCtx (s : State) (t : Nat) (f : Ctx → Ctx) : State := { s with ctxs := kvSet s.ctxs t (f (s.ctx t)) }

/-- Whether a team holds its lanes and registers on its core (14 R388). -/
def Residence.onCore : Residence → Bool
  | .placed | .preempting | .halted => true
  | _ => false

/-- The team of a group. -/
def State.teamOf (s : State) (gk : Nat) : Team := s.team (s.group gk).team
/-- The launch of a group's team. -/
def State.launchOf (s : State) (gk : Nat) : Launch := s.launch (s.teamOf gk).kid
/-- The tenant context of a group's launch. -/
def State.tenantOf (s : State) (gk : Nat) : Nat := (s.launchOf gk).r.tenant
def State.coreOf (s : State) (gk : Nat) : Nat := (s.teamOf gk).core

/-- Add to a health counter (15 Table 15.16). -/
def State.count (s : State) (i : Nat) : State := { s with counts := kvSet s.counts i (kvGetD 0 s.counts i + 1) }
def State.emit (s : State) (m : OutMsg) : State := { s with outbox := m :: s.outbox }

/-! ## Threads -/

def Group.thread (g : Group) (t : Nat) : Thread := g.threads.getD t Thread.fresh
def Group.modThread (g : Group) (t : Nat) (f : Thread → Thread) : Group := { g with threads := g.threads.modify t f }
def State.modThread (s : State) (k t : Nat) (f : Thread → Thread) : State := s.modGroup k (fun g => g.modThread t f)

/-- The threads of a group in a given state, ascending. -/
def Group.inState (g : Group) (st : TStat) : List Nat :=
  (List.range g.threads.length).filter (fun t => (g.thread t).st == st)

/-- LIVE (01 R42). -/
def Group.live (g : Group) : List Nat := g.inState .live

/-- A set of threads as a mask: bit t is thread t (01 Table 1.4). -/
def maskOf (ts : List Nat) : Nat := ts.foldl (fun m t => m ||| 2 ^ t) 0
/-- The threads of a mask, ascending. -/
def ofMask (m : Nat) : List Nat := (List.range 32).filter (fun t => m.testBit t)

/-- Predicate p of a thread; p7 is true (01 R29). -/
def Thread.pred (th : Thread) (p : Nat) : Bool := p == 7 || th.p.getLsbD p
/-- Write a predicate; a write to p7 is discarded (01 R29). -/
def Thread.setPred (th : Thread) (p : Nat) (b : Bool) : Thread :=
  if p = 7 then th else { th with p := if b then th.p ||| BitVec.ofNat 7 (2 ^ p) else th.p &&& ~~~ (BitVec.ofNat 7 (2 ^ p)) }

def Thread.idx (th : Thread) (i : Nat) : Nat := (kvGetD 0 th.x i).toNat

/-- Write words of a register file from register n. -/
def fileSet (f : RegFile) : Nat → List RegWord → RegFile
  | _, [] => f
  | n, w :: ws => fileSet (kvPut RegWord.zero f n w) (n + 1) ws

/-- Write vector registers of a thread, noting that they were written (01 R58); a word that returned earlier is written over (08
R229). -/
def Thread.setV (th : Thread) (n : Nat) (ws : List RegWord) : Thread :=
  { th with v := fileSet th.v n ws, vw := (List.range ws.length).foldl (fun m i => setInsert m (n + i)) th.vw
            late := th.late.filter (fun e => e.1 < n || n + ws.length ≤ e.1) }

/-- Write uniform registers (01 R30). -/
def Group.setS (g : Group) (n : Nat) (ws : List RegWord) : Group :=
  { g with s := fileSet g.s n ws, sw := (List.range ws.length).foldl (fun m i => kvSet m (n + i) g.entries) g.sw
           lateS := g.lateS.filter (fun e => e.1 < n || n + ws.length ≤ e.1) }

/-- The words of a thread that have returned become its registers' (01 R45); those of a thread that has ended stay as they stood
(01 R49). -/
def Thread.land (th : Thread) : Thread :=
  if th.st = .live then th.late.foldl (fun th e => th.setV e.1 [e.2]) th else { th with late := [] }

/-- What has returned to a group becomes its registers' content (01 R45). -/
def Group.land (g : Group) : Group :=
  let g := g.lateS.foldl (fun g e => g.setS e.1 [e.2]) g
  { g with threads := g.threads.map Thread.land }

/-- The PC-vector entry of a thread (01 Table 1.6). -/
def Thread.pcEntry (th : Thread) : DWord :=
  (match th.st with | .live => 0 | .exited => 0x4000000000000000 | .dead => 0x8000000000000000) ||| th.pc.zeroExtend 64

/-- Where a thread stands in its block. -/
def Thread.place (th : Thread) : Place := ⟨th.blk, th.ent, th.vw, th.entAt⟩

/-- A number as n words, lowest first. -/
def wordsOf : Nat → Nat → List RegWord
  | 0, _ => []
  | n + 1, x => ⟨BitVec.ofNat 32 x, false⟩ :: wordsOf n (x / 2 ^ 32)

/-! ## Bytes held in words (pocket, scratch) -/

/-- Byte at an offset of a file of words. -/
def fileByte (f : RegFile) (off : Nat) : Byte := BitVec.ofNat 8 ((kvGetD RegWord.zero f (off / 4)).val.toNat / 2 ^ (8 * (off % 4)))
def filePois (f : RegFile) (off : Nat) : Bool := (kvGetD RegWord.zero f (off / 4)).pois
def fileRead (f : RegFile) (off n : Nat) : List Byte := (List.range n).map (fun i => fileByte f (off + i))
/-- Whether any byte of a span lies in a poisoned word. -/
def filePoisAny (f : RegFile) (off n : Nat) : Bool := (List.range n).any (fun i => filePois f (off + i))

/-- Write one byte of a file of words, keeping the word's poison. -/
def fileSetByte (f : RegFile) (off : Nat) (b : Byte) : RegFile :=
  let w := kvGetD RegWord.zero f (off / 4)
  let sh := 8 * (off % 4)
  let v := w.val.toNat - (w.val.toNat / 2 ^ sh % 256) * 2 ^ sh + b.toNat * 2 ^ sh
  kvPut RegWord.zero f (off / 4) { w with val := BitVec.ofNat 32 v }

def fileSetBytes (f : RegFile) : Nat → List Byte → RegFile
  | _, [] => f
  | off, b :: bs => fileSetBytes (fileSetByte f off b) (off + 1) bs

/-- Set the poison marks of the words that a write of n bytes touches: a word written whole takes the mark, a word written in
part becomes poisoned if it was or if poison is written (16 R446). -/
def fileMark (f : RegFile) (off n : Nat) (pois : Bool) : RegFile :=
  (List.range ((off + n + 3) / 4 - off / 4)).foldl (fun f i =>
    let k := off / 4 + i
    let w := kvGetD RegWord.zero f k
    let whole := off ≤ 4 * k && 4 * k + 4 ≤ off + n
    kvPut RegWord.zero f k { w with pois := if whole then pois else w.pois || pois }) f

/-- Write bytes into a file of words with their poison (16 R446). -/
def fileWrite (f : RegFile) (off : Nat) (bs : List Byte) (pois : Bool) : RegFile :=
  if bs.isEmpty then f else fileMark (fileSetBytes f off bs) off bs.length pois

/-! ## Bytes of device memory -/

/-- What an unlisted byte of memory reads as: bring-up zeroes memory (18 R491, R492). -/
def memDefault : Byte := 0

/-- One byte of device memory at a physical address. -/
def State.memByte (s : State) (pa : Nat) : Byte := kvGetD memDefault s.mem pa
def State.memRead (s : State) (pa n : Nat) : List Byte := (List.range n).map (fun i => s.memByte (pa + i))
/-- Write one byte of a memory, keeping its canonical form. -/
def cellsSet (m : List Host.Cell) (a : Nat) (b : Byte) : List Host.Cell := kvPut memDefault m a b
def cellsWrite (m : List Host.Cell) : Nat → List Byte → List Host.Cell
  | _, [] => m
  | a, b :: bs => cellsWrite (cellsSet m a b) (a + 1) bs

/-- The canonical form of a memory: addresses strictly rising, and no entry equal to what an unlisted address reads as. -/
def Memory.wf (m : List Host.Cell) : Bool := kvWf memDefault m

/-- Whether any byte of a span of memory lies in a poisoned 16-byte chunk (16 R445). -/
def State.memPois (s : State) (pa n : Nat) : Bool :=
  n ≠ 0 && (List.range ((pa + n + 15) / 16 - pa / 16)).any (fun i => s.mpois.contains (pa / 16 + i))

/-- Poison marks after a write of n bytes: a chunk written whole takes the mark of what is written; a partial write leaves a
poisoned chunk poisoned (16 R446). -/
def poisAfter (m : List Nat) (pa n : Nat) (pois : Bool) : List Nat :=
  (List.range ((pa + n + 15) / 16 - pa / 16)).foldl (fun m i =>
    let k := pa / 16 + i
    let whole := pa ≤ 16 * k && 16 * k + 16 ≤ pa + n
    if pois then setInsert m k else if whole then setRemove m k else m) m

/-- Write bytes of device memory with their poison. -/
def State.memWrite (s : State) (pa : Nat) (bs : List Byte) (pois : Bool) : State :=
  if bs.isEmpty then s
  else { s with mem := cellsWrite s.mem pa bs, mpois := poisAfter s.mpois pa bs.length pois }

def State.hostByte (s : State) (a : Nat) : Byte := kvGetD memDefault s.host a
def State.hostRead (s : State) (a n : Nat) : List Byte := (List.range n).map (fun i => s.hostByte (a + i))
def State.hostWrite (s : State) (a : Nat) (bs : List Byte) : State := { s with host := cellsWrite s.host a bs }

/-- The bank of the configuration store that a load would use (18 R495): of those that verify, the one with the higher sequence
number. -/
def newestBank (bs : List Bank) : Nat :=
  let b (i : Nat) : Bank := bs.getD i (Bank.shipped 0)
  if (b 1).sound && (!(b 0).sound || (b 0).seq < (b 1).seq) then 1 else 0

/-- Write a record to the configuration store: the other bank takes it, and then the higher sequence number (18 R495). -/
def State.storeWrite (s : State) (f : Bank → Bank) : State :=
  let i := newestBank s.store
  let b := s.store.getD i (Bank.shipped 0)
  { s with store := s.store.set (1 - i) { f b with seq := b.seq + 1, sound := true } }

/-- A free number of the manual's open choices (log 8): the counter advances with each. -/
def State.free (s : State) : Nat × State := (Config.freeNat s.fresh, { s with fresh := s.fresh + 1 })

/-! ## The host's link (18 R490, Table 18.5) -/

/-- Whether the host's requests are taken: in Confidential mode each must arrive in an IDE stream; others complete as unsupported. -/
def State.linkOpen (s : State) : Bool := !s.confid || !s.ide.isEmpty

/-- Whether a write of a register of BAR0 other than DEVCTL, or an access through BAR2, is taken. -/
def State.hostOpen (s : State) : Bool := s.ready && s.linkOpen

end Sys2Proof.Machine
end

