-- ==== Sys2Proof/Machine/Operands.lean ====
section
/-!
DEFINITION. Every operand form of 03 R115 to R118: what a source supplies to a thread, through a permutation or not, and the
checks on register numbers that 01 R26, R28, R48 and R50 ask for.
-/
namespace Sys2Proof.Machine
open Sys2Proof

/-- One issue of a group (01 R42): its key, the address and size of the instruction, the descriptor address of its block, the
issuing set and EXEC, ascending. -/
structure Issue where
  key     : Nat
  w       : Nat
  size    : Nat
  blk     : Nat
  issuing : List Nat
  ex      : List Nat
deriving DecidableEq, Repr

/-- The lowest thread of EXEC. -/
def Issue.lowest (is : Issue) : Nat := is.ex.headD 0

/-- How a constant is supplied to an operand (03 R116, R117): as 32-bit bits zero-extended, as an f64, bf16 or f16 value, or
as a 16-bit value in both halves of a packed operand. -/
inductive CFmt where
  | w | f64 | bf16 | f16 | pbf16 | pf16
deriving DecidableEq, Repr

/-- The f32 bits of 03 Table 3.6. -/
def fcF32 : Nat → Nat
  | 0 => 0x3F000000 | 1 => 0x3F800000 | 2 => 0x40000000 | 3 => 0x40800000
  | 4 => 0x41000000 | 5 => 0x3E800000 | 6 => 0xBF000000 | 7 => 0xBF800000
  | 8 => 0xC0000000 | 9 => 0x80000000 | 10 => 0x7F800000 | 11 => 0xFF800000
  | 12 => 0x3FB8AA3B | 13 => 0x3F317218 | 14 => 0x7F7FFFFF | _ => 0x7FC00000

/-- A floating-point constant in a format (03 R117): the two logarithms round from their real values, "largest finite" and NaN
are the format's own, and the others convert exactly. -/
def fcBits (f : Fmt) (n : Nat) : Nat :=
  if n = 14 then f.maxC
  else if n = 15 then f.nanC
  else if n = 12 then (if f = Fmt.f64 then 0x3FF71547652B82FE else if f = Fmt.bf16 then 0x3FB9 else if f = Fmt.f16 then 0x3DC5 else fcF32 12)
  else if n = 13 then (if f = Fmt.f64 then 0x3FE62E42FEFA39EF else if f = Fmt.bf16 then 0x3F31 else if f = Fmt.f16 then 0x398C else fcF32 13)
  else (convFF f .rne false (FVal.decode .f32 (fcF32 n))).bits

/-- A 16-bit value in both halves. -/
def both (x : Nat) : Nat := x % 2 ^ 16 + 2 ^ 16 * (x % 2 ^ 16)

/-- What an integer or floating-point constant supplies (03 R116, R117).  A 64-bit complex operand of type f32 takes the f32 bits,
zero-extended: the constant is its real part and its imaginary part is +0 (06 R200; log 17). -/
def constVal (cf : CFmt) : Opnd → Nat
  | .int n => match cf with
    | .pbf16 | .pf16 => both n.val
    | _ => n.val
  | .fc n => match cf with
    | .w => fcF32 n.val
    | .f64 => fcBits .f64 n.val
    | .bf16 => fcBits .bf16 n.val
    | .f16 => fcBits .f16 n.val
    | .pbf16 => both (fcBits .bf16 n.val)
    | .pf16 => both (fcBits .f16 n.val)
  | _ => 0

/-- The thread that a permutation code names for thread i (03 Table 3.7); code 15 is illegal and reads its own thread here. -/
def permSrc (pm : Perm) (i : Nat) : Nat :=
  match pm.val with
  | 1 => i ^^^ 1 | 2 => i ^^^ 2 | 3 => i ^^^ 4 | 4 => i ^^^ 8 | 5 => i ^^^ 16
  | 6 => 31 - i
  | 7 => (i + 1) % 32 | 8 => (i + 2) % 32 | 9 => (i + 4) % 32 | 10 => (i + 8) % 32 | 11 => (i + 16) % 32
  | 12 => (i + 31) % 32
  | 13 => 0 | 14 => 31
  | _ => i

/-- %clk as thread t of an issue reads it: the turn says how much time each executing thread adds (01 R34, log 2); a thread
that is not of EXEC, and the group, read the time of the first. -/
def State.clkAt (s : State) (is : Issue) (t : Nat) : Nat :=
  let pos := is.ex.idxOf t
  let pos := if pos < is.ex.length then pos else 0
  (s.clk.toNat + (s.env.lane.take (pos + 1)).sum) % 2 ^ 64

/-- The team index in each dimension (01 R20). -/
def teamX (r : LaunchRec) (tid : Nat) : Nat := tid % r.gridX
def teamY (r : LaunchRec) (tid : Nat) : Nat := tid / r.gridX % r.gridY
def teamZ (r : LaunchRec) (tid : Nat) : Nat := tid / r.gridX / r.gridY

/-- %run (01 R35). -/
def runIndex (debug : Bool) (k : RunKind) : Nat :=
  if debug then (match k with | .original => 0 | .replay => 1 | .auth => 2) else 0

/-- The special registers (01 Table 1.4). -/
def State.special (s : State) (is : Issue) (t c : Nat) : Nat :=
  let g := s.group is.key
  let tm := s.team g.team
  let l := s.launch tm.kid
  match c with
  | 0x00 => t
  | 0x01 => g.gid
  | 0x02 => g.role
  | 0x03 => tm.tid
  | 0x04 => teamX l.r tm.tid
  | 0x05 => teamY l.r tm.tid
  | 0x06 => teamZ l.r tm.tid
  | 0x07 => tm.grank
  | 0x08 => tm.core
  | 0x09 => Config.quadOf tm.core
  | 0x0A => g.lane
  | 0x0B => s.clkAt is t
  | 0x0C => maskOf g.live
  | 0x0D => maskOf (g.inState .dead)
  | 0x0E => maskOf is.ex
  | 0x0F => l.kid
  | 0x10 => runIndex l.r.debug tm.kind
  | 0x11 => (g.thread t).psp.toNat
  | _ => 0

/-- What a source supplies: its bits, whether a word of it is poisoned, whether it was read from a dead thread. -/
structure Src where
  val  : Nat
  pois : Bool
  dead : Bool
deriving DecidableEq, Repr

/-- The vector or uniform register number that an operand names for a thread. -/
def regNo (g : Group) (t : Nat) : Opnd → Nat
  | .v n => n.val
  | .s n => n.val
  | .x i => (g.thread t).idx i.val
  | _ => 0

/-- Word k of a register operand, as thread t reads it. -/
def regWord (g : Group) (t : Nat) (o : Opnd) (k : Nat) : RegWord :=
  match o with
  | .v n => kvGetD RegWord.zero (g.thread t).v (n.val + k)
  | .x i => kvGetD RegWord.zero (g.thread t).v ((g.thread t).idx i.val + k)
  | .s n => kvGetD RegWord.zero g.s (n.val + k)
  | _ => RegWord.zero

/-- The first n words of a register operand as one number. -/
def regVal (g : Group) (t : Nat) (o : Opnd) : Nat → Nat
  | 0 => 0
  | n + 1 => regVal g t o n + (regWord g t o n).val.toNat * 2 ^ (32 * n)

def regPois (g : Group) (t : Nat) (o : Opnd) (n : Nat) : Bool := (List.range n).any (fun k => (regWord g t o k).pois)

/-- A source of n words as thread t reads it (01 R49, Table 1.9; 03 R115 to R118).  A permuted read of a dead thread gives 0.
A special register gives 32 bits but for %clk (03 R116). -/
def State.source (s : State) (is : Issue) (t : Nat) (o : Opnd) (pm : Perm) (n : Nat) (cf : CFmt) : Src :=
  let g := s.group is.key
  match o with
  | .v _ | .x _ =>
    let j := permSrc pm t
    if j ≠ t && (g.thread j).st == .dead then ⟨0, false, true⟩
    else ⟨regVal g j o n, regPois g j o n, false⟩
  | .s _ => ⟨regVal g t o n, regPois g t o n, false⟩
  | .sp c => ⟨s.special is t c.val % (if n ≤ 1 then 2 ^ 32 else 2 ^ 64), false, false⟩
  | o => ⟨constVal cf o % 2 ^ (32 * n), false, false⟩

/-- Whether an operand varies by thread (01 R48, Table 1.4). -/
def opVaries : Opnd → Bool
  | .v _ | .x _ => true
  | .sp c => c.val = 0x00 || c.val = 0x0B || c.val = 0x11
  | _ => false

def opIsUniform : Opnd → Bool | .s _ => true | _ => false
def opIsClk : Opnd → Bool | .sp c => c.val = 0x0B | _ => false

/-- A register operand of n words outside the group's allocation (01 R26). -/
def regOut (vregs sregs : Nat) (o : Opnd) (n : Nat) : Bool :=
  match o with
  | .v r => vregs < r.val + n
  | .s r => sregs < r.val + n
  | _ => false

/-- A v[xn] operand of n words outside the thread's allocation, or not on the boundary that n words need (01 R28). -/
def idxOut (vregs : Nat) (th : Thread) (o : Opnd) (n : Nat) : Bool :=
  match o with
  | .x i => vregs < th.idx i.val + n || th.idx i.val % n ≠ 0
  | _ => false

/-- Whether two vector register spans overlap (01 R50). -/
def overlaps (a : Opnd) (na : Nat) (b : Opnd) (nb : Nat) : Bool :=
  match a, b with
  | .v x, .v y => x.val < y.val + nb && y.val < x.val + na
  | _, _ => false

end Sys2Proof.Machine
end

