-- ==== Sys2Proof/Machine/Types.lean ====
section
/-!
DEFINITION. Element types (02 R61, R62): widths, reading a value of a type from a register and writing one back, clamping.
-/
namespace Sys2Proof.Machine
open Sys2Proof

/-- Width in bits (02 Table 2.1). -/
def tyWidth : Ty → Nat
  | .s64 | .n64 | .f64 => 64
  | .s16 | .n16 | .bf16 | .f16 => 16
  | .s8 | .n8 | .e4m3 | .e5m2 => 8
  | .mx4 => 4
  | _ => 32

def tySigned : Ty → Bool
  | .s32 | .s64 | .s16 | .s8 => true
  | _ => false

/-- Registers that a value of the type takes (01 R27). -/
def tyWords (t : Ty) : Nat := if tyWidth t = 64 then 2 else 1

def tyIsInt : Ty → Bool
  | .s32 | .n32 | .s64 | .n64 | .s16 | .n16 | .s8 | .n8 => true
  | _ => false

/-- The format of a floating-point type. -/
def tyFmt : Ty → Option Fmt
  | .f32 => some .f32 | .f64 => some .f64 | .bf16 => some .bf16 | .f16 => some .f16 | .e4m3 => some .e4m3 | .e5m2 => some .e5m2
  | _ => none

/-- How a constant is supplied to an operand of the type (03 R117). -/
def tyC : Ty → CFmt
  | .f64 => .f64 | .bf16 => .bf16 | .f16 => .f16
  | _ => .w

/-- VAL: the integer value of a register under an integer type (02 R62). -/
def tyVal (t : Ty) (x : Nat) : Int := if tySigned t then Word.toSigned (tyWidth t) x else ((x % 2 ^ tyWidth t : Nat) : Int)

def tyMin (t : Ty) : Int := if tySigned t then -((2 ^ (tyWidth t - 1) : Nat) : Int) else 0
def tyMax (t : Ty) : Int := if tySigned t then ((2 ^ (tyWidth t - 1) : Nat) : Int) - 1 else ((2 ^ tyWidth t : Nat) : Int) - 1

/-- CLAMP of 05 R162. -/
def clampInt (lo hi x : Int) : Int := if x < lo then lo else if hi < x then hi else x

/-- WRITE: the register bits of an integer result of a type: wrapped to its width, a narrow signed type sign-extended, any
other narrow type zero-extended (02 R62). -/
def tyBits (t : Ty) (r : Int) : Nat :=
  let w := Word.ofSigned (tyWidth t) r
  if tyWidth t < 32 && tySigned t then Word.ofSigned 32 (Word.toSigned (tyWidth t) w) else w

/-- The bits of a result under SAT (02 R77, 05 R162). -/
def tyResult (t : Ty) (sat : Bool) (r : Int) : Nat := tyBits t (if sat then clampInt (tyMin t) (tyMax t) r else r)

/-- The types by their codes (02 Table 2.1). -/
def tyOfCode : Nat → Ty
  | 0 => .s32 | 1 => .n32 | 2 => .s64 | 3 => .n64 | 4 => .s16 | 5 => .n16 | 6 => .s8 | 7 => .n8
  | 8 => .f32 | 9 => .f64 | 10 => .bf16 | 11 => .f16 | 12 => .e4m3 | 13 => .e5m2 | 14 => .mx4 | _ => .b32

def tyCode : Ty → Nat
  | .s32 => 0 | .n32 => 1 | .s64 => 2 | .n64 => 3 | .s16 => 4 | .n16 => 5 | .s8 => 6 | .n8 => 7
  | .f32 => 8 | .f64 => 9 | .bf16 => 10 | .f16 => 11 | .e4m3 => 12 | .e5m2 => 13 | .mx4 => 14 | .b32 => 15

/-- The number that a small field holds as its operand code: a predicate, loop, index or other small number (03 R113). -/
def opNum : Opnd → Nat
  | .v n => n.val
  | _ => 0

/-- Value i of a list of sources. -/
def argN (vs : List Nat) (i : Nat) : Nat := vs.getD i 0

end Sys2Proof.Machine
end

