-- ==== Sys2Proof/Machine/Partials.lean ====
section
/-!
DEFINITION. Contributions and their merging (02 R88 to R91, 13 R359, R366), and the steps of atomics (08 R232 to R234).
-/
namespace Sys2Proof.Machine
open Sys2Proof

/-! ## Atomics -/

/-- The value that an integer or bitwise operation leaves (08 R233, 02 R91), on w-bit values of a type. -/
def aopInt (aop : Nat) (t : Ty) (a b : Nat) : Nat :=
  let w := tyWidth t
  let x := tyVal t a
  let y := tyVal t b
  match aop with
  | 0 => (a + b) % 2 ^ w
  | 1 => (if y < x then b else a) % 2 ^ w
  | 2 => (if x < y then b else a) % 2 ^ w
  | 3 => (a &&& b) % 2 ^ w
  | 4 => (a ||| b) % 2 ^ w
  | _ => (a ^^^ b) % 2 ^ w

/-- The new value of an atomic step on an n-byte element (08 R233, R234). -/
def atomNew (op : AtomOp) (n old : Nat) : Nat :=
  match op with
  | .rmw aop t b =>
    match tyFmt t with
    | some f => if aop = 0 then (fused f .rne [Term.of (FVal.decode f (old % 2 ^ tyWidth t)), Term.of (FVal.decode f (b % 2 ^ tyWidth t))]).bits
                else aopInt aop t old b
    | none => aopInt aop t old b
  | .cas b c => if old = b % 2 ^ (8 * n) then c % 2 ^ (8 * n) else old
  | .xchg b => b % 2 ^ (8 * n)

/-! ## Slots -/

/-- Whether a tag is exact (08 Table 8.6). -/
def RedTag.exact (t : RedTag) : Bool := t.aop == 6
/-- Bytes of an element. -/
def RedTag.size (t : RedTag) : Nat := tyWidth t.ty / 8
def RedTag.fmt (t : RedTag) : Fmt := if t.ty = .bf16 then .bf16 else .f32

/-- The identity of an operator (13 R359). -/
def RedTag.identVal (t : RedTag) : Nat :=
  match t.aop with
  | 1 => Word.ofSigned (tyWidth t.ty) (tyMax t.ty)
  | 2 => Word.ofSigned (tyWidth t.ty) (tyMin t.ty)
  | 3 => 2 ^ tyWidth t.ty - 1
  | _ => 0

def RedTag.ident (t : RedTag) : Slot :=
  { a := if t.exact then 0 else t.identVal, n := 0, pinf := false, ninf := false, nan := false, nz := true, pois := false }

/-- A contribution as a slot (02 R88). -/
def RedTag.slot (t : RedTag) (x : Nat) (pois : Bool) : Slot :=
  if t.exact then
    match FVal.decode t.fmt (x % 2 ^ tyWidth t.ty) with
    | .nan _ => { t.ident with n := 1, nan := true, nz := false, pois := pois }
    | .inf n => { t.ident with n := 1, pinf := !n, ninf := n, nz := false, pois := pois }
    | .fin n m e =>
      let v : Int := (m * 2 ^ (e + 149).toNat : Nat)
      { t.ident with n := 1, a := if n then -v else v, nz := n && m == 0, pois := pois }
  else { t.ident with a := (x % 2 ^ tyWidth t.ty : Nat), pois := pois }

/-- Combine two slots of a tag (02 R88, R91). -/
def RedTag.comb (t : RedTag) (x y : Slot) : Slot :=
  { a := if t.exact then x.a + y.a else (aopInt t.aop t.ty x.a.toNat y.a.toNat : Nat),
    n := x.n + y.n, pinf := x.pinf || y.pinf, ninf := x.ninf || y.ninf, nan := x.nan || y.nan, nz := x.nz && y.nz, pois := x.pois || y.pois }

/-- The value of an element (02 R89); after 2^42 contributions or more it is that value or the canonical NaN (R90; log 8). -/
def RedTag.value (t : RedTag) (x : Slot) : Nat :=
  if t.exact then
    if x.nan || (x.pinf && x.ninf) || (2 ^ 42 ≤ x.n && Config.redOver x.n x.a) then t.fmt.nanC
    else if x.pinf then t.fmt.inf false
    else if x.ninf then t.fmt.inf true
    else if x.a = 0 then (if x.nz then t.fmt.signC else 0)
    else (roundFmt t.fmt .rne (decide (x.a < 0)) x.a.natAbs (-149)).bits
  else x.a.toNat

/-- Add one contribution at an offset to slots. -/
def RedTag.put (t : RedTag) (ss : Slots) (off : Nat) (x : Slot) : Slots :=
  kvSet ss off (match kvGet ss off with | some y => t.comb y x | none => x)

/-- Combine slots into slots. -/
def RedTag.merge (t : RedTag) (ss more : Slots) : Slots := more.foldl (fun ss e => t.put ss e.1 e.2) ss

/-- Offsets of a line's elements. -/
def RedTag.offsets (t : RedTag) : List Nat := (List.range (64 / t.size)).map (· * t.size)

/-- FINAL of 13 R366 for one element: the base value is folded with the slots; for an exact tag every element of the line is
formed anew (02 R89).  The base is no contribution (R90). -/
def RedTag.final (t : RedTag) (base : Nat) (ss : Option Slot) : Nat :=
  match ss with
  | some x => t.value (t.comb { t.slot base false with n := 0 } x)
  | none => if t.exact then t.value { t.slot base false with n := 0 } else base

end Sys2Proof.Machine
end

