-- ==== Sys2Proof/Machine/Records.lean ====
section
/-!
DEFINITION. Error records (16 R440 to R442): their layout, and raising one.  A raised record enters the management log of its
die and its team's queue at once; the step offers it to its context's error ring when the act is over (Machine/Ring.lean).
-/
namespace Sys2Proof.Machine
open Sys2Proof

/-- The record types of 16 Table 16.7. -/
def recTRAP : Nat := 0x01
def recFAULT : Nat := 0x02
def recDEFERRED : Nat := 0x03
def recLOST_STORE : Nat := 0x04
def recCOPY_ABORT : Nat := 0x05
def recCORRECTED : Nat := 0x08
def recSDC_PIPE : Nat := 0x09
def recPOISON : Nat := 0x0A
def recKILL : Nat := 0x0B
def recIMAGE : Nat := 0x0C
def recECC_CE : Nat := 0x10
def recECC_UE : Nat := 0x11
def recMERGE_LOST : Nat := 0x12
def recBAD_PA : Nat := 0x13
def recVOTE : Nat := 0x18
def recUNSTABLE : Nat := 0x19
def recNOHOLD_REPAIR : Nat := 0x1A
def recLOG_OVERFLOW : Nat := 0x1B
def recAPRON_FORCED : Nat := 0x1C
def recWATCHDOG : Nat := 0x20
def recRING : Nat := 0x21
def recREJECT : Nat := 0x22
def recDEBUG : Nat := 0x28
def recFABRIC : Nat := 0x30
def recDEVICE : Nat := 0x3F

/-- The severity of each type (16 Table 16.7). -/
def recSev (typ : Nat) : Nat :=
  if typ = recFAULT || typ = recDEBUG then 0
  else if [recCORRECTED, recECC_CE, recVOTE, recLOG_OVERFLOW, recAPRON_FORCED, recRING, recFABRIC].contains typ then 1
  else if typ = recDEVICE then 3
  else 2

/-- A record of a device unit: every field that does not apply at its "none" value (16 R440). -/
def ErrRec.device (s : State) (typ unit die : Nat) : ErrRec :=
  { typ := typ, sev := recSev typ, unit := unit, code := 0, overflow := false, poison := false, run := 3, ended := false,
    die := die, cluster := 15, quad := 511, core := 2047, lane := 63, gid := 63, thread := 63, index := 0,
    time := s.clk.toNat, addr := 0, desc := 0, kid := 0, team := 0, widx := 0, synd := 0, demerit := 0, tenant := 0,
    detail := 0, extra := 0 }

/-- A record about a unit by its type and index (15 Table 15.16): a lane or a core by the core's number, an engine by its quad's. -/
def ErrRec.ofUnit (s : State) (typ unit die lane index : Nat) : ErrRec :=
  let r := ErrRec.device s typ unit (die % 5)
  if unit ≤ 2 then
    { r with die := Config.dieOf index, cluster := Config.clusterOf index, quad := Config.quadOf index, core := index,
             lane := if unit = 1 then lane % 32 else 63, demerit := (s.core index).demerit }
  else if unit = 3 then { r with die := Config.dieOfCluster (Config.clusterOfQuad index), cluster := Config.clusterOfQuad index, quad := index, demerit := (s.quad index).demerit }
  else { r with index := index }

def runCode : RunKind → Nat | .original => 0 | .replay => 1 | .auth => 2

/-- A record about a team, written by a unit of its core (16 R440, R442). -/
def ErrRec.ofTeam (s : State) (tk typ unit : Nat) : ErrRec :=
  let tm := s.team tk
  { ErrRec.device s typ unit (Config.dieOf tm.core) with
    run := runCode tm.kind, cluster := Config.clusterOf tm.core, quad := Config.quadOf tm.core, core := tm.core,
    kid := tm.kid, team := tm.tid, demerit := (s.core tm.core).demerit, tenant := (s.launch tm.kid).r.tenant }

/-- Word index of an address in a block (11 Table 11.4). -/
def wordIndex (blk pc : Nat) : Nat := (pc - blk - 8) / 8 % 4096

/-- A record about a thread of a group (16 R440): thread 32 names the group. -/
def ErrRec.ofThread (s : State) (gk t typ : Nat) : ErrRec :=
  let g := s.group gk
  let th := g.thread (if t < 32 then t else g.live.headD 0)
  { ErrRec.ofTeam s g.team typ 1 with
    lane := g.lane, gid := g.gid, thread := t, desc := th.blk.toNat, widx := wordIndex th.blk.toNat th.pc.toNat }

/-- Put a record into a bounded queue, oldest first. -/
def pushBounded (n : Nat) (q : List ErrRec) (r : ErrRec) : List ErrRec :=
  let q := q ++ [r]
  q.drop (q.length - n)

/-- The unit index by which the health record names the unit of a record (15 Table 15.16). -/
def ErrRec.suspect (r : ErrRec) : Suspect :=
  { unit := r.unit, lane := if r.unit = 1 then r.lane else 0
    index := if r.unit ≤ 2 then r.core else if r.unit = 3 then r.quad else r.index, events := 0, last := 0 }

/-- Whether a record tells of an event of a unit that the health record lists (15 Table 15.16). -/
def ErrRec.isEvent (r : ErrRec) : Bool :=
  1 ≤ r.unit && r.unit ≤ 8 && [recCORRECTED, recSDC_PIPE, recECC_CE, recECC_UE, recMERGE_LOST, recFABRIC].contains r.typ

/-- Count an event of a unit. -/
def countSuspect (u : Suspect) (t : Nat) : List Suspect → List Suspect
  | [] => [{ u with events := 1, last := t }]
  | x :: xs =>
    if x.unit = u.unit && x.lane = u.lane && x.index = u.index then { x with events := min (2 ^ 32 - 1) (x.events + 1), last := t } :: xs
    else x :: countSuspect u t xs

/-- Raise a record (16 R441): the management log of its die, the team's queue of 16 when it names a team, and the queue of
records that the end of the step offers to the error ring. -/
def State.raise (s : State) (tk : Option Nat) (r : ErrRec) : State :=
  let s : State :=
    { s with mlogs := kvSet s.mlogs r.die (pushBounded 65536 (kvGetD [] s.mlogs r.die) r), recQ := s.recQ ++ [r],
             suspects := if r.isEvent then countSuspect r.suspect r.time s.suspects else s.suspects }
  match tk with
  | none => s
  | some k => s.modTeam k (fun tm => { tm with recq := pushBounded 16 tm.recq r, unread := min 16 (tm.unread + 1) })

/-- Raise a record about a thread of a group. -/
def State.raiseThread (s : State) (gk t typ : Nat) (f : ErrRec → ErrRec) : State :=
  s.raise (some (s.group gk).team) (f (ErrRec.ofThread s gk t typ))

/-- The 64 bytes of a record (16 Table 16.5). -/
def ErrRec.bytes (r : ErrRec) : List Byte :=
  let b := Word.toBytes
  let bit (c : Bool) (n : Nat) : Nat := if c then 2 ^ n else 0
  b 1 r.typ ++ b 1 (r.sev * 64 + r.unit) ++ b 1 r.code
    ++ b 1 (bit r.overflow 0 + bit r.poison 1 + r.run * 4 + bit r.ended 4)
    ++ b 8 (r.die * 2 ^ 61 + r.cluster * 2 ^ 57 + r.quad * 2 ^ 48 + r.core * 2 ^ 37 + r.lane * 2 ^ 31 + r.gid * 2 ^ 25
        + r.thread * 2 ^ 19 + r.index)
    ++ b 8 r.time ++ b 8 r.addr ++ b 8 r.desc ++ b 4 r.kid ++ b 4 r.team ++ b 2 r.widx ++ b 2 r.synd ++ b 1 r.demerit
    ++ b 1 r.tenant ++ b 6 r.detail ++ b 8 r.extra

/-- A record about the dispatcher, a ring, a record, LCMD or TCMD carries die 4 and unit 11 (16 R440). -/
def State.raiseDispatcher (s : State) (typ : Nat) (f : ErrRec → ErrRec) : State :=
  s.raise none (f (ErrRec.device s typ 11 4))

end Sys2Proof.Machine
end

