-- ==== Sys2Proof/Machine/Home.lean ====
section
/-!
DEFINITION. The home slices, the cluster merge units and the cores' reduction buffers (13 R357 to R371), and accesses at the
home (12 R330, R335).  Memory holds the coherent value of every line that is not in the update-only state; a line in U(op) or in
a transient state has an entry in `homes`, and its base is what memory holds.
-/
namespace Sys2Proof.Machine
open Sys2Proof

/-! ## Physical addresses -/

/-- Physical addresses of device memory (12 Table 12.3). -/
def inDeviceMap (pa : Nat) : Bool := pa ≤ 0x7FFFFFFFFF || (0x20000000000 ≤ pa && pa ≤ 0x4FFFFFFFFFF)

/-- Whether a home serves a physical address: in Confidential mode the MAC table lies outside (18 Table 18.5). -/
def State.inMap (s : State) (pa : Nat) : Bool := inDeviceMap pa && !(s.confid && 0x4FC00000000 ≤ pa)

/-- The home die of a physical address (12 Table 12.3). -/
def homeDie (pa : Nat) : Nat := if pa ≤ 0x7FFFFFFFFF then Word.bits pa 38 36 / 2 else Word.bits pa 13 12
/-- The home slice, numbered over the device (12 Table 12.3). -/
def homeSlice (pa : Nat) : Nat := 48 * homeDie pa + pa / 64 % 48

/-- The record of an access outside 12 Table 12.3 (12 R330). -/
def State.badPa (s : State) (pa : Nat) : State := s.raise none { ErrRec.device s recBAD_PA 4 4 with addr := pa }

/-- What a read delivers: bytes, and whether any byte's chunk is poisoned. -/
structure MemRd where
  bytes : List Byte
  pois  : Bool
deriving DecidableEq, Repr

/-- The poisoned 16-byte chunks of a line. -/
def State.linePois (s : State) (line : Nat) : List Nat := [0, 1, 2, 3].filter (fun i => s.mpois.contains (4 * line + i))

/-- The lines that n bytes from an address touch. -/
def linesOf (pa n : Nat) : List Nat := (List.range ((pa + n + 63) / 64 - pa / 64)).map (· + pa / 64)

/-! ## L2 (12 R331; 16 R444) -/

/-- The ways of the Apron in each slice (12 R331). -/
def apronWays : Mode → Nat | .speed => 2 | .verified => 4 | .sentinel => 6

/-- A line's content in memory, or in its L2 copy. -/
def State.lineBytes (s : State) (line : Nat) : List Byte := s.memRead (64 * line) 64

/-- Parity of a byte. -/
def parity (b : Byte) : Bool := ((List.range 8).filter (fun i => b.getLsbD i)).length % 2 = 1

/-- The check bits of a clean line: a parity bit for each byte, 8 for each 64 data bits (16 Table 16.8, R444; log 36). -/
def parityBits (bs : List Byte) : BitVec 64 := BitVec.ofNat 64 (maskOf ((List.range 64).filter (fun i => parity (bs.getD i 0))))

/-- The set of a line in its slice: 4 MiB in 16 ways make 4096 sets (00 Table 0.1; log 36). -/
def l2Set (line : Nat) : Nat × Nat := (homeSlice (64 * line), line / 48 % 4096)

/-- Room for a line in its set: the ways that the Apron leaves hold lines, and one that is to be evicted first among them leaves, which is a
free choice (log 9); a dirty one is written back. -/
def State.l2Room (s : State) (line : Nat) : State :=
  let set := s.l2.filter (fun e => l2Set e.1 == l2Set line)
  if set.length < 16 - apronWays s.devMode then s
  else
    let low := set.foldl (fun m e => min m e.2.ret) 2
    let out := set.filter (fun e => e.2.ret == low)
    let (n, s) := s.free
    match out[n % out.length]? with
    | some e => { s with l2 := kvDel s.l2 e.1 }
    | none => s

/-- Poison a whole line (16 R445). -/
def State.poisonLine (s : State) (line : Nat) : State := { s with mpois := [0, 1, 2, 3].foldl (fun m i => setInsert m (4 * line + i)) s.mpois }

/-- Check a clean line before it is used: one that fails its parity is fetched again from memory, and if that fails too it is poisoned (16
R444, Table 16.8). -/
def State.l2Check (s : State) (line : Nat) : State :=
  match kvGet s.l2 line with
  | some e =>
    let p := parityBits (s.lineBytes line)
    if e.back.isSome || e.check = p then s
    else
      let s := (s.count 21).raise none { ErrRec.device s recECC_UE 4 (homeDie (64 * line)) with addr := 64 * line, index := homeSlice (64 * line) }
      let s := { s with l2 := kvSet s.l2 line { e with check := p, lost := false } }
      if e.lost then s.poisonLine line else s
  | none => s

/-- The L2 copy that an access of a line finds or makes (08 Table 8.2, Table 8.3). -/
def State.l2Touch (s : State) (line : Nat) (u : L2Use) : State :=
  match u, kvGet s.l2 line with
  | .through, _ => { s with l2 := kvDel s.l2 line }
  | .hit, _ => s.l2Check line
  | .alloc r, some _ => { s.l2Check line with l2 := kvMod (s.l2Check line).l2 line (fun e => { e with ret := r }) }
  | .alloc r, none =>
    let s := s.l2Room line
    { s with l2 := kvSet s.l2 line ⟨none, r, parityBits (s.lineBytes line), false⟩ }

/-- A present L2 line becomes dirty: what memory holds beneath it is kept (13 Table 13.1). -/
def State.l2Dirty (s : State) (line : Nat) : State :=
  { s with l2 := kvMod s.l2 line (fun e => { e with back := some (e.back.getD ⟨s.lineBytes line, s.linePois line⟩) }) }

/-- A dirty line's data and its DEC-TED code are written in one array write (16 R444). -/
def State.l2Seal (s : State) (line : Nat) : State :=
  { s with l2 := kvMod s.l2 line (fun e => { e with check := if e.back.isSome then Config.decTed (s.lineBytes line) else e.check }) }

/-- A write to a line that no update-only state concerns. -/
def State.plainWrite (s : State) (pa : Nat) (bs : List Byte) (pois : Bool) (u : L2Use := .alloc 1) : State :=
  let ls := linesOf pa bs.length
  ls.foldl State.l2Seal ((ls.foldl (fun s l => (s.l2Touch l u).l2Dirty l) s).memWrite pa bs pois)

/-! ## Register words from bytes -/

/-- The register words that a load of bytes from an address writes (08 R225, 03 R109): 1 or 2 bytes are zero-extended.  A word
is poisoned if it takes a byte of a poisoned chunk (16 R446). -/
def loadWords (pa : Nat) (bs : List Byte) (poisAt : Nat → Bool) : List RegWord :=
  (List.range ((bs.length + 3) / 4)).map (fun i =>
    ⟨BitVec.ofNat 32 (Word.ofBytes ((bs.drop (4 * i)).take 4)),
     (List.range (min 4 (bs.length - 4 * i))).any (fun j => poisAt (pa + 4 * i + j))⟩)

/-- Fix the value of an outstanding result (01 R45, 08 R229). -/
def State.fixPend (s : State) (gk tok : Nat) (dsts : List LoadDst) (ws : List RegWord) : State :=
  s.modGroup gk (fun g => { g with pend := g.pend.map (fun p => if p.tok = tok && !p.due then { p with ready := true, words := dsts.zip ws } else p) })

/-- A write of a group has been performed: its acknowledgement is on its way (12 R329). -/
def State.performed (s : State) (gk tok : Nat) : State :=
  s.modGroup gk (fun g => { g with unapplied := setRemove g.unapplied tok, unacked := g.unacked ++ [tok] })

/-! ## The ordinary service of a line -/

/-- The old value, whether it is poisoned, and the state after an atomic step on n bytes (08 R233, 16 R446). -/
def State.atomicAt (s : State) (pa n : Nat) (op : AtomOp) (u : L2Use := .alloc 1) : Nat × Bool × State :=
  let s := s.l2Touch (pa / 64) u
  let old := Word.ofBytes (s.memRead pa n)
  if s.memPois pa n then (old, true, s)
  else
    let new := atomNew op n old
    (old, false, match op with
      | .cas b _ => if old = b % 2 ^ (8 * n) then s.plainWrite pa (Word.toBytes n new) false u else s
      | _ => s.plainWrite pa (Word.toBytes n new) false u)

/-- Ordinary service (13 Table 13.4, states I, S and M). -/
def State.serve (s : State) : HomeAcc → State
  | .rd gk tok pa n u dsts =>
    let s := s.l2Touch (pa / 64) u
    s.fixPend gk tok dsts (loadWords pa (s.memRead pa n) (fun a => s.memPois a 1))
  | .wr gk tok pa u bs => (s.plainWrite pa bs false u).performed gk tok
  | .at gk tok pa n u dsts op =>
    let (old, p, s) := s.atomicAt pa n op u
    (s.fixPend gk tok dsts (loadWords pa (Word.toBytes n old) (fun _ => p))).performed gk tok

/-! ## The dies' clocks (12 R342) -/

def State.dieClock (s : State) (die : Nat) : List Nat := (kvGet s.vclocks die).getD [0, 0, 0, 0, 0]

/-- The die of a message's source, unless it is a home. -/
def Node.die : Node → Option Nat
  | .core c => some (Config.dieOf c)
  | .unit cl => some (Config.dieOfCluster cl)
  | .home => none

/-- A die has learnt a clock. -/
def State.learnClock (s : State) (die : Nat) (vc : List Nat) : State :=
  if vc.isEmpty then s else { s with vclocks := kvSet s.vclocks die (List.zipWith max (s.dieClock die) vc) }

/-- Whether a home has applied every write that a message's clock names: none that left its die before a release that the clock counts is
still on its way to the slice. -/
def State.clockReady (s : State) (m : NetMsg) : Bool :=
  m.dst != .home || m.vc.isEmpty || !s.net.any (fun e =>
    e.dst == .home && homeSlice (64 * e.line) == homeSlice (64 * m.line)
      && (match e.src.die with | some d => decide (e.vc.getD d 0 < m.vc.getD d 0) | none => false))

/-! ## Merging at the home -/

/-- Send a message; it carries the clock of the die it leaves. -/
def State.send (s : State) (src dst : Node) (line : Nat) (body : MsgBody) : State :=
  { s with net := s.net ++ [⟨src, dst, line, body, (match src.die with | some d => s.dieClock d | none => [])⟩] }

/-- Send the RACK of each registration that waits for one. -/
def State.sendRacks (s : State) (line : Nat) (regs : List (Nat × RedTag × Bool)) : State :=
  regs.foldl (fun s r => if r.2.2 then s.send .home (.unit r.1) line (.rack r.2.1) else s) s

/-- Write FINAL of 13 R366 into the line: base, home accumulator, parts in ascending cluster.  A lost cluster poisons the whole
line (R369). -/
def State.writeFinal (s : State) (line : Nat) (h : HomeLine) : State :=
  let t := h.op
  let ss := h.parts.foldl (fun ss p => t.merge ss p.2) h.ha
  let old := s.linePois line
  let bytes := t.offsets.flatMap (fun o => Word.toBytes t.size (t.final (Word.ofBytes (s.memRead (64 * line + o) t.size)) (kvGet ss o)))
  let bad (c : Nat) : Bool := !h.lost.isEmpty || old.contains c || ss.any (fun e => e.2.pois && e.1 / 16 == c)
  let s := [0, 1, 2, 3].foldl (fun s c => s.memWrite (64 * line + 16 * c) ((bytes.drop (16 * c)).take 16) (bad c)) s
  h.lost.foldl (fun s cl =>
    s.raise none { ErrRec.device s recMERGE_LOST 4 (homeDie (64 * line)) with cluster := cl, addr := 64 * line, extra := 64 * line }) s

/-- V enters L2, dirty (13 Table 13.4: M). -/
def State.l2Merged (s : State) (line : Nat) (back : Backing) : State :=
  let s := s.l2Room line
  { s with l2 := kvSet s.l2 line ⟨some back, 1, Config.decTed (s.lineBytes line), false⟩ }

/-- What lies beneath a line in U: what lay beneath it in M, or its base. -/
def State.beneath (s : State) (line : Nat) (h : HomeLine) : Backing := h.back.getD ⟨s.lineBytes line, s.linePois line⟩

def isRead : HomeEv → Bool
  | .acc (.rd _ _ _ _ _ _) => true
  | _ => false

/-- Serve the reads of a list of queued events. -/
def State.serveReads (s : State) (q : List HomeEv) : State :=
  q.foldl (fun s e => match e with | .acc (.rd a b c d f g) => s.serve (.rd a b c d f g) | _ => s) s

/-- The events of a queue that do not wait for the registrations of the merge, and those that do. -/
def early (q : List HomeEv) : List HomeEv := q.filter (fun e => match e with | .after _ => false | _ => true)
def late (q : List HomeEv) : List HomeEv := q.filterMap (fun e => match e with | .after a => some (.acc a) | _ => none)

/-- A line that begins to be in U(op) after a merge (13 Table 13.4): with CV′ of the registrations of op. -/
def HomeLine.renewed (h : HomeLine) (op : RedTag) (back : Backing) : HomeLine :=
  { h with st := .u, op := op, ha := [], cv := (h.regs.filter (fun r => r.2.1 = op)).foldl (fun m r => setInsert m r.1) [], regs := [], queue := [],
           parts := [], lost := [], back := some back }

/-- The end of a merge (13 Table 13.4, CV empty): what is still to be handled comes in its order. -/
def State.endMerge (s : State) (line : Nat) (h : HomeLine) : State × List HomeEv :=
  let back := s.beneath line h
  let s := s.writeFinal line h
  let asReg (r : Nat × RedTag × Bool) : HomeEv := .reg r.1 r.2.1 r.2.2
  match h.st with
  | .ums =>
    let rest := (early h.queue).filter (fun e => !isRead e) ++ late h.queue
    if h.regs.isEmpty then (({ s with homes := kvDel s.homes line }.l2Merged line back).serveReads h.queue, rest)
    else
      let s := s.serveReads (h.queue.map (fun e => match e with | .acc (.rd a b c d _ g) => .acc (.rd a b c d .hit g) | e => e))
      (({ s with homes := kvSet s.homes line (h.renewed h.op back) } : State).sendRacks line h.regs, rest)
  | .umu op' =>
    let s := ({ s with homes := kvSet s.homes line (h.renewed op' back) } : State).sendRacks line (h.regs.filter (fun r => r.2.1 = op'))
    (s, h.queue.take 1 ++ (h.regs.filter (fun r => r.2.1 ≠ op')).map asReg ++ h.queue.drop 1)
  | _ => ({ s with homes := kvDel s.homes line }.l2Merged line back, early h.queue ++ h.regs.map asReg ++ late h.queue)

/-- Begin a merge (13 R365): MREQ to every cluster in CV; with none it ends at once. -/
def State.beginMerge (s : State) (line : Nat) (h : HomeLine) (st : HomeSt) (q : List HomeEv) : State × List HomeEv :=
  let h := { h with st := st, mn := h.mn + 1, parts := [], regs := [], queue := q, spilled := false }
  if h.cv.isEmpty then s.endMerge line h
  else
    let s := { s with homes := kvSet s.homes line h }
    (h.cv.foldl (fun s cl => s.send .home (.unit cl) line (.mreq h.op h.mn)) s, [])

/-! ## The merge buffer (13 R362) -/

/-- The least recently used entry of a slice's merge buffer among those in a stable state that satisfy a test. -/
def lruHome (slice : Nat) (p : HomeLine → Bool) (hs : List (Nat × HomeLine)) : Option (Nat × HomeLine) :=
  hs.foldl (fun b e =>
    if homeSlice (64 * e.1) = slice && !e.2.spilled && e.2.st == .u && p e.2 then
      match b with | some x => if e.2.used < x.2.used then some e else b | none => some e
    else b) none

def homeUsed (slice : Nat) (hs : List (Nat × HomeLine)) : Nat := (hs.filter (fun e => homeSlice (64 * e.1) = slice && !e.2.spilled)).length

/-- Whether the spill area of a die can take another record (13 R362). -/
def State.spillRoom (s : State) (line : Nat) : Bool :=
  let die := homeDie (64 * line)
  (s.homes.filter (fun e => e.2.spilled && homeDie (64 * e.1) = die)).length < s.spillMiB * 512

/-- Look for an entry of a slice's merge buffer for a line of a tag (13 R362): whether there is one now, and what a merge with no requester
has left to be handled.  The least recently used line merges, or its exact record goes to the spill area; while that is full a line of an
exact tag waits, and another takes the entry of the least recently used line that may merge (log 37). -/
def State.homeRoom (s : State) (line : Nat) (tag : RedTag) : Bool × State × List (Nat × HomeEv) :=
  let slice := homeSlice (64 * line)
  let merge (e : Option (Nat × HomeLine)) : Bool × State × List (Nat × HomeEv) :=
    match e with
    | some (l, h) =>
      let (s, q) := s.beginMerge l h .um []
      (decide (homeUsed slice s.homes < 128), s, q.map (fun e => (l, e)))
    | none => (false, s, [])
  if homeUsed slice s.homes < 128 then (true, s, [])
  else
    match lruHome slice (fun _ => true) s.homes with
    | none => (false, s, [])
    | some (l, h) =>
      if !h.op.exact then merge (some (l, h))
      else if s.spillRoom l then (true, { s with homes := kvSet s.homes l { h with spilled := true } }, [])
      else if tag.exact then (false, s, [])
      else merge (lruHome slice (fun h => !h.op.exact) s.homes)

/-- A line that leaves I, S or M for an update-only state (13 Table 13.4): in I its base is fetched, in S and M it moves out of L2. -/
def State.openLine (s : State) (line : Nat) (op : RedTag) (cv : List Nat) (regs : List (Nat × RedTag × Bool)) : State × HomeLine :=
  let e := kvGet s.l2 line
  let s := if e.isSome then s.l2Check line else s
  let h : HomeLine := { st := if e.isSome then .mu else .iu, op := op, ha := [], cv := cv, regs := regs, queue := [], back := e.bind (·.back), mn := 0,
                        parts := [], lost := [], spilled := false, used := s.stamp }
  ({ s with homes := kvSet s.homes line h, l2 := kvDel s.l2 line, stamp := s.stamp + 1 }, h)

/-! ## Events at the home (13 Table 13.4) -/

def HomeAcc.gk : HomeAcc → Nat
  | .rd gk _ _ _ _ _ | .wr gk _ _ _ _ | .at gk _ _ _ _ _ _ => gk

/-- The cluster that an access comes from. -/
def State.accCluster (s : State) (a : HomeAcc) : Nat := Config.clusterOf (s.coreOf a.gk)

/-- Whether an access that meets a merge has to wait for the merge's registrations: a read of a cluster that is among them, so that it takes
its group's own contributions (12 R347), and whatever follows it in its group's order (R335). -/
def State.mustFollow (s : State) (h : HomeLine) (a : HomeAcc) : Bool :=
  h.queue.any (fun e => match e with | .after b => b.gk == a.gk | _ => false)
    || (match a with | .rd _ _ _ _ _ _ => h.regs.any (fun r => r.1 == s.accCluster a) | _ => false)

def isMerging : HomeSt → Bool
  | .ums | .um | .umu _ => true
  | _ => false

/-- A cluster's part of a merge has arrived, or is lost (13 R366, R369). -/
def State.takePart (s : State) (line cl : Nat) (h : HomeLine) (part : Option Slots) : State × List (Nat × HomeEv) :=
  let h := { h with cv := setRemove h.cv cl, parts := (match part with | some ss => kvSet h.parts cl ss | none => h.parts)
                    lost := if part.isNone then h.lost ++ [cl] else h.lost }
  if isMerging h.st && h.cv.isEmpty then
    let (s, q) := s.endMerge line h
    (s, q.map (fun e => (line, e)))
  else ({ s with homes := kvSet s.homes line h }, [])

/-- An event waits for a merge-buffer entry. -/
def State.homeWait (s : State) (line : Nat) (ev : HomeEv) : State × List (Nat × HomeEv) := ({ s with homeQ := s.homeQ ++ [(line, ev)] }, [])

/-- The events of a line that wait for an entry, and whether a cluster's registration or flush is among them. -/
def State.waitsFor (s : State) (line : Nat) : List HomeEv := (s.homeQ.filter (fun e => e.1 == line)).map (·.2)
def fromCluster (cl : Nat) (q : List HomeEv) : Bool :=
  q.any (fun e => match e with | .reg c _ _ => c == cl | .flush c _ _ _ => c == cl | _ => false)

/-- An event at a line in I, S or M.  `force`: the entry that it needs is there. -/
def State.plainEvent (s : State) (force : Bool) (line : Nat) (ev : HomeEv) : State × List (Nat × HomeEv) :=
  let q := s.waitsFor line
  let start (cl : Nat) (tag : RedTag) (k : State → State × List (Nat × HomeEv)) : State × List (Nat × HomeEv) :=
    if fromCluster cl q then s.homeWait line ev
    else
      let (ok, s, more) := s.homeRoom line tag
      if ok || force then ((k s).1, more ++ (k s).2) else ((s.homeWait line ev).1, more)
  match ev with
  | .acc a | .after a => if fromCluster (s.accCluster a) q then s.homeWait line ev else (s.serve a, [])
  | .reg cl tag ack => start cl tag (fun s => ((s.openLine line tag [cl] [(cl, tag, ack)]).1, []))
  | .flush cl tag _ _ => start cl tag (fun s => ((s.openLine line tag [] []).1, [(line, ev)]))
  | .lost cl => if fromCluster cl q then s.homeWait line ev else (s, [])

/-- An event at a line in U(op) or in a transient state, whose record is in the merge buffer. -/
def State.openEvent (s : State) (line : Nat) (h : HomeLine) (ev : HomeEv) : State × List (Nat × HomeEv) :=
  let set (h : HomeLine) : State × List (Nat × HomeEv) := ({ s with homes := kvSet s.homes line h }, [])
  let queue (e : HomeEv) : State × List (Nat × HomeEv) := set { h with queue := h.queue ++ [e] }
  let next (r : State × List HomeEv) : State × List (Nat × HomeEv) := (r.1, r.2.map (fun e => (line, e)))
  let join (tag : RedTag) (slots : Slots) (d : Option Nat) : State × List (Nat × HomeEv) :=
    set { h with ha := tag.merge h.ha slots, cv := match d with | some cl => setRemove h.cv cl | none => h.cv }
  match h.st, ev with
  | .iu, .reg cl tag ack => if tag = h.op then set { h with cv := setInsert h.cv cl, regs := h.regs ++ [(cl, tag, ack)] } else queue ev
  | .iu, .flush cl tag slots d => if tag = h.op then join tag slots (if d then some cl else none) else queue ev
  | .mu, .acc (.rd a b c d f g) =>
    if h.cv.contains (s.accCluster (.rd a b c d f g)) then queue ev
    else (({ s with homes := kvSet s.homes line h } : State).serve (.rd a b c d .hit g), [])
  | .iu, _ | .mu, _ => queue ev
  | .u, .reg cl tag ack =>
    if tag = h.op then (({ s with homes := kvSet s.homes line { h with cv := setInsert h.cv cl } } : State).sendRacks line [(cl, tag, ack)], [])
    else next (s.beginMerge line h (.umu tag) [ev])
  | .u, .flush cl tag slots d =>
    if tag = h.op then join tag slots (if d then some cl else none) else next (s.beginMerge line h (.umu tag) [ev])
  | .u, .lost cl => if h.cv.contains cl then s.takePart line cl h none else set h
  | .u, .acc a | .u, .after a =>
    next (s.beginMerge line h (match a with | .rd _ _ _ _ _ _ => .ums | _ => .um) [.acc a])
  | st, .reg cl tag ack =>
    if tag = h.op || st = .umu tag then set { h with regs := h.regs ++ [(cl, tag, ack)] } else queue ev
  | _, .flush _ tag slots _ => if tag = h.op then join tag slots none else queue ev
  | _, .lost cl =>
    if h.cv.contains cl then s.takePart line cl h none
    else if h.regs.any (fun r => r.1 == cl) || fromCluster cl h.queue then queue ev else set h
  | .umu _, .acc _ | .umu _, .after _ => queue ev
  | _, .acc a => queue (if s.mustFollow h a then .after a else ev)
  | _, .after _ => queue ev

/-- One event at the home of a line (13 Table 13.4); a spilled record comes back through IU, when there is an entry for it.  What is left
to be handled comes with its line. -/
def State.homeEvent (s : State) (force : Bool) (line : Nat) (ev : HomeEv) : State × List (Nat × HomeEv) :=
  match kvGet s.homes line with
  | none => s.plainEvent force line ev
  | some h =>
    let u := s.stamp
    if h.spilled then
      if !(s.waitsFor line).isEmpty then s.homeWait line ev
      else
        let (ok, s, more) := s.homeRoom line h.op
        if ok || force then
          let r := ({ s with stamp := u + 1 } : State).openEvent line { h with spilled := false, st := .iu, used := u } ev
          (r.1, more ++ r.2)
        else ((s.homeWait line ev).1, more)
    else ({ s with stamp := u + 1 } : State).openEvent line { h with used := u } ev

/-- The first line of the waiting events whose slice has an entry free. -/
def State.homeReady (s : State) : Option Nat := (s.homeQ.find? (fun e => homeUsed (homeSlice (64 * e.1)) s.homes < 128)).map (·.1)

/-- Take the waiting events of a line. -/
def State.homeTaken (s : State) (line : Nat) : State := { s with homeQ := s.homeQ.filter (fun e => e.1 ≠ line) }

/-- Handle events, whatever they leave to be handled, and the events for which an entry has become free; `fuel` bounds the chain. -/
def State.homeEvents (force : Bool) : Nat → List (Nat × HomeEv) → State → State
  | 0, _, s => s
  | fuel + 1, [], s =>
    match s.homeReady with
    | some line => State.homeEvents force fuel ((s.waitsFor line).map (fun e => (line, e))) (s.homeTaken line)
    | none => s
  | fuel + 1, (line, ev) :: es, s =>
    let (s, more) := s.homeEvent force line ev
    State.homeEvents force fuel (more ++ es) s

/-- A bound on the events that one message can set off. -/
def State.fuel (s : State) : Nat :=
  16 + 4 * s.net.length + 4 * s.homeQ.length + s.homes.foldl (fun n e => n + 4 + 4 * e.2.queue.length + 4 * e.2.regs.length) 0

def State.homeTake (s : State) (line : Nat) (ev : HomeEv) : State := State.homeEvents false s.fuel [(line, ev)] s

/-- Go on with what is left to be handled. -/
def State.homeRest (r : State × List (Nat × HomeEv)) : State := State.homeEvents false (r.1.fuel + 4 * r.2.length) r.2 r.1

/-- A line whose base has come is in U(op): the RACKs go out and its queue is handled. -/
def State.lineUp (s : State) (line : Nat) (h : HomeLine) : State :=
  let s := { s with homes := kvSet s.homes line { h with st := .u, regs := [], queue := [] } }
  State.homeRest (s.sendRacks line h.regs, h.queue.map (fun e => (line, e)))

/-- HOME_BASE (13 Table 13.4): the base or the spill record arrives. -/
def State.homeBase (s : State) (line : Nat) : State :=
  match kvGet s.homes line with
  | some h => if h.st = .iu then s.lineUp line h else s
  | none => s

/-- HOME_MOVE_COMPLETE (13 Table 13.4). -/
def State.homeMoved (s : State) (line : Nat) : State :=
  match kvGet s.homes line with
  | some h => if h.st = .mu then s.lineUp line h else s
  | none => s

/-- MPART at a home. -/
def State.homePart (s : State) (line cl mn : Nat) (slots : Slots) : State :=
  match kvGet s.homes line with
  | some h => if isMerging h.st && h.cv.contains cl && mn = h.mn then State.homeRest (s.takePart line cl h (some slots)) else s
  | none => s

/-! ## Cluster merge units (13 R361) -/

def MuEntry.isFor (e : MuEntry) (line : Nat) (tag : RedTag) : Bool := e.line == line && e.tag == tag && e.gather.isNone
def MuEntry.awaits (e : MuEntry) (c line : Nat) (tag : RedTag) : Bool := e.line == line && e.tag == tag && e.asked.contains c

def State.modMu (s : State) (cl : Nat) (e e' : MuEntry) : State :=
  s.modCluster cl (fun k => { k with mus := k.mus.map (fun x => if x = e then e' else x) })

/-- The slots of an entry: its own first, then the cores' in ascending index. -/
def MuEntry.folded (e : MuEntry) : Slots := e.parts.foldl (fun ss p => e.tag.merge ss p.2) e.slots

/-- What a core answers to an MREQ: its slots of a line and tag, or none; its entries are free (13 R361). -/
def State.coreYield (s : State) (c line : Nat) (tag : RedTag) : Slots × State :=
  let es := (s.core c).red.filter (fun e => e.line == line && e.tag == tag)
  (es.foldl (fun ss e => tag.merge ss e.slots) [], s.modCore c (fun k => { k with red := k.red.filter (fun e => !(e.line == line && e.tag == tag)) }))

/-- An entry all of whose cores have answered sends its part and is freed. -/
def State.unitDone (s : State) (cl mn : Nat) (e : MuEntry) : State :=
  (s.modCluster cl (fun k => { k with mus := k.mus.filter (fun x => x.gen ≠ e.gen) })).send (.unit cl) .home e.line (.mpart e.tag mn e.folded)

/-- Replace an entry: the unit gathers its cores' parts of its own accord and sends the result as FLUSH with DEREG.  The gathering is one
step of the model (log 37). -/
def State.unitReplace (s : State) (cl : Nat) (e : MuEntry) : State :=
  let (parts, s) := e.holders.foldl (fun (r : List (Nat × Slots) × State) c => let (ss, s) := r.2.coreYield c e.line e.tag; (kvSet r.1 c ss, s)) ([], s)
  (s.modCluster cl (fun k => { k with mus := k.mus.filter (fun x => x.gen ≠ e.gen) })).send (.unit cl) .home e.line
    (.flush e.tag { e with parts := parts }.folded true)

/-- A merge unit's least recently used entry that is not gathering. -/
def lruUnit (es : List MuEntry) : Option MuEntry :=
  es.foldl (fun b e => if e.gather.isSome then b else match b with | some x => if e.used < x.used then some e else b | none => some e) none

/-- Whether a merge unit can take a registration: it has the entry, or room for one, or one that it can replace. -/
def State.unitTakes (s : State) (cl line : Nat) (tag : RedTag) : Bool :=
  let es := (s.cluster cl).mus
  es.any (fun e => e.isFor line tag) || es.length < 512 || (lruUnit es).isSome

def State.unitRoom (s : State) (cl : Nat) : State :=
  let es := (s.cluster cl).mus
  if es.length < 512 then s else match lruUnit es with | some e => s.unitReplace cl e | none => s

/-- MERGE_UNIT_REG. -/
def State.unitReg (s : State) (cl c line : Nat) (tag : RedTag) : State :=
  let u := s.stamp
  let s := { s with stamp := u + 1 }
  match (s.cluster cl).mus.find? (fun e => e.isFor line tag) with
  | some e =>
    let s := s.modMu cl e { e with holders := setInsert e.holders c, used := u }
    if e.regd then s.send (.unit cl) (.core c) line (.rack tag)
    else s.modCluster cl (fun k => { k with muRegs := k.muRegs.map (fun r => if r.gen = e.gen then { r with cores := r.cores ++ [c] } else r) })
  | none =>
    let s := (s.unitRoom cl).modCluster cl (fun k =>
      { k with mus := k.mus ++ [{ line := line, tag := tag, slots := [], holders := [c], regd := false, gen := u, gather := none, asked := [],
                                  parts := [], used := u }]
               muRegs := k.muRegs ++ [⟨u, line, tag, [c]⟩] })
    s.send (.unit cl) .home line (.reg tag)

/-- MERGE_UNIT_FLUSH: into the entry that still waits for the core, or the core's present entry, or on to the home.  `last`: the core holds
no other entry of the line. -/
def State.unitFlush (s : State) (cl c line : Nat) (tag : RedTag) (slots : Slots) (last : Bool) : State :=
  let es := (s.cluster cl).mus
  match es.find? (fun e => e.awaits c line tag) with
  | some e => s.modMu cl e { e with slots := tag.merge e.slots slots }
  | none =>
    match es.find? (fun e => e.isFor line tag) with
    | some e =>
      let u := s.stamp
      ({ s with stamp := u + 1 } : State).modMu cl e
        { e with slots := tag.merge e.slots slots, holders := if last then setRemove e.holders c else e.holders, used := u }
    | none => s.send (.unit cl) .home line (.flush tag slots false)

/-- MERGE_UNIT_MREQ, the request of a home. -/
def State.unitMreq (s : State) (cl line : Nat) (tag : RedTag) (mn : Nat) : State :=
  match (s.cluster cl).mus.find? (fun e => e.isFor line tag) with
  | some e =>
    if e.holders.isEmpty then s.unitDone cl mn e
    else
      let s := s.modMu cl e { e with gather := some mn, asked := e.holders, holders := [], parts := [] }
      e.holders.foldl (fun s c => s.send (.unit cl) (.core c) line (.mreq tag mn)) s
  | none => s.send (.unit cl) .home line (.mpart tag mn [])

/-- MERGE_UNIT_MREQ, the part of a core. -/
def State.unitPart (s : State) (cl c line : Nat) (tag : RedTag) (slots : Slots) : State :=
  match (s.cluster cl).mus.find? (fun e => e.awaits c line tag) with
  | some e =>
    let e' := { e with parts := kvSet e.parts c slots, asked := setRemove e.asked c }
    match e.gather, e'.asked with
    | some mn, [] => s.unitDone cl mn e'
    | _, _ => s.modMu cl e e'
  | none => s

/-- MERGE_UNIT_RACK: the oldest registration of the line and tag is acknowledged, and its cores are. -/
def State.unitRack (s : State) (cl line : Nat) (tag : RedTag) : State :=
  match (s.cluster cl).muRegs.find? (fun r => r.line == line && r.tag == tag) with
  | some r =>
    let s := s.modCluster cl (fun k =>
      { k with muRegs := k.muRegs.filter (fun x => x.gen ≠ r.gen)
               mus := k.mus.map (fun x => if x.gen = r.gen then { x with regd := true } else x) })
    r.cores.foldl (fun s c => s.send (.unit cl) (.core c) line (.rack tag)) s
  | none => s

/-! ## Core reduction buffers (13 R360, R364) -/

/-- Flush an entry of a core's buffer. -/
def State.redFlush (s : State) (c : Nat) (e : RedEntry) : State :=
  let s := s.modCore c (fun k => { k with red := k.red.filter (fun x => x ≠ e) })
  s.send (.core c) (.unit (Config.clusterOf c)) e.line (.flush e.tag e.slots (!(s.core c).red.any (fun x => x.line == e.line && x.tag == e.tag)))

/-- Flush a core's entries of a line (13 R360). -/
def State.redFlushLine (s : State) (c line : Nat) : State :=
  ((s.core c).red.filter (fun e => e.line == line)).foldl (fun s e => s.redFlush c e) s

/-- Flush every entry of a core (15 R428). -/
def State.redFlushAll (s : State) (c : Nat) : State := (s.core c).red.foldl (fun s e => s.redFlush c e) s

/-- CORE_RACK: the core's oldest registration of the line and tag is acknowledged; its contributions are performed (13 R364). -/
def State.coreRack (s : State) (c line : Nat) (tag : RedTag) : State :=
  match (s.core c).regs.find? (fun r => r.line == line && r.tag == tag) with
  | some r =>
    let s := s.modCore c (fun k =>
      { k with regs := k.regs.filter (fun x => x.gen ≠ r.gen)
               red := k.red.map (fun x => if x.gen = r.gen then { x with regd := true } else x) })
    r.toks.foldl (fun s t => s.performed t.1 t.2) s
  | none => s

/-- CORE_MREQ. -/
def State.coreMreq (s : State) (c line : Nat) (tag : RedTag) (mn : Nat) : State :=
  let (slots, s) := s.coreYield c line tag
  s.send (.core c) (.unit (Config.clusterOf c)) line (.mpart tag mn slots)

/-- The flushes of a core that are in flight. -/
def State.redFlights (s : State) (c : Nat) : List NetMsg :=
  s.net.filter (fun m => m.src == .core c && (match m.body with | .flush _ _ _ => true | _ => false))

/-- The slots of a core's buffer that are taken (13 R360): its entries, those whose FLUSH is in flight, and those that have left while their
REG is not acknowledged (log 37). -/
def State.redTaken (s : State) (c : Nat) : Nat :=
  let k := s.core c
  let gone := k.regs.filter (fun r => !k.red.any (fun e => e.gen == r.gen))
  k.red.length + gone.length
    + ((s.redFlights c).filter (fun m => !gone.any (fun r => r.line == m.line && (match m.body with | .flush t _ _ => t == r.tag | _ => false)))).length

/-- A state that an access leaves: it is done, or it has to wait. -/
inductive Got where
  | ok (s : State)
  | wait (s : State)
deriving DecidableEq, Repr

def Got.of (s : State) : Option State → Got
  | some s => .ok s
  | none => .wait s

/-- The least recently used entry of a core's buffer. -/
def lruRed : List RedEntry → Option RedEntry :=
  List.foldl (fun b e => match b with | some x => if e.used < x.used then some e else b | none => some e) none

/-- A contribution enters a core's buffer (13 R360); the core's L1 copy of the line is invalidated first (R358) unless the side log replays
it (12 R326).  With every slot taken the least recently used entry is flushed, and the contribution waits. -/
def State.contribute (s : State) (c gk tok pa : Nat) (tag : RedTag) (x : Nat) (pois l1 : Bool) : Got :=
  let line := pa / 64
  let off := pa % 64
  let half := if tag.ty = .bf16 then off / 32 else 0
  let s := if l1 then s.modCore c (fun k => { k with l1 := k.l1.filter (fun l => l.line ≠ line) }) else s
  let s := ((s.core c).red.filter (fun e => e.line == line && e.tag ≠ tag)).foldl (fun s e => s.redFlush c e) s
  let u := s.stamp
  match (s.core c).red.find? (fun e => e.line == line && e.tag == tag && e.half == half) with
  | some e =>
    let s := ({ s with stamp := u + 1 } : State).modCore c (fun k =>
      { k with red := k.red.map (fun y => if y = e then { y with slots := tag.put y.slots off (tag.slot x pois), used := u } else y) })
    .ok (if e.regd then s.performed gk tok
      else s.modCore c (fun k => { k with regs := k.regs.map (fun r => if r.gen = e.gen then { r with toks := r.toks ++ [(gk, tok)] } else r) }))
  | none =>
    if 32 ≤ s.redTaken c then
      .wait (if (s.redFlights c).isEmpty then match lruRed (s.core c).red with | some e => s.redFlush c e | none => s else s)
    else
      let s := ({ s with stamp := u + 1 } : State).modCore c (fun k =>
        { k with red := k.red ++ [{ line := line, tag := tag, half := half, slots := tag.put [] off (tag.slot x pois), regd := false, gen := u, used := u }]
                 regs := k.regs ++ [⟨u, line, tag, [(gk, tok)]⟩] })
      .ok (s.send (.core c) (.unit (Config.clusterOf c)) line (.reg tag))

/-! ## Delivery -/

/-- Whether a message arrives at a fenced port, which drops it (17 R475). -/
def State.fencedOff (s : State) (m : NetMsg) : Bool :=
  match m.dst with
  | .unit cl => (s.cluster cl).fenced.isSome
  | .core c => (s.cluster (Config.clusterOf c)).fenced.isSome
  | .home => false

/-- What a message does where it arrives. -/
def State.receive (s : State) (m : NetMsg) : State :=
  match m.src, m.dst, m.body with
  | .core c, .unit cl, .reg tag => s.unitReg cl c m.line tag
  | .core c, .unit cl, .flush tag slots last => s.unitFlush cl c m.line tag slots last
  | .core c, .unit cl, .mpart tag _ slots => s.unitPart cl c m.line tag slots
  | .unit cl, .home, .reg tag => s.homeTake m.line (.reg cl tag true)
  | .unit cl, .home, .flush tag slots d => s.homeTake m.line (.flush cl tag slots d)
  | .unit cl, .home, .mpart _ mn slots => s.homePart m.line cl mn slots
  | .home, .unit cl, .rack tag => s.unitRack cl m.line tag
  | .home, .unit cl, .mreq tag mn => s.unitMreq cl m.line tag mn
  | .unit _, .core c, .rack tag => s.coreRack c m.line tag
  | .unit _, .core c, .mreq tag mn => s.coreMreq c m.line tag mn
  | _, .home, .lost cl => s.homeTake m.line (.lost cl)
  | _, .home, .acc a => s.homeTake m.line (.acc a)
  | _, _, _ => s

/-- Deliver a message that has left the network; the home's die learns its clock. -/
def State.deliver (s : State) (m : NetMsg) : State :=
  if s.fencedOff m then s
  else (if m.dst = .home then s.learnClock (homeDie (64 * m.line)) m.vc else s).receive m

/-- The virtual channel of a message (13 Table 13.3): MRG, RSP, MGMT, REQ. -/
def MsgBody.channel : MsgBody → Nat
  | .reg _ | .flush _ _ _ | .mreq _ _ | .mpart _ _ _ => 0
  | .rack _ => 1
  | .lost _ => 2
  | .acc _ => 3

/-- Whether an earlier message holds a later one back: each channel is ordered from one end to another (13 R363); a core's access follows the
core's flushes of its line to the home (R360), and the loss of a cluster what the cluster has sent before. -/
def blocks (m e : NetMsg) : Bool :=
  (e.src == m.src && e.dst == m.dst && e.body.channel == m.body.channel)
    || (e.line == m.line && (match m.src, m.dst, m.body with
        | .core c, .home, .acc _ => e.src == .core c || (e.src == .unit (Config.clusterOf c) && e.dst == .home)
        | .unit _, .home, .lost _ => e.src == m.src && e.dst == .home
        | _, _, _ => false))

/-- Whether the end of a message can take it. -/
def State.takes (s : State) (m : NetMsg) : Bool :=
  s.clockReady m && (match m.dst, m.body with
    | .unit cl, .reg tag => s.fencedOff m || s.unitTakes cl m.line tag
    | _, _ => true)

/-- The first message that satisfies a test and that nothing before it blocks, and the rest. -/
def takeMsg (p : NetMsg → Bool) : List NetMsg → List NetMsg → Option (NetMsg × List NetMsg)
  | _, [] => none
  | before, m :: ms =>
    if p m && !before.any (fun e => blocks m e) then some (m, before ++ ms)
    else takeMsg p (before ++ [m]) ms

/-- Deliver the first deliverable message that satisfies a test. -/
def State.deliverFirst (s : State) (p : NetMsg → Bool) : Option State :=
  (takeMsg (fun m => p m && s.takes m) [] s.net).map (fun r => ({ s with net := r.2 } : State).deliver r.1)

/-! ## Accesses at the home that do not wait -/

/-- Whether no update-only state concerns a line. -/
def State.linePlain (s : State) (line : Nat) : Bool :=
  (kvGet s.homes line).isNone && s.net.all (fun m => m.line ≠ line) && (s.waitsFor line).isEmpty

/-- One step of carrying the protocol of a line on: a message about it arrives, or one that holds such a message back; the events that wait for
an entry are handled as if it had become free; its transient state ends; in U it is merged. -/
def State.settleStep (s : State) (line : Nat) : Option State :=
  match s.deliverFirst (fun m => m.line == line) with
  | some s => some s
  | none =>
    match (if s.net.any (fun m => m.line == line) then s.deliverFirst (fun _ => true) else none) with
    | some s => some s
    | none =>
      if !(s.waitsFor line).isEmpty then
        some (State.homeEvents true (s.fuel + 8) ((s.waitsFor line).map (fun e => (line, e))) (s.homeTaken line))
      else
        (kvGet s.homes line).bind (fun h =>
          match h.st with
          | .iu | .mu => some (s.lineUp line h)
          | .u =>
            let r := s.beginMerge line h .um []
            some (State.homeRest (r.1, r.2.map (fun e => (line, e))))
          | _ => none)

/-- Carry the protocol of one line on until it is in I, S or M. -/
def settleGo (line : Nat) : Nat → State → State
  | 0, s => s
  | fuel + 1, s =>
    match s.settleStep line with
    | some s => settleGo line fuel s
    | none => s

/-- A bound on the steps of a settling: every message, the parts of every core and the queue of the line. -/
def State.settle (s : State) (line : Nat) : State := if s.linePlain line then s else settleGo line (20000 + 16 * s.fuel) s

/-- A read of n bytes at the home of a physical address by an agent that waits for it; outside the map it delivers poisoned data
(12 R330). -/
def homeRead (s : State) (pa n : Nat) (u : L2Use := .hit) : MemRd × State :=
  if s.inMap pa then
    let s := (linesOf pa n).foldl (fun s l => (s.settle l).l2Touch l u) s
    (⟨s.memRead pa n, s.memPois pa n⟩, s)
  else (⟨List.replicate n 0, true⟩, s.badPa pa)

/-- A write at the home of bytes that a home serves, the MAC table included. -/
def State.rawWrite (s : State) (pa : Nat) (bs : List Byte) (pois : Bool) (u : L2Use := .alloc 1) : State :=
  ((linesOf pa bs.length).foldl State.settle s).plainWrite pa bs pois u

/-- A write at the home of a physical address; outside the map it is discarded (12 R330). -/
def homeWrite (s : State) (pa : Nat) (bs : List Byte) (pois : Bool) (u : L2Use := .alloc 1) : State :=
  if s.inMap pa then s.rawWrite pa bs pois u else s.badPa pa

/-- An atomic step at the home of a physical address by an agent that waits for it: the old value, its poison, the state. -/
def homeAtomic (s : State) (pa n : Nat) (op : AtomOp) (u : L2Use := .alloc 1) : Nat × Bool × State :=
  if s.inMap pa then (s.settle (pa / 64)).atomicAt pa n op u else (0, true, s.badPa pa)

end Sys2Proof.Machine
end

