-- ==== Sys2Proof/Machine/Peer.lean ====
section
/-!
DEFINITION. Physical accesses of agents that wait for them: device memory at its home (12 R330), host memory through the host port
(16 R453), and peer devices' memory through the peer aperture (17 R483, R484).  What a peer answers comes with the turn (log 15).
-/
namespace Sys2Proof.Machine
open Sys2Proof

/-- The peer aperture (17 R483). -/
def isPeer (pa : Nat) : Bool := Word.bit pa 56

def Fabric.slot (f : Fabric) (n : Nat) : PeerSlot := kvGetD ⟨false, 0, 0⟩ f.slots n
def Fabric.comm (f : Fabric) (n : Nat) : CommGroup := kvGetD ⟨false, 0⟩ f.groups n
def Fabric.route (f : Fabric) (n : Nat) : Route := kvGetD ⟨false, 0⟩ f.routes n
def Fabric.link (f : Fabric) (n : Nat) : Link := kvGetD Link.reset f.links n

/-- The link that traffic to a device leaves on, if it has one that is up (17 R482). -/
def Fabric.linkTo (f : Fabric) (dev : Nat) : Option Nat :=
  let r := f.route dev
  if r.valid && (f.link r.link).up then some r.link else none

/-- A request to a peer: it leaves on its link and the turn's next answer comes back; a slot, group, route or link that is not
valid gives REFUSE (17 R482, R484).  With no answer in the turn the bytes are free (log 8). -/
def State.askPeer (s : State) (pa n : Nat) (body : Nat → PeerBody) : PeerAns × State :=
  let sl := s.fabric.slot (Word.bits pa 55 44)
  let g := s.fabric.comm sl.group
  match s.fabric.linkTo sl.dev with
  | none => (⟨true, [], false⟩, s)
  | some l =>
    if !sl.valid || !g.valid || Word.bit pa 43 || s.fabric.node = 0xFFF then (⟨true, [], false⟩, s)
    else
      let id := s.stamp
      let p : Packet := { sdev := s.fabric.node, ddev := sl.dev, group := sl.group, gen := g.gen, hops := 0, id := id, body := body (Word.bits pa 42 0) }
      let s := ({ s with stamp := id + 1 } : State).emit (.packet l p)
      match s.env.peer with
      | a :: rest => (⟨a.refused, (a.bytes ++ List.replicate n 0).take n, a.pois⟩, { s with env := { s.env with peer := rest } })
      | [] =>
        let (x, s) := s.free
        (⟨false, Word.toBytes n x, false⟩, s)

/-- A read of n bytes by physical address: of host memory, of a peer (a refused one delivers poisoned data), or at the home. -/
def physRead (s : State) (host : Bool) (pa n : Nat) : MemRd × State :=
  if host then (⟨s.hostRead pa n, false⟩, s)
  else if isPeer pa then
    let (a, s) := s.askPeer pa n (fun p => .rd p n)
    (if a.refused then ⟨List.replicate n 0, true⟩ else ⟨a.bytes, a.pois⟩, s)
  else homeRead s pa n

/-- A write by physical address, and whether a peer refused it. -/
def physWrite (s : State) (host : Bool) (pa : Nat) (bs : List Byte) (pois : Bool) : Bool × State :=
  if host then (false, s.hostWrite pa bs)
  else if isPeer pa then
    let (a, s) := s.askPeer pa 0 (fun p => .wr p bs pois)
    (a.refused, s)
  else (false, homeWrite s pa bs pois)

/-- An atomic step by physical address: the old value, its poison, whether a peer refused it. -/
def physAtomic (s : State) (host : Bool) (pa n : Nat) (op : AtomOp) : Nat × Bool × State :=
  if host then
    let old := Word.ofBytes (s.hostRead pa n)
    (old, false, s.hostWrite pa (Word.toBytes n (atomNew op n old)))
  else if isPeer pa then
    let (a, s) := s.askPeer pa n (fun p => .at p n op)
    (if a.refused then 0 else Word.ofBytes a.bytes, a.refused || a.pois, s)
  else homeAtomic s pa n op

end Sys2Proof.Machine
end

