-- ==== Sys2Proof/Machine/Translate.lean ====
section
/-!
DEFINITION. Translation of global addresses (16 R451 to R459): the heap window, the paged tables, the TLBs and their hotness
counters.
-/
namespace Sys2Proof.Machine
open Sys2Proof

/-- What a translation comes to: a page, or an unmapped page with the malformed or poisoned entry that was met, if one was
(its address, its level, whether it was poisoned; 16 R454). -/
inductive XlRes where
  | ok (x : Xlat) (leaf : Nat)
  | unmapped (entry : Option (Nat × Nat × Bool))
deriving DecidableEq, Repr

/-- The heap window of a context (16 R451), as the aligned 64 KiB unit that holds the address. -/
def windowXlat (c : Ctx) (va : Nat) : Option Xlat :=
  if c.wen && c.wbase ≤ va && va < c.wlimit then
    let base := va / 65536 * 65536
    some { base := base, size := 65536, pa := (base + c.woff) % 2 ^ 57, host := false, attr := .wb, r := c.wr, w := c.ww, x := c.wx }
  else none

/-- The attribute codes of 16 Table 16.11. -/
def attrOf (n : Nat) : PAttr := match n with | 0 => .wb | 1 => .uc | 2 => .dev | _ => .prot

/-- Page size of a leaf at a level; at level 0 the table's kind decides (16 Table 16.9). -/
def leafSize (level : Nat) (big : Bool) : Nat :=
  match level with
  | 2 => 2 ^ 30
  | 1 => 2 ^ 21
  | _ => if big then 2 ^ 16 else 2 ^ 12

/-- Whether a valid leaf entry is malformed (16 R454, 18 Table 18.5). -/
def leafMalformed (confid : Bool) (level : Nat) (big : Bool) (e : Nat) : Bool :=
  let size := leafSize level big
  let pa := Word.bits e 56 12 * 2 ^ 12
  let host := Word.bit e 8
  let attr := Word.bits e 7 6
  3 ≤ level || Word.bits e 63 57 ≠ 0 || Word.bits e 11 9 ≠ 0 || pa % size ≠ 0
    || (host && !(size = 2 ^ 12 && attr = 1)) || (size = 2 ^ 12 && !host) || (attr = 3 && (!confid || 0x7FFFFFFFFF < pa))

/-- Whether a valid table pointer is malformed (16 R454, Table 16.10). -/
def pointerMalformed (level : Nat) (e : Nat) : Bool :=
  let typ := Word.bits e 2 1
  typ = 3 || level = 0 || (typ = 2 && level ≠ 1) || Word.bits e 63 57 ≠ 0 || Word.bits e 7 3 ≠ 0 || (typ = 1 && Word.bits e 11 8 ≠ 0)

/-- The index of a virtual address at a level (16 Table 16.9). -/
def levelIndex (level : Nat) (big : Bool) (va : Nat) : Nat :=
  match level with
  | 4 => Word.bits va 56 48
  | 3 => Word.bits va 47 39
  | 2 => Word.bits va 38 30
  | 1 => Word.bits va 29 21
  | _ => if big then Word.bits va 20 16 else Word.bits va 20 12

/-- The bytes of virtual addresses that a table of a level serves (16 Table 16.9). -/
def tableSpan (level : Nat) : Nat := 2 ^ (21 + 9 * level)

/-- Keep a table pointer in a die's walkers' cache (16 R456, R457). -/
def State.keepPtr (s : State) (p : WalkPtr) : State :=
  { s with walkPtrs := s.walkPtrs.filter (fun q => !(q.die == p.die && q.tenant == p.tenant && q.level == p.level && q.base == p.base)) ++ [p] }

/-- The cached table pointer that covers most levels of an address (16 R457). -/
def State.ptrFor (s : State) (die tenant va : Nat) : Option WalkPtr :=
  s.walkPtrs.foldl (fun (b : Option WalkPtr) p =>
    if p.die = die && p.tenant = tenant && p.base = va / tableSpan p.level * tableSpan p.level && b.all (fun q => p.level < q.level) then some p else b) none

/-- The walk of 16 R452 from a level downwards, for a tenant, by a die's walkers; entries are read through their homes, and sound table
pointers are kept (R456). -/
def walkGo (die tenant va : Nat) : Nat → Nat → Bool → State → XlRes × State
  | level, table, big, s =>
    let ea := (table + 8 * levelIndex level big va) % 2 ^ 57
    let (rd, s) := homeRead s ea 8
    let e := Word.ofBytes rd.bytes
    if rd.pois then (.unmapped (some (ea, level, true)), s)
    else if e % 2 = 0 then (.unmapped none, s)
    else if Word.bits e 2 1 = 0 then
      if leafMalformed s.confid level big e then (.unmapped (some (ea, level, false)), s)
      else
        let size := leafSize level big
        (.ok { base := va / size * size, size := size, pa := Word.bits e 56 12 * 2 ^ 12, host := Word.bit e 8,
               attr := attrOf (Word.bits e 7 6), r := Word.bit e 3, w := Word.bit e 4, x := Word.bit e 5 } ea, s)
    else if pointerMalformed level e then (.unmapped (some (ea, level, false)), s)
    else
      match level with
      | 0 => (.unmapped (some (ea, level, false)), s)
      | level' + 1 =>
        let next := Word.bits e 56 8 * 2 ^ 8
        let big := Word.bits e 2 1 = 2
        walkGo die tenant va level' next big (s.keepPtr ⟨die, tenant, level', va / tableSpan level' * tableSpan level', next, big⟩)

/-- The walk of the paged tables of a context by a die's walkers.  A hit in their cache of table pointers skips the levels it covers (16
R457); whether the cache still holds what it once read is free (log 9). -/
def walk (die tenant va : Nat) (s : State) : XlRes × State :=
  let root := (s.ctx tenant).ptroot
  match s.ptrFor die tenant va with
  | none => walkGo die tenant va 4 root false s
  | some p =>
    let (n, s) := s.free
    if n % 2 = 0 then walkGo die tenant va 4 root false s else walkGo die tenant va p.level p.next p.big s

/-- The entry of a TLB that translates an address for a tenant. -/
def tlbFind (t : List TlbEntry) (tenant va : Nat) : Option TlbEntry :=
  t.find? (fun e => e.tenant == tenant && e.xl.base ≤ va && va < e.xl.base + e.xl.size)

/-- Add to a saturating hotness counter (16 R459). -/
def satAdd (top a b : Nat) : Nat := min top (a + b)

/-- Add a count to the entry of a page (16 R459). -/
def tlbAdd (top : Nat) (t : List TlbEntry) (tenant va n : Nat) : List TlbEntry :=
  t.map (fun e => if e.tenant == tenant && e.xl.base ≤ va && va < e.xl.base + e.xl.size then { e with hot := satAdd top e.hot n } else e)

/-- The shadow entry of an evicted L2 entry takes its count (16 R459). -/
def shadowAdd (s : State) (e : TlbEntry) : State :=
  let sh := (s.ctx e.tenant).shadow
  if sh = 0 || e.hot = 0 then s
  else
    let pa := (e.leaf + sh) % 2 ^ 57
    let (rd, s) := homeRead s pa 8
    homeWrite s pa (Word.toBytes 8 (satAdd (2 ^ 64 - 1) (Word.ofBytes rd.bytes) e.hot)) rd.pois

/-- An L1 entry that leaves adds its count to the page's L2 entry (16 R459). -/
def l1Retire (s : State) (core : Nat) (e : TlbEntry) : State :=
  s.modCluster (Config.clusterOf core) (fun c => { c with tlb := tlbAdd 65535 c.tlb e.tenant e.xl.base e.hot })

/-- Install an entry in a full-capacity list: which entry leaves is a free choice (log 9). -/
def evictIf (cap : Nat) (t : List TlbEntry) (pick : Nat) : Option TlbEntry × List TlbEntry :=
  if t.length < cap then (none, t)
  else
    let i := pick % t.length
    (t[i]?, t.eraseIdx i)

/-- The set of an L2 TLB that holds an entry (16 R457: 512 sets of 8; log 9). -/
def TlbEntry.set (e : TlbEntry) : Nat := Config.tlbSet e.tenant e.xl.base % 512

/-- Install a translation in the cluster's L2 TLB (16 R457). -/
def l2Install (s : State) (core : Nat) (e : TlbEntry) : State :=
  let cl := Config.clusterOf core
  let (own, rest) := (s.cluster cl).tlb.partition (fun x => x.set == e.set)
  let (n, s) := if own.length < 8 then (0, s) else s.free
  let (out, t) := evictIf 8 own n
  let s := s.modCluster cl (fun c => { c with tlb := rest ++ t ++ [{ e with hot := 0 }] })
  match out with | none => s | some e => shadowAdd s e

/-- Install a translation in the core's L1 TLB (16 R457). -/
def l1Install (s : State) (core : Nat) (e : TlbEntry) : State :=
  let (n, s) := if (s.core core).tlb.length < 64 then (0, s) else s.free
  let (out, t) := evictIf 64 (s.core core).tlb n
  let s := s.modCore core (fun c => { c with tlb := t ++ [{ e with hot := 0 }] })
  match out with | none => s | some e => l1Retire s core e

/-- Translate a global address for a tenant at a core (16 R451): the window first, then the TLBs, then a walk whose valid
result the TLBs take.  `hits` requests are counted on the entries hit (R459). -/
def translate (s : State) (core tenant va hits : Nat) : XlRes × State :=
  let c := s.ctx tenant
  match windowXlat c va with
  | some x => (.ok x 0, s)
  | none =>
    if !c.pten then (.unmapped none, s)
    else
      match tlbFind (s.core core).tlb tenant va with
      | some e => (.ok e.xl e.leaf, s.modCore core (fun k => { k with tlb := tlbAdd 255 k.tlb tenant va hits }))
      | none =>
        let cl := Config.clusterOf core
        match tlbFind (s.cluster cl).tlb tenant va with
        | some e =>
          let s := s.modCluster cl (fun k => { k with tlb := tlbAdd 65535 k.tlb tenant va hits })
          (.ok e.xl e.leaf, l1Install s core e)
        | none =>
          match walk (Config.dieOf core) tenant va s with
          | (.ok x leaf, s) =>
            let e : TlbEntry := { tenant := tenant, xl := x, leaf := leaf, hot := 0 }
            (.ok x leaf, l1Install (l2Install s core e) core e)
          | (r, s) => (r, s)

/-- The physical address of a virtual address under a translation. -/
def Xlat.phys (x : Xlat) (va : Nat) : Nat := (x.pa + (va - x.base)) % 2 ^ 57

/-- A device unit without a TLB of its own translates by the window or by a walk, of the I/O die's (16 R451). -/
def translateUnit (s : State) (tenant va : Nat) : XlRes × State :=
  let c := s.ctx tenant
  match windowXlat c va with
  | some x => (.ok x 0, s)
  | none => if c.pten then walk 4 tenant va s else (.unmapped none, s)

/-- The page that a record or a command means by an address (16 R451: the aligned 64 KiB unit of a window address; the leaf's
page otherwise; an address without a leaf means its 64 KiB unit). -/
def pageOf (va : Nat) : Nat := va / 65536

/-- The coherent bytes of an instruction fetch at a virtual address (16 R455): the trap code met, or the bytes. -/
def fetchBytes (s : State) (core tenant va n : Nat) : Except Nat MemRd × State :=
  match translate s core tenant va 1 with
  | (.unmapped _, s) => (.error 0x20, s)
  | (.ok x _, s) =>
    if !x.x then (.error 0x21, s)
    else
      let (rd, s) := physRead s x.host (x.phys va) n
      (.ok rd, s)

end Sys2Proof.Machine
end

