-- ==== Sys2Proof/Machine/Signature.lean ====
section
/-!
DEFINITION. The signature and the replay log of a checked kernel (15 R404 to R413).
-/
namespace Sys2Proof.Machine
open Sys2Proof

/-- MIX64 of 15 R406. -/
def mix64 (x : DWord) : DWord :=
  let x := x ^^^ (x >>> 31)
  let x := x * 0x9E6F1D3BA5C78F21
  let x := x ^^^ (x >>> 29)
  let x := x * 0xD1B54A32D192ED03
  x ^^^ (x >>> 32)

/-- A signature event (15 Table 15.3). -/
structure SigEvent where
  kind : Nat
  mask : Nat
  aux  : Nat
  addr : DWord
  d0   : DWord
  d1   : DWord
deriving DecidableEq, Repr

/-- EHASH of 15 R406. -/
def ehash (key : DWord) (e : SigEvent) : DWord :=
  let tag := BitVec.ofNat 64 (e.kind * 2 ^ 56 ||| e.mask * 2 ^ 40 ||| e.aux)
  let h := mix64 (key ^^^ tag)
  let h := mix64 (h ^^^ e.addr)
  let h := mix64 (h ^^^ e.d0)
  mix64 (h ^^^ e.d1)

/-- Whether a launch is checked (15 R404). -/
def Launch.checked (l : Launch) : Bool := l.r.level ≠ .off

/-- The SAMPLED test of 15 R404. -/
def sampledTest (l : Level) (key : DWord) (tid : Nat) : Bool :=
  match l with
  | .off => false
  | .full => true
  | .sample s => mix64 (key ^^^ BitVec.ofNat 64 tid) >>> (64 - s) == 0

/-- Fold an event into a team's signature (15 R406); in a launch that is not checked no signature is built (R404). -/
def State.fold (s : State) (tk : Nat) (e : SigEvent) : State :=
  let l := s.launch (s.team tk).kid
  if l.checked then s.modTeam tk (fun tm => { tm with chk := { tm.chk with sig := tm.chk.sig + ehash l.key e } }) else s

/-- The bytes of an access that lie in the aligned 16-byte chunk at `c`, as mask and the two halves (15 R407). -/
def chunkEvent (kind : Nat) (c addr : Nat) (bs : List Byte) (out : Nat) : SigEvent :=
  let cell (i : Nat) : Option Byte := if addr ≤ c + i then bs[c + i - addr]? else none
  let mask := (List.range 16).foldl (fun m i => if (cell i).isSome then m + 2 ^ i else m) 0
  let half (o : Nat) : DWord := BitVec.ofNat 64 (Word.ofBytes ((List.range 8).map (fun i => (cell (o + i)).getD 0)))
  { kind := kind, mask := mask, aux := 0, addr := BitVec.ofNat 64 out, d0 := half 0, d1 := half 8 }

/-- Fold the write of bytes as one event per chunk touched (15 R407); `form` gives the chunk's address as it is written in the
event (the remote form of a scratch address). -/
def State.foldWrite (s : State) (tk kind addr : Nat) (bs : List Byte) (form : Nat → Nat) : State :=
  (List.range ((addr + bs.length + 15) / 16 - addr / 16)).foldl (fun s i =>
    let c := (addr / 16 + i) * 16
    s.fold tk (chunkEvent kind c addr bs (form c))) s

/-- The remote form of a scratch address (15 R407). -/
def remoteForm (rank off : Nat) : Nat := 2 ^ 62 + rank * 2 ^ 24 + off

/-! ## The replay log -/

def Group.inHandler (g : Group) : Bool := g.tcause.getLsbD 31

/-- Whether this group's run takes its outside values from the log (15 R412, R416). -/
def State.isRerun (s : State) (gk : Nat) : Bool := (s.teamOf gk).kind ≠ .original

/-- Bytes of one group's log segment (15 R409). -/
def segmentSize (l : Launch) (groups : Nat) : Nat := if groups = 0 then 0 else l.r.log / groups / 64 * 64

/-- The bytes of a record (15 Table 15.4): the header, then the payload in units of 16 bytes. -/
def LogRec.bytes (r : LogRec) : List Byte :=
  let units := (r.payload.length + 15) / 16
  Word.toBytes 8 (r.seq % 2 ^ 32 + 2 ^ 32 * (units % 2 ^ 18) + 2 ^ 50 * (r.tid % 64) + 2 ^ 56 * (r.kind % 256)) ++ Word.toBytes 8 r.value
    ++ r.payload ++ List.replicate (16 * units - r.payload.length) 0

/-- The record that the bytes of a segment hold at a position. -/
def recordAt (bs : List Byte) (pos : Nat) : Option LogRec :=
  let h := bs.drop pos
  if h.length < 16 then none
  else
    let w := Word.ofBytes (h.take 8)
    some { kind := Word.bits w 63 56, tid := Word.bits w 55 50, seq := w % 2 ^ 32, value := Word.ofBytes ((h.drop 8).take 8)
           payload := (h.drop 16).take (16 * Word.bits w 49 32) }

/-- Where the replay log of a team of a launch lies (LOGBASE of 15 Table 15.6): the logs stand one after another in %team order (log 14). -/
def Launch.logOf (l : Launch) (tid : Nat) : Nat := l.logBase + tid * l.r.log

/-- Bytes of a record in its segment. -/
def LogRec.size (r : LogRec) : Nat := r.bytes.length

/-- Write a record in the original run of a checked kernel (15 R409 to R411, R413). -/
def State.logAppend (s : State) (gk kind tid value : Nat) (payload : List Byte) : State :=
  let g := s.group gk
  let tm := s.team g.team
  let l := s.launch tm.kid
  if !l.checked || tm.kind ≠ .original || tm.chk.unreplay || g.inHandler then s
  else
    let r : LogRec := { kind := kind, tid := tid, seq := g.seq, value := value, payload := payload }
    let n := r.size
    if segmentSize l tm.groups.length < g.logPos + n then
      let s := s.modTeam g.team (fun tm => { tm with chk := { tm.chk with unreplay := true } })
      (s.count 6).raise (some g.team) { ErrRec.ofThread s gk tid recLOG_OVERFLOW with thread := tid }
    else
      let s := s.modGroup gk (fun g => { g with logPos := g.logPos + n })
      { s with sleeve := kvMod s.sleeve tm.sameAs (fun e =>
          { e with logs := kvSet e.logs g.gid (kvGetD [] e.logs g.gid ++ r.bytes) }) }

/-- Take the next record in a later run (15 R412): none is a divergence, of KIND, TID or SEQ or past the segment's end. -/
def State.logNext (s : State) (gk : Nat) (kinds : List Nat) (tid : Nat) : Option (LogRec × State) :=
  let g := s.group gk
  let tm := s.team g.team
  match kvGet s.sleeve tm.sameAs with
  | none => none
  | some e =>
    match recordAt (kvGetD [] e.logs g.gid) g.logPos with
    | none => none
    | some r =>
      if kinds.contains r.kind && r.tid = tid && r.seq = g.seq then
        some (r, s.modGroup gk (fun g => { g with logPos := g.logPos + r.size }))
      else none

/-- The code of the trap that ended the original at the instruction at which a later run's group stands, if one did (16 R436). -/
def State.endedHere (s : State) (gk : Nat) : Option Nat :=
  if !s.isRerun gk then none
  else
    let g := s.group gk
    match (kvGet s.sleeve (s.teamOf gk).sameAs).bind (·.endTrap) with
    | some x => if x.gid = g.gid && x.seq = g.seq then some x.code else none
    | none => none

/-- A run that diverges folds the event 0x0D and ends at once (15 R412). -/
def State.diverge (s : State) (gk : Nat) : State :=
  let g := s.group gk
  let s := s.fold g.team { kind := 0x0D, mask := 0, aux := 0, addr := BitVec.ofNat 64 g.gid, d0 := BitVec.ofNat 64 g.seq, d1 := 0 }
  s.modTeam g.team (fun tm => { tm with ended := some 0, chk := { tm.chk with diverged := true } })

end Sys2Proof.Machine
end

