-- ==== Sys2Proof/Machine/Engine.lean ====
section
/-!
DEFINITION. The configuration of the matrix engines (10 R280 to R283, R290) and the convergence registers (09 R274, R275; 10 R292).
Ownership, shapes and tags follow the posting of an operation; data follows its completion in posting order (log 16).
-/
namespace Sys2Proof.Machine
open Sys2Proof

/-! ## Tiles and row blocks -/

def Quad.tile (q : Quad) (n : Nat) : Tile := kvGetD Tile.free q.tiles n
def Quad.setTile (q : Quad) (n : Nat) (t : Tile) : Quad := { q with tiles := kvPut Tile.free q.tiles n t }
def Quad.etag (q : Quad) (b : Nat) : Nat := kvGetD 0 q.etags b
def Quad.setEtags (q : Quad) (bs : List Nat) (tag : Nat) : Quad := { q with etags := bs.foldl (fun m b => kvPut 0 m b tag) q.etags }

/-- K of a tile row (10 Table 10.1); 0 for the tag none. -/
def tagK (tag bytes : Nat) : Nat :=
  match tag with
  | 0x6 | 0xC | 0xD => bytes
  | 0x8 => bytes / 4
  | 0xA | 0xB => bytes / 2
  | 0xE => 2 * bytes
  | _ => 0

/-- The row blocks and the element blocks of a region (10 R282). -/
def Region.rbs (r : Region) : List Nat := (List.range (r.m / 64)).map (· + r.row0 / 64)
def Region.blocks (r : Region) : List Nat :=
  r.rbs.flatMap (fun rb => (List.range (r.n / 64)).map (fun cb => 4 * rb + r.col0 / 64 + cb))
/-- REG of 10 Table 10.3. -/
def regionOf (x : Nat) : Region :=
  { row0 := 64 * Word.bits x 2 0, col0 := 64 * Word.bits x 4 3, m := if Word.bit x 5 then 128 else 64, n := 64 * 2 ^ Word.bits x 7 6 }
def Region.inside (r : Region) : Bool := r.row0 + r.m ≤ 512 && r.col0 + r.n ≤ 256

/-- The reservation of a team, with its table index. -/
def Quad.resOf (q : Quad) (tk : Nat) : Option (Nat × Reservation) := q.res.find? (fun e => e.2.team == tk)

def Quad.modRes (q : Quad) (tk : Nat) (f : Reservation → Reservation) : Quad :=
  { q with res := q.res.map (fun e => if e.2.team = tk then (e.1, f e.2) else e) }

/-- Whether a tile, or a row block, belongs to another team, a posted release of which is not complete included (10 R283). -/
def Quad.tileTaken (q : Quad) (tk t : Nat) : Bool :=
  (match (q.tile t).owner with | some o => o ≠ tk | none => false)
    || q.res.any (fun e => e.2.team ≠ tk && e.2.ops.any (fun o => o.kind == .untile t))
def Quad.rbTaken (q : Quad) (tk rb : Nat) : Bool :=
  (match kvGet q.rbs rb with | some o => o ≠ tk | none => false)
    || q.res.any (fun e => e.2.team ≠ tk && e.2.ops.any (fun o => match o.kind with | .unrow l => l.contains rb | _ => false))

/-- The tiles and the row blocks whose data is a team's: those that it owns, and those whose posted release is not complete (10 R283,
R284). -/
def Quad.tilesOf (q : Quad) (tk : Nat) : List Nat :=
  ((q.tiles.filter (fun e => e.2.owner == some tk)).map (·.1)
    ++ (q.res.filter (fun e => e.2.team == tk)).flatMap (fun e => e.2.ops.filterMap (fun o => match o.kind with | .untile t => some t | _ => none))).foldl
    setInsert []
def Quad.rowsOf (q : Quad) (tk : Nat) : List Nat :=
  ((q.rbs.filter (fun e => e.2 == tk)).map (·.1)
    ++ (q.res.filter (fun e => e.2.team == tk)).flatMap (fun e => e.2.ops.flatMap (fun o => match o.kind with | .unrow l => l | _ => []))).foldl
    setInsert []

def Quad.ownsTile (q : Quad) (tk t : Nat) : Bool := (q.tile t).owner == some tk
def Quad.ownsRows (q : Quad) (tk : Nat) (r : Region) : Bool := r.inside && r.rbs.all (fun rb => kvGet q.rbs rb == some tk)

/-- A reservation that holds no tile, no row block and no operation frees (10 R280). -/
def Quad.tidy (q : Quad) (tk : Nat) : Quad :=
  match q.resOf tk with
  | some (i, r) =>
    if r.ops.isEmpty && !q.tiles.any (fun e => e.2.owner == some tk) && !q.rbs.any (fun e => e.2 == tk) then
      { q with res := kvDel q.res i } else q
  | none => q

/-- The operands of an MMA as the configuration gives them (10 R290), or the trap code of the first breach. -/
def Quad.mmaOp (q : Quad) (tk ta tb : Nat) (reg : Region) (sparse : Option (List (Byte × Bool))) (cls : Cls) : Except Nat MmaOp :=
  let a := q.tile ta
  let b := q.tile tb
  let b1 := q.tile (tb + 1)
  let wide := reg.n = 256
  let ka := tagK a.tag a.bytes * (if sparse.isSome then 2 else 1)
  let kb := tagK b.tag b.bytes
  let shape := q.ownsTile tk ta && q.ownsTile tk tb && (!wide || q.ownsTile tk (tb + 1)) && q.ownsRows tk reg && a.rows = reg.m
    && (if wide then b.rows = 128 && b1.rows = 128 && b.bytes = b1.bytes else b.rows = reg.n)
    && (a.tag = 0 || b.tag = 0 || ka = kb)
  let fp8 (t : Nat) : Bool := t = 0xC || t = 0xD
  let pair := (fp8 a.tag && fp8 b.tag)
    || (a.tag = b.tag && (if sparse.isSome then [0xA, 0xB, 0xE] else [0x6, 0x8, 0xA, 0xB, 0xE]).contains a.tag)
  if !shape then .error 0x42
  else if !pair || (wide && b.tag ≠ b1.tag) || !reg.blocks.all (fun e => q.etag e == (if a.tag = 0x6 then 0 else 8)) then .error 0x40
  else .ok { ta := ta, tb := tb, bytesA := a.bytes, bytesB := b.bytes, tagA := a.tag, tagB := b.tag, k := kb, reg := reg,
             sparse := sparse, cls := cls }

/-- Whether a write of a group, by its token, is not performed yet: it is in the side log or on its way. -/
def State.isOpen (s : State) (w : Nat × Nat) : Bool :=
  (s.group w.1).unapplied.contains w.2 || (s.core (s.coreOf w.1)).slog.any (fun e => e.gk == w.1 && e.tok == w.2)

/-- The writes (group, token) that are not performed yet and that an engine operation of a group has to follow: the group's own, and those
that it has returned through a read (12 R341, R348). -/
def State.unperformed (s : State) (gk : Nat) : List (Nat × Nat) :=
  ((s.group gk).unapplied ++ ((s.core (s.coreOf gk)).slog.filter (fun e => e.gk == gk)).map (·.tok)).map (fun t => (gk, t))
    ++ (s.group gk).seen.filter s.isOpen

/-- Whether the writes that an engine operation has to follow are performed (12 R348). -/
def State.writesDone (s : State) (after : List (Nat × Nat)) : Bool := after.all (fun w => !s.isOpen w)

/-- Post an operation of a team's reservation (10 R283); `tok` is the token of a long-latency result. -/
def State.postMat (s : State) (tk gk : Nat) (tok : Option Nat) (kind : MatKind) : State :=
  let q := Config.quadOf (s.team tk).core
  let op : MatOp := { id := s.stamp, gk := gk, tok := tok, at_ := s.cycle, kind := kind, begun := false, granted := 0, inArray := [], amax := none,
                      after := s.unperformed gk }
  ({ s with stamp := s.stamp + 1 } : State).modQuad q (fun q => q.modRes tk (fun r => { r with ops := r.ops ++ [op] }))

/-! ## Convergence registers (09 R274, R275) -/

/-- The members of a mask among a team's groups. -/
def State.convGroups (s : State) (tk members : Nat) : List Nat :=
  (s.team tk).groups.filter (fun gk => members.testBit (s.group gk).gid)

/-- Close a round whose signatures have all come (09 R275): the recorded operands, checked again, are posted (10 R292); a
failure becomes a deferred trap of the group that completed the round. -/
def State.convClose (s : State) (q n gk : Nat) : State :=
  match kvGet (s.quad q).conv n with
  | none => s
  | some c =>
    if c.signed.length < c.expect then s
    else
      let s := s.modQuad q (fun k => { k with conv := kvSet k.conv n { c with expect := c.expect - c.lower, lower := 0, signed := [], op := none } })
      match c.op with
      | none => s
      | some (_, _, _, _, o) =>
        match (s.quad q).mmaOp c.owner o.ta o.tb o.reg o.sparse o.cls with
        | .ok o => s.postMat c.owner gk none (.mma o)
        | .error code =>
          (s.raiseThread gk 32 recDEFERRED (fun r => { r with code := code, unit := 3 })).modGroup gk (fun g => { g with deferred := g.deferred ++ [code] })

/-- A thread of a group stops being live: its convergence sets expect one fewer, in the open round if it has not signed and
from the next one if it has (01 R56, 09 R275). -/
def State.convLeave (s : State) (gk t : Nat) : State :=
  let tk := (s.group gk).team
  let q := Config.quadOf (s.team tk).core
  (List.range 16).foldl (fun s n =>
    match kvGet (s.quad q).conv n with
    | none => s
    | some c =>
      if c.owner = tk && c.members.testBit (s.group gk).gid then
        let c' := if c.signed.contains (gk, t) then { c with lower := c.lower + 1 } else { c with expect := c.expect - 1 }
        let s := s.modQuad q (fun k => { k with conv := kvSet k.conv n c' })
        if c.signed.contains (gk, t) || c'.signed.isEmpty then s else s.convClose q n gk
      else s) s

end Sys2Proof.Machine
end

