-- ==== Sys2Proof/Machine/Scopes.lean ====
section
/-!
DEFINITION. Releases and acquires as a group performs them: the epoch counters of its core and their sweeps (12 R327, R328), the
writes that a release waits for (12 R329, R333, R338), the vector clocks of the dies (12 R342), and heartbeats (14 R396).
-/
namespace Sys2Proof.Machine
open Sys2Proof

/-- The epoch counter that an acquire at a scope advances (12 R327). -/
def scopeIdx : Scope → Option Nat
  | .team => some 0
  | .gang => some 1
  | .device | .system => some 2
  | _ => none

/-- Advance a core's epoch counter and start its sweep (12 R327, R328). -/
def Core.advance (k : Core) (i cycle : Nat) : Core :=
  { k with epochs := k.epochs.modify i (fun c => (c + 1) % 16), sweeps := k.sweeps ++ [(i, cycle + 64)] }

/-- ACQUIRE at a scope index: the counter advances, or the group parks until the sweep in progress ends (12 R328). -/
def State.acquireAt (s : State) (gk i : Nat) : State :=
  let c := s.coreOf gk
  if (s.core c).sweeps.any (fun e => e.1 == i) then s.modGroup gk (fun g => { g with run := .acquire i })
  else s.modCore c (fun k => k.advance i s.cycle)

/-- A group that acquires from its team takes over what the team's groups have written or seen and what is not performed yet: a later release of
it passes that on (12 R341). -/
def State.seesTeam (s : State) (gk : Nat) : State :=
  let ws := (s.teamOf gk).groups.flatMap s.unperformed
  if ws.all (fun w => w.1 == gk) then s
  else s.modGroup gk (fun g => { g with seen := ws.foldl (fun m w => if w.1 = gk || m.contains w then m else m ++ [w]) (g.seen.filter s.isOpen) })

def State.acquire (s : State) (gk : Nat) (sc : Scope) : State :=
  match scopeIdx sc with
  | some i => (s.seesTeam gk).acquireAt gk i
  | none => s

/-- Whether every earlier access of a group, and at gang scope and wider every write that it has seen, has been performed at a scope, so that a
release may be (12 R338, R341). -/
def State.releaseReady (s : State) (gk : Nat) (sc : Scope) : Bool :=
  let g := s.group gk
  let near := g.pend.all (·.ready) && !(s.core (s.coreOf gk)).slog.any (fun e => e.gk == gk)
  match sc with
  | .gang | .device | .system => near && g.unapplied.isEmpty && g.unacked.isEmpty && g.seen.all (fun w => !s.isOpen w)
  | _ => near

/-- A die performs a release (12 R342). -/
def State.bumpClock (s : State) (die : Nat) : State :=
  { s with vclocks := kvSet s.vclocks die ((s.dieClock die).modify die (· + 1)) }

/-- RELEASE at a scope: the loads before it have returned their values (12 R338), and the die of the group's core adds to its clock when the
release leaves the core (12 R342). -/
def State.release (s : State) (gk : Nat) (sc : Scope) : State :=
  let s := if (s.group gk).pend.any (fun p => p.again.isSome) then
      s.modGroup gk (fun g => { g with pend := g.pend.map (fun p => { p with again := none }) }) else s
  match sc with
  | .gang | .device | .system => s.bumpClock (Config.dieOf (s.coreOf gk))
  | _ => s

/-- A progress beat of a group's team restarts its heartbeat window (14 R396). -/
def State.beat (s : State) (gk : Nat) : State := s.modTeam (s.group gk).team (fun tm => { tm with beatAt := s.clk.toNat })

end Sys2Proof.Machine
end

