-- ==== Sys2Proof/Machine/Members.lean ====
section
/-!
DEFINITION. What the end of a thread or a group means to the sets it belongs to: the REGQ rendezvous of its team (11 R312),
hardware barrier colours and convergence registers (01 R55, R56).
-/
namespace Sys2Proof.Machine
open Sys2Proof

/-! ## REGQ -/

/-- The groups that an open REGQ set waits for: those of its two roles that have a live thread (11 R312). -/
def State.regqMembers (s : State) (tk : Nat) (q : RegqSet) : List Nat :=
  (s.team tk).groups.filter (fun gk => ((s.group gk).role == q.src || (s.group gk).role == q.dst) && !(s.group gk).live.isEmpty)

/-- Move n registers of quota between two roles. -/
def moveQuota (roles : List Role) (src dst n : Nat) : List Role :=
  (roles.modify src (fun r => { r with vregs := r.vregs - n })).modify dst (fun r => { r with vregs := r.vregs + n })

/-- Drop the registers of a thread from a number upwards (11 R312). -/
def Thread.dropV (th : Thread) (n : Nat) : Thread :=
  { th with v := th.v.filter (fun e => e.1 < n), vw := th.vw.filter (· < n), late := th.late.filter (fun e => e.1 < n) }

/-- Complete an open REGQ set once every member has arrived (11 R312): the quota moves, the discarded registers are gone, and
the arrived groups go on, each acquiring every arrival (12 Table 12.6). -/
def State.regqTry (s : State) (tk : Nat) : State :=
  match (s.team tk).regq with
  | none => s
  | some q =>
    if !(s.regqMembers tk q).all (fun gk => q.arrived.contains gk) then s
    else
      let roles := moveQuota (s.team tk).roles q.src q.dst q.n
      let keep := (roles.getD q.src ⟨0, 0, 0, 0⟩).vregs
      let s := s.modTeam tk (fun tm => { tm with roles := roles, regq := none })
      (s.team tk).groups.foldl (fun s gk =>
        let s := if (s.group gk).role = q.src then
            s.modGroup gk (fun g => { g with threads := g.threads.map (fun th => th.dropV keep) }) else s
        if q.arrived.contains gk && (s.group gk).run == .regq then
          (s.modGroup gk (fun g => { g with run := .running })).acquire gk .team else s) s

/-- A thread of a group has exited or died: its convergence sets expect one fewer (01 R55, R56, 09 R275).  A transaction barrier counts
arrivals that software divides among threads as it likes, so its EXPECT and PENDING stay (log 34). -/
def State.threadLeft (s : State) (gk t : Nat) : State := s.convLeave gk t

/-- A group whose last live thread has ended: the group ends (01 R17) and stops counting in its team's sets. -/
def State.groupLeft (s : State) (gk : Nat) : State :=
  if (s.group gk).live.isEmpty && (s.group gk).run ≠ .ended then
    let s := s.modGroup gk (fun g => { g with run := .ended, parked := false, resume := none, begun := false })
    s.regqTry (s.group gk).team
  else s

end Sys2Proof.Machine
end

