-- ==== Sys2Proof/Machine/Ops.lean ====
section
/-!
DEFINITION. The operations that every instruction shares: the issue of a group (01 R42), the protection classes and their
comparisons (15 R400 to R402), the death of a thread (01 R54), taking a trap and returning from its handler (11 R310, R311;
16 R434 to R437), and the frames that run an instruction per thread or once for the group (01 R51 to R53, 04 R135).
-/
namespace Sys2Proof.Machine
open Sys2Proof

/-! ## The issue rule -/

/-- The least of the PCs of some threads. -/
def minPc (g : Group) : List Nat → Nat
  | [] => 0
  | [t] => (g.thread t).pc.toNat
  | t :: ts => min (g.thread t).pc.toNat (minPc g ts)

/-- The threads that a resumed instruction still has to execute (01 R52). -/
def Group.resuming (g : Group) : List Nat :=
  match g.resume with
  | none => []
  | some st => g.live.filter (fun t => st.ex.contains t && st.ridx ≤ t)

/-- The issuing set and its address (01 R42): the live threads at the least PC, or the threads that resume (R52). -/
def Group.issuing (g : Group) : List Nat :=
  match g.resuming with
  | [] => g.live.filter (fun t => (g.thread t).pc.toNat == minPc g g.live)
  | ts => ts

/-- The issue of the current group for an instruction with header h and a size in bytes (01 R42).  A resumed instruction does
not evaluate its guard again (R52). -/
def State.issue (s : State) (h : Hdr) (size : Nat) : Issue :=
  let g := s.group s.cur
  let iss := g.issuing
  let ex := if g.resuming.isEmpty then iss.filter (fun t => (g.thread t).pred h.gp.val ^^ h.gn) else iss
  { key := s.cur, w := (g.thread (iss.headD 0)).pc.toNat, size := size, blk := (g.thread (iss.headD 0)).blk.toNat,
    issuing := iss, ex := ex }

/-- Send a thread into the block whose descriptor stands at an address (01 R40). -/
def Thread.enter (th : Thread) (a : Nat) : Thread :=
  { th with pc := BitVec.ofNat 57 (a + 8), blk := BitVec.ofNat 57 a, ent := none, vw := [] }

/-- Advance a thread past an instruction (01 R40): past the last word of its block it falls onto the next descriptor. -/
def Thread.advance (th : Thread) (size : Nat) : Thread :=
  let pc := th.pc.toNat + size
  match th.ent with
  | some e =>
    if th.blk.toNat + 8 + 8 * e.len ≤ pc then th.enter (th.blk.toNat + 8 + 8 * e.len) else { th with pc := BitVec.ofNat 57 pc }
  | none => { th with pc := BitVec.ofNat 57 pc }

def State.advanceAll (s : State) (gk size : Nat) (ts : List Nat) : State :=
  ts.foldl (fun s t => s.modThread gk t (fun th => th.advance size)) s

/-! ## Protection classes -/

/-- The kinds of instruction that a mode gives classes to (14 R398). -/
inductive IKind where
  | control | lane | matrix
deriving DecidableEq, Repr

/-- The classes of a mode (14 Table 14.13). -/
def modeClass : Mode → IKind → Cls
  | .speed, _ => .plain
  | .verified, .matrix => .plain
  | .verified, _ => .dup
  | .sentinel, .control => .trip
  | .sentinel, _ => .dup

/-- The effective class (03 R103, 11 R309, 14 R398): PCL, else the block's DPC, else gclass, else the launch's CLASS, else the
mode's class for the kind. -/
def State.effClass (s : State) (is : Issue) (pcl : Cls) (k : IKind) : Cls :=
  let g := s.group is.key
  let l := s.launchOf is.key
  let dpc := match (g.thread is.lowest).ent with | some e => e.dpc | none => .inherit
  let gc := clsOfNat (g.gclass.toNat % 4)
  if pcl ≠ .inherit then pcl
  else if dpc ≠ .inherit then dpc
  else if gc ≠ .inherit then gc
  else if l.r.cls ≠ .inherit then l.r.cls
  else modeClass l.r.mode k

/-- What the comparison of a thread's (or, for 32, the group's) computation comes to (15 Table 15.2). -/
inductive Verdict where
  | same | flipped (x : Nat) | corrected | split
deriving DecidableEq, Repr

def State.verdict (s : State) (c : Cls) (t : Nat) : Verdict :=
  match s.env.votes.find? (fun v => v.t == t) with
  | none => .same
  | some v => if c = .plain then .flipped v.flip else if v.agree then .corrected else .split

/-- The physical quad that a cluster's spare is (18; log 7), and whether a team of a core has to leave it. -/
def State.preemptTeam (s : State) (tk : Nat) : State :=
  let gang := (s.team tk).gang
  { s with teams := s.teams.map (fun e =>
      if (e.1 = tk || e.2.gang = gang) && e.2.resid == .placed then (e.1, { e.2 with resid := .preempting }) else e) }

/-- Pre-empt every team on a core (14 R387). -/
def State.preemptCore (s : State) (c : Nat) : State :=
  (s.teams.filter (fun e => e.2.core == c)).foldl (fun s e => s.preemptTeam e.1) s

/-- A core that reaches THRESH is collared (15 R428): its teams are pre-empted, it flushes its reduction buffer, the collar enters the
configuration store, and it leaves scheduling; an unused spare quad of its cluster takes the place of its quad, whose other cores
become retired. -/
def State.collarCore (s : State) (c : Nat) : State :=
  let cl := Config.clusterOf c
  let q := Config.quadOf c
  let s := (((s.preemptCore c).redFlushAll c).storeWrite (fun b => { b with collars := b.collars ++ [(c, s.clk.toNat, (s.core c).demerit)] })).modCore
    c (fun k => { k with collar := true, retired := false })
  if !(s.cluster cl).spareUsed && q ≠ (s.cluster cl).spareQuad then
    let s := s.modCluster cl (fun k => { k with spareUsed := true })
    ([0, 1, 2, 3].map (fun i => 4 * q + i)).foldl (fun s k =>
      if k = c || (s.core k).collar then s else (s.preemptCore k).modCore k (fun k => { k with retired := true })) s
  else s

/-- Charge a core with demerits (15 R427). -/
def State.charge (s : State) (c n : Nat) : State :=
  let s := s.modCore c (fun k => { k with demerit := min 255 (k.demerit + n) })
  if s.thresh ≤ (s.core c).demerit && !(s.core c).collar then s.collarCore c else s

/-- The lane whose result lost a comparison of a thread's operation (15 R400, R402); the replicas of a group's computation run in the uniform
datapath of the home lane. -/
def State.losingLane (s : State) (gk t : Nat) : Nat :=
  let home := (s.group gk).lane
  match s.env.votes.find? (fun v => v.t < 128 && v.t % 64 = t) with
  | some v => if t < 32 then (home + v.loser % 3) % 32 else home
  | none => home

/-- Two of three results agree (15 Table 15.2). -/
def State.noteCorrected (s : State) (gk t : Nat) : State :=
  let lane := s.losingLane gk t
  ((s.charge (s.coreOf gk) 4).count 0).raiseThread gk t recCORRECTED (fun r => { r with lane := lane })

/-! ## Death -/

/-- Mark a team of a checked kernel tainted (01 R55, 15 R414). -/
def State.taint (s : State) (tk : Nat) : State :=
  let tm := s.team tk
  if (s.launch tm.kid).checked && !tm.chk.tainted then
    let s := (s.modTeam tk (fun tm => { tm with chk := { tm.chk with tainted := true } })).count 5
    { s with sleeve := kvMod s.sleeve tm.sameAs (fun e =>
        match tm.kind with
        | .original => { e with tainted := true }
        | .replay => { e with replayTainted := true }
        | .auth => e) }
  else s

/-- The codes that the records of deaths carry (16 Table 16.2). -/
def deathCode (typ : Nat) : Nat := if typ = recSDC_PIPE then 0x50 else if typ = recPOISON then 0x51 else 0

/-- A thread dies (01 R54, R55; 16 R442), with a record of the given type. -/
def State.killThread (s : State) (gk t typ : Nat) : State :=
  if ((s.group gk).thread t).st ≠ .live then s
  else
    let lane := if typ = recSDC_PIPE then s.losingLane gk t else (s.group gk).lane
    let s := s.raiseThread gk t typ (fun r => { r with code := deathCode typ, lane := lane })
    let s := s.modThread gk t (fun th => { th with st := .dead })
    let tm := s.teamOf gk
    let s := if tm.kind = .original then s.modLaunch tm.kid (fun l => { l with killed := l.killed + 1 }) else s
    ((s.taint (s.group gk).team).threadLeft gk t).groupLeft gk

def State.killThreads (s : State) (gk typ : Nat) (ts : List Nat) : State :=
  ts.foldl (fun s t => s.killThread gk t typ) s

/-- A thread's operation, or a group-once computation, ends without two agreeing results (15 Table 15.2). -/
def State.killSplit (s : State) (gk : Nat) (ts : List Nat) : State :=
  ((s.charge (s.coreOf gk) 16).count 1).killThreads gk recSDC_PIPE ts

/-! ## Taking a trap, and returning -/

/-- A precise trap (16 R432): its code, kind, resume index, the faulting address, whether the instruction is complete, the EXEC
and size of the trapping instruction, its place in its block, and what its record says beyond that. -/
structure Trap where
  code  : Nat
  kind  : TrapKind
  ridx  : Nat
  ex    : List Nat
  size  : Nat
  addr  : Nat
  done  : Bool
  block : Bool               -- taken at block entry: on resume the block is fetched again
  widx  : Nat                -- the word index of the instruction in its block
  desc  : Nat                -- the descriptor address of the record
  pois  : Bool               -- POISON of the record (16 R448)
  rwidx : Option Nat         -- the word-index field of the record, where it is not `widx` (04 R147)
  rthr  : Option Nat         -- the thread field of the record, where it is not `ridx` (08 R241)
deriving DecidableEq, Repr

def Trap.of (code : Nat) (kind : TrapKind) (is : Issue) (ridx addr : Nat) : Trap :=
  { code := code, kind := kind, ridx := ridx, ex := is.ex, size := is.size, addr := addr, done := false, block := false,
    widx := wordIndex is.blk is.w, desc := is.blk, pois := false, rwidx := none, rthr := none }

/-- An instruction-level trap (01 R51): the resume index is the lowest thread of EXEC. -/
def Trap.atInstr (code : Nat) (is : Issue) : Trap := Trap.of code .instruction is is.lowest 0

def kindCode : TrapKind → Nat | .instruction => 0 | .thread => 1 | .deferred => 2

/-- TCAUSE (11 Table 11.4). -/
def tcauseOf (hnd : Bool) (widx : Nat) (t : Trap) : Word :=
  BitVec.ofNat 32 ((if hnd then 2 ^ 31 else 0) + widx % 4096 * 2 ^ 16 + (if t.done then 2 ^ 15 else 0) + kindCode t.kind * 2 ^ 13
    + t.ridx % 32 * 2 ^ 8 + t.code % 256)

/-- Write RIDX of gstat (01 Table 1.5). -/
def setRidx (g : Word) (k : Nat) : Word := (g &&& ~~~ (BitVec.ofNat 32 0x1F0000)) ||| BitVec.ofNat 32 (k % 32 * 2 ^ 16)

/-- The trap CSRs as a handler finds them (11 R310). -/
def Group.saveTrap (g : Group) (hnd : Bool) (t : Trap) : Group :=
  { g with
    tpc := g.threads.map Thread.pcEntry
    tplace := g.threads.map Thread.place
    texec := BitVec.ofNat 32 (maskOf t.ex)
    tcause := tcauseOf hnd t.widx t
    gstat := setRidx g.gstat t.ridx
    taddr := if [0x20, 0x21, 0x22, 0x23, 0x24].contains t.code then BitVec.ofNat 64 t.addr else 0
    tsize := t.size }

/-- End a team by trap (16 R437): it stops issuing in every group, and its ending status is kept. -/
def State.endByTrap (s : State) (tk status : Nat) : State :=
  s.modTeam tk (fun tm => { tm with ended := match tm.ended with | some c => some c | none => some status })

/-- Keep which trap of which instruction ends an original: its later runs end there too (16 R436; log 42). -/
def State.noteEnd (s : State) (gk code : Nat) : State :=
  let g := s.group gk
  let tm := s.team g.team
  if tm.kind = .original && tm.ended.isNone then
    { s with sleeve := kvMod s.sleeve tm.sameAs (fun e => { e with endTrap := some ⟨g.gid, g.seq, code⟩ }) }
  else s

/-- Whether a precise trap is delivered to the group's handler (11 R310). -/
def State.goesToHandler (s : State) (gk : Nat) (t : Trap) : Bool :=
  let g := s.group gk
  g.tvec ≠ 0 && !g.inHandler && !([0x04, 0x05, 0x20, 0x60].contains t.code)
    && (!(s.launchOf gk).checked || (0x70 ≤ t.code && t.code ≤ 0x7F))

/-- The active loop whose loaded span holds an address. -/
def Group.loopAt (g : Group) (a : Nat) : Option LoopReg :=
  g.loops.find? (fun l => l.active && l.body.toNat ≤ a && a < l.body.toNat + 8 * l.len && (a - l.body.toNat) / 8 < l.buf.length)

/-- The word at an address in the loop buffer of a group (04 R150).  Of nested active loops the outermost has the lowest number
(R144), and its words are the ones that run (log 33). -/
def Group.bufWord (g : Group) (a : Nat) : Option DWord := (g.loopAt a).bind (fun l => l.buf[(a - l.body.toNat) / 8]?)

/-- Whether the word at an address is a descriptor, as the unit that fetches sees it (03 R101). -/
def isDescriptorAt (s : State) (core tenant a : Nat) : Bool × State :=
  if a % 8 ≠ 0 || 2 ^ 57 ≤ a then (false, s)
  else
    match fetchBytes s core tenant a 8 with
    | (.ok rd, s) => (Word.ofBytes rd.bytes / 2 ^ 56 == 0xB5, s)
    | (.error _, s) => (false, s)

/-- The system path (16 R434, R436): the trap's state is recorded and the group stops; in a checked kernel any code but
PAGE_FAULT ends the team. -/
def State.systemPath (s : State) (gk : Nat) (t : Trap) : State :=
  let tenant := s.tenantOf gk
  let tk := (s.group gk).team
  let s := s.modGroup gk (fun g =>
    let g := if g.inHandler then { g with gstat := setRidx g.gstat t.ridx } else g.saveTrap false t
    { g with run := .stopped, stopAt := if t.block || t.done then none else some ⟨t.ex, t.ridx⟩, stopSize := t.size,
             stopCode := t.code, stopVa := t.addr, resume := none, begun := false })
  let s := s.emit (.msixErr tenant)
  if (s.launchOf gk).checked && t.code ≠ 0x20 then (s.noteEnd gk t.code).endByTrap tk t.code else s

/-- What a FAULT record says of a malformed or poisoned entry (16 R454): its address, its level, its poison. -/
structure FaultDetail where
  entry : Nat
  level : Nat
  pois  : Bool
deriving DecidableEq, Repr

/-- The entry that makes an address unmapped for a die's walkers, if it is a malformed or a poisoned one. -/
def State.faultDetail (s : State) (die tenant va : Nat) : FaultDetail :=
  if !(s.ctx tenant).pten then ⟨0, 0, false⟩
  else
    match (walk die tenant va s).1 with
    | .unmapped (some (e, l, p)) => ⟨e, l, p⟩
    | _ => ⟨0, 0, false⟩

/-- TAKE A TRAP: every precise trap of a group goes through here (11 R310, 16 R434).  A record is written; then either the
group's handler is entered, with the PC vector, EXEC, cause and address saved and every live thread sent to the block at tvec,
or the trap takes the system path. -/
def State.takeTrap (s : State) (gk : Nat) (t : Trap) : State :=
  let g := s.group gk
  let tm := s.team g.team
  let handler := s.goesToHandler gk t
  let ends := !handler && (s.launchOf gk).checked && t.code ≠ 0x20
  let fd := if t.code = 0x20 then s.faultDetail (Config.dieOf tm.core) (s.tenantOf gk) t.addr else ⟨0, 0, false⟩
  let s := s.raiseThread gk (t.rthr.getD t.ridx) (if t.code = 0x20 then recFAULT else recTRAP) (fun r =>
    { r with code := t.code, addr := t.addr, poison := t.pois || fd.pois, widx := t.rwidx.getD t.widx, desc := t.desc, ended := ends,
             extra := fd.entry, detail := fd.level })
  if handler then
    let (isD, s) := isDescriptorAt s tm.core (s.tenantOf gk) g.tvec.toNat
    if isD then
      s.modGroup gk (fun g =>
        let g := g.saveTrap true t
        { g with resume := none, begun := false
                 threads := g.threads.map (fun th => if th.st = .live then th.enter g.tvec.toNat else th) })
    else
      let s := s.raiseThread gk t.ridx recTRAP (fun r => { r with code := 0x03 })
      s.systemPath gk t
  else s.systemPath gk t

/-- Restore the PC of a live thread from its saved entry (11 R311); it stands again in the block it left, and what it wrote
since it entered that block includes what it wrote in the handler (01 R58). -/
def Thread.setPc (th : Thread) (e : DWord) (p : Place) : Thread :=
  if th.st = .live then
    { th with pc := e.truncate 57, blk := p.blk, ent := p.ent, vw := p.vw.foldl setInsert th.vw, entAt := p.entAt }
  else th

/-- RETURN FROM A HANDLER (11 R311): the live threads take their saved PCs; with skip, the threads of the trapping EXEC from
the resume index up pass over the trapping instruction, unless it was complete; with resume they execute it again. -/
def Group.leaveHandler (g : Group) (skip : Bool) : Group :=
  let ridx := Word.bits g.tcause.toNat 12 8
  let done := g.tcause.getLsbD 15
  let ex := ofMask g.texec.toNat
  let back := { g with threads := (List.range g.threads.length).map (fun t => (g.thread t).setPc (g.tpc.getD t 0) (g.tplace.getD t (g.thread t).place))
                       tcause := g.tcause &&& 0x7FFFFFFF }
  if done then { back with resume := none }
  else if skip then
    ex.foldl (fun g t => if ridx ≤ t && (g.thread t).st == .live then g.modThread t (fun th => th.advance g.tsize) else g)
      { back with resume := none }
  else { back with resume := some ⟨ex, ridx⟩ }

/-! ## Frames -/

/-- What one thread of a per-thread instruction comes to in its turn. -/
inductive TOut where
  | ok (s : State)                          -- complete; its PC has been set
  | die (s : State) (typ : Nat)             -- it dies (01 R54)
  | split (s : State)                       -- no two replicas agree (15 Table 15.2)
  | trap (s : State) (code addr : Nat)      -- a thread-level trap (01 R52)
  | wait (s : State)                        -- it cannot begin yet: the instruction is taken up again at this thread
  | diverge (s : State)                     -- a later run leaves its log (15 R412)

/-- What a whole instruction comes to. -/
inductive Ran where
  | done (s : State)
  | trap (s : State) (t : Trap)
  | held (s : State) (at_ : Nat)            -- taken up again at this thread (01 R52, 14 R388)
  | left (s : State)                        -- it has set where the group goes on (TRET, 11 R311)
  | diverge (s : State)

/-- The threads of EXEC in ascending order (01 R42, R52).  `cut` counts the threads that pass before a pre-emption stops the
instruction at a thread boundary (14 R388). -/
def runThreads (is : Issue) (f : Nat → State → TOut) : List Nat → Option Nat → State → Ran
  | [], _, s => .done s
  | t :: ts, cut, s =>
    if cut = some 0 then .held s t
    else
      match f t s with
      | .ok s => runThreads is f ts (cut.map (· - 1)) s
      | .die s typ => runThreads is f ts (cut.map (· - 1)) (s.killThread is.key t typ)
      | .split s => runThreads is f ts (cut.map (· - 1)) (s.killSplit is.key [t])
      | .trap s code addr => .trap s (Trap.of code .thread is t addr)
      | .wait s => .held s t
      | .diverge s => .diverge s

/-- Whether a group has a long-latency result outstanding (01 R45): a load, an atomic, a drain or a tile load, a mover
descriptor. -/
def State.outstanding (s : State) (gk : Nat) : Bool :=
  !(s.group gk).pend.isEmpty || (s.core (s.coreOf gk)).moves.any (fun m => m.gk == gk)

/-- A parked group whose last outstanding result has returned goes on (01 R45, R59). -/
def State.unpark (s : State) (gk : Nat) : State :=
  if s.outstanding gk then s else s.modGroup gk (fun g => { g with parked := false })

/-- The park marker of an instruction that sets for itself where its group goes on (01 R45). -/
def State.park (s : State) (h : Hdr) (gk : Nat) : State :=
  if h.pk then s.modGroup gk (fun g => { g.land with parked := s.outstanding gk }) else s

/-- What follows every completed instruction: its place in the order of issue, the instruction count (15 R410), the park marker
(01 R45: what has returned so far is in its registers, and the group parks for the rest), and the end of a group without live
threads (01 R17). -/
def State.complete (s : State) (h : Hdr) (is : Issue) : State :=
  let out := s.outstanding is.key
  let s := s.modGroup is.key (fun g =>
    let g := if h.pk then g.land else g
    { g with resume := none, begun := false, issued := s.stamp, seq := if g.inHandler then g.seq else (g.seq + 1) % 2 ^ 32,
             parked := h.pk && out })
  { s with stamp := s.stamp + 1 }.groupLeft is.key

/-- End an instruction as it came out. -/
def Ran.finish (h : Hdr) (is : Issue) : Ran → State
  | .done s => s.complete h is
  | .trap s t => s.takeTrap is.key t
  | .held s t => { s with stamp := s.stamp + 1 }.modGroup is.key (fun g =>
      { g with resume := some ⟨is.ex, t⟩, issued := s.stamp, begun := g.begun || is.ex.any (· < t) })
  | .left s => (({ s with stamp := s.stamp + 1 }.modGroup is.key (fun g => { g with issued := s.stamp, begun := false })).park h is.key).groupLeft is.key
  | .diverge s => s.diverge is.key

/-- An instruction is always some group's: without one the machine faults (log 1). -/
def State.inGroup (s : State) (out : State) : Out :=
  if (kvGet s.groups s.cur).isSome then .next out else .fault .noIssuingGroup

/-- The guarded-off threads of an issue (01 R42). -/
def Issue.guardedOff (is : Issue) : List Nat := is.issuing.filter (fun t => !is.ex.contains t)

/-- Put threads back where they stood in an earlier state. -/
def State.putBack (s old : State) (gk : Nat) (ts : List Nat) : State :=
  ts.foldl (fun s t =>
    let o := (old.group gk).thread t
    s.modThread gk t (fun th => { th with pc := o.pc, blk := o.blk, ent := o.ent, vw := o.vw })) s

/-- An instruction-level or deferred trap of the body leaves the whole issuing set at the instruction (01 R51, 03 R124; 10 R292). -/
def Ran.undo (old : State) (is : Issue) : Ran → Ran
  | .trap s t => if t.kind ≠ .thread && !t.done then .trap (s.putBack old is.key is.guardedOff) t else .trap s t
  | r => r

/-- The frame of every instruction (01 R42, R51): with an empty EXEC it only advances the issuing set; else its instruction-level
traps are checked, the guarded-off threads advance, and the body runs. -/
def runInstr (h : Hdr) (size : Nat) (chk : State → Issue → Option (Nat × Nat)) (body : State → Issue → Ran) (s : State) : Out :=
  let is := s.issue h size
  s.inGroup
    (if is.ex.isEmpty then (s.advanceAll is.key size is.issuing).complete h is
     else
       match chk s is with
       | some (code, addr) => s.takeTrap is.key { Trap.atInstr code is with addr := addr }
       | none => ((body (s.advanceAll is.key size is.guardedOff) is).undo s is).finish h is)

/-- The frame of a per-thread instruction. -/
def runPerThread (h : Hdr) (size : Nat) (chk : State → Issue → Option (Nat × Nat)) (f : Issue → Nat → State → TOut) (s : State) : Out :=
  runInstr h size chk (fun s is => runThreads is (f is) is.ex s.env.cut s) s

/-- The frame of a group-once instruction (04 R135, R137; 15 Table 15.2): its computed values are compared once; without
agreement every thread of EXEC dies. The body leaves the PCs of EXEC to the frame. -/
def runOnce (h : Hdr) (size : Nat) (chk : State → Issue → Option (Nat × Nat)) (body : Issue → State → Ran) (s : State) : Out :=
  runInstr h size chk (fun s is =>
    match s.verdict (s.effClass is h.pcl .control) 32 with
    | .split => .done (s.killSplit is.key is.ex)
    | .corrected => body is (s.noteCorrected is.key 32)
    | _ => body is s) s

/-- A thread completes: it passes over the instruction. -/
def State.pass (s : State) (is : Issue) (t : Nat) : State := s.modThread is.key t (fun th => th.advance is.size)
/-- Every thread of EXEC passes over the instruction. -/
def State.passAll (s : State) (is : Issue) : State := s.advanceAll is.key is.size is.ex

/-! ## Register destinations -/

/-- VREGS, SREGS and POCKET of a group's role, with the quotas in force (01 R23, R26). -/
def State.roleOf (s : State) (gk : Nat) : Role := (s.teamOf gk).roles.getD (s.group gk).role Role.none

/-- Write words to a register operand of a thread; z discards (03 Table 3.5). -/
def State.putWords (s : State) (gk t : Nat) (o : Opnd) (ws : List RegWord) : State :=
  match o with
  | .v n => s.modThread gk t (fun th => th.setV n.val ws)
  | .x i => s.modThread gk t (fun th => th.setV (th.idx i.val) ws)
  | .s n => s.modGroup gk (fun g => g.setS n.val ws)
  | _ => s

/-- Raise exception flags (01 R38, 02 R75). -/
def State.raiseFlags (s : State) (gk : Nat) (f : FFlags) : State :=
  if f = 0 then s else s.modGroup gk (fun g => { g with gstat := g.gstat ||| f.zeroExtend 32 })

/-- A permuted or shuffled read took its value from a dead thread (01 R49). -/
def State.deadRead (s : State) (gk : Nat) (b : Bool) : State :=
  if b then s.modGroup gk (fun g => { g with gstat := g.gstat ||| 64 }) else s

end Sys2Proof.Machine
end

