-- ==== Sys2Proof/Machine/Fetch.lean ====
section
/-!
DEFINITION. Blocks: descriptors, their CRC, fetch into a core's instruction cache (03 R97 to R102), the loading of a loop's span
(04 R146, R149), and where an issuing group's instruction words come from (04 R150).
-/
namespace Sys2Proof.Machine
open Sys2Proof

/-! ## Descriptors -/

/-- One step of the CRC of 03 R99, on one bit. -/
def crcBit (crc : Nat) : Nat := if crc.testBit 15 then (crc * 2 ^^^ 0x1021) % 2 ^ 16 else crc * 2 % 2 ^ 16
def crcByte (crc b : Nat) : Nat := crcBit (crcBit (crcBit (crcBit (crcBit (crcBit (crcBit (crcBit (crc ^^^ b * 2 ^ 8))))))))
/-- The CRC-16 of 03 R99. -/
def crc16 (bs : List Byte) : Nat := bs.foldl (fun c b => crcByte c b.toNat) 0xFFFF

def isDescriptor (d : Nat) : Bool := Word.bits d 63 56 = 0xB5

/-- The fields of a descriptor (03 Table 3.1). -/
def entOf (d : Nat) : Entered :=
  { len := Word.bits d 55 44, vlive := Word.bits d 43 36, slive := Word.bits d 35 28, dpc := clsOfNat (Word.bits d 27 26) }

/-- The checks of 03 R98. -/
def descBad (d : Nat) : Bool :=
  !isDescriptor d || (entOf d).len = 0 || 128 < (entOf d).vlive || 128 < (entOf d).slive

/-! ## Fetch -/

/-- A failed fetch: trap code, the address that did not translate, the descriptor of the block, and the POISON of the record. -/
structure FetchErr where
  code : Nat
  addr : Nat
  desc : Nat
  pois : Bool
deriving DecidableEq, Repr

/-- Read a word of code with its poison: from a loop buffer that holds it (04 R150), else through a core's fetch. -/
def fetchWord (buf : Nat → Option DWord) (core tenant desc a : Nat) (s : State) : Except FetchErr (DWord × Bool) × State :=
  match buf a with
  | some w => (.ok (w, false), s)
  | none =>
    match fetchBytes s core tenant (a % 2 ^ 57) 8 with
    | (.error c, s) => (.error ⟨c, a, desc, false⟩, s)
    | (.ok rd, s) => (.ok (BitVec.ofNat 64 (Word.ofBytes rd.bytes), rd.pois), s)

/-- Read n words of code one after another; the first missing translation ends it. -/
def fetchWords (buf : Nat → Option DWord) (core tenant desc : Nat) : Nat → Nat → State → Except FetchErr (List DWord × Bool) × State
  | _, 0, s => (.ok ([], false), s)
  | a, n + 1, s =>
    match fetchWord buf core tenant desc a s with
    | (.error e, s) => (.error e, s)
    | (.ok (w, p), s) =>
      match fetchWords buf core tenant desc (a + 8) n s with
      | (.error e, s) => (.error e, s)
      | (.ok (ws, q), s) => (.ok (w :: ws, p || q), s)

/-- The bytes of code words in memory order. -/
def codeBytes (ws : List DWord) : List Byte := ws.flatMap (fun w => Word.toBytes 8 w.toNat)

/-- Read and check the block at an address (03 R98 to R100; 16 R448). -/
def readBlock (buf : Nat → Option DWord) (s : State) (core tenant a : Nat) : Except FetchErr CBlock × State :=
  match fetchWords buf core tenant a a 1 s with
  | (.error e, s) => (.error e, s)
  | (.ok (ds, p), s) =>
    let d := (ds.headD 0).toNat
    if p then (.error ⟨0x05, 0, a, true⟩, s)
    else if descBad d then (.error ⟨0x04, 0, a, false⟩, s)
    else
      match fetchWords buf core tenant a (a + 8) (entOf d).len s with
      | (.error e, s) => (.error e, s)
      | (.ok (ws, p), s) =>
        if p then (.error ⟨0x05, 0, a, true⟩, s)
        else if crc16 (codeBytes ws) ≠ Word.bits d 15 0 then (.error ⟨0x05, 0, a, false⟩, s)
        else (.ok { tenant := tenant, addr := a, ent := entOf d, words := ws }, s)

/-- The block of a core's instruction cache at an address. -/
def cachedBlock (s : State) (core tenant a : Nat) : Option CBlock :=
  (s.core core).icache.find? (fun b => b.tenant == tenant && b.addr == a)

/-- Fetch a block into the instruction cache of a core (03 R100), words of an active loop's span from its buffer.  A block entered
anew is read anew, so that it is executed as memory holds it then (04 R150). -/
def fetchBlock (buf : Nat → Option DWord) (s : State) (core tenant a : Nat) : Except FetchErr CBlock × State :=
  match readBlock buf s core tenant a with
  | (.error e, s) => (.error e, s)
  | (.ok b, s) =>
    (.ok b, s.modCore core (fun k =>
      { k with icache := b :: k.icache.filter (fun c => !(c.tenant == tenant && c.addr == a)) }))

/-! ## Loop spans -/

/-- Walk a span of `len` words block by block from a descriptor address (04 R146); `fuel` bounds the blocks. -/
def loadSpan (core tenant : Nat) : Nat → Nat → Nat → State → Except FetchErr (List DWord) × State
  | 0, _, _, s => (.ok [], s)
  | fuel + 1, a, len, s =>
    if len = 0 then (.ok [], s)
    else
      match fetchBlock (fun _ => none) s core tenant a with
      | (.error e, s) => (.error e, s)
      | (.ok b, s) =>
        let d := 0xB5 * 2 ^ 56 + b.ent.len * 2 ^ 44 + b.ent.vlive * 2 ^ 36 + b.ent.slive * 2 ^ 28
          + (match b.ent.dpc with | .inherit => 0 | .plain => 1 | .dup => 2 | .trip => 3) * 2 ^ 26
        let ws := BitVec.ofNat 64 d :: b.words
        if len ≤ ws.length then (.ok (ws.take len), s)
        else
          match loadSpan core tenant fuel (a + 8 * ws.length) (len - ws.length) s with
          | (.error e, s) => (.error e, s)
          | (.ok rest, s) => (.ok (ws ++ rest), s)

/-- Whether word `i` of a loaded span is the first word of an instruction: walk from the span's start over descriptors and
instructions (`left` words of the present block are still to come). -/
def startsAt : List DWord → Nat → Nat → Bool
  | [], _, _ => false
  | w :: ws, left, i =>
    if left = 0 then (if i = 0 then false else startsAt ws (entOf w.toNat).len (i - 1))
    else if i = 0 then true
    else if wordSize w.toNat = 16 && 1 < left then
      match ws with
      | [] => false
      | _ :: ws' => if i = 1 then false else startsAt ws' (left - 2) (i - 2)
    else startsAt ws (left - 1) (i - 1)

/-- The word that must end the span of loop register n: an ENDL of kN whose SUB[1] fits the kind of loop (04 R146). -/
def endlFits (n : Nat) (isW : Bool) (w : Nat) : Bool :=
  opOf w = 0x024 && Word.bits w 39 38 = n && (Word.bit w 1 == isW)

/-- Whether word `i` of a loaded span is the descriptor of one of its blocks, which its load has checked (04 R146); `left` words of
the present block are still to come. -/
def spanHead : List DWord → Nat → Nat → Bool
  | [], _, _ => false
  | w :: ws, 0, i => i = 0 || spanHead ws (entOf w.toNat).len (i - 1)
  | _ :: ws, left + 1, i => i ≠ 0 && spanHead ws left (i - 1)

/-! ## The words of an issue -/

/-- The word at an address of the issuing set's block: from the loop buffer while a loop is active (04 R150), else from the
instruction cache. -/
def State.codeWord (s : State) (gk blk a : Nat) : Option Nat :=
  let g := s.group gk
  match g.bufWord a with
  | some w => some w.toNat
  | none =>
    match cachedBlock s (s.coreOf gk) (s.tenantOf gk) blk with
    | none => none
    | some b => (b.words[(a - blk - 8) / 8]?).map (·.toNat)

/-- Whether the group's issuing set has entered its block: every thread knows its block's fields, the words are at hand, and
every active loop's span is loaded (04 R149). -/
def State.entered (s : State) (gk : Nat) : Bool :=
  let g := s.group gk
  let t := g.issuing.headD 0
  let th := g.thread t
  g.issuing.all (fun t => (g.thread t).ent.isSome)
    && g.loops.all (fun l => !l.active || l.buf.length == l.len)
    && (s.codeWord gk th.blk.toNat th.pc.toNat).isSome

/-- A block-entry trap (03 R100, 04 R149): the resume index is the lowest thread of the issuing set. -/
def blockTrap (is : Issue) (e : FetchErr) : Trap :=
  { code := e.code, kind := .instruction, ridx := is.issuing.headD 0, ex := is.issuing, size := 8, addr := e.addr, done := false,
    block := true, widx := wordIndex is.blk is.w, desc := e.desc, pois := e.pois, rwidx := none, rthr := none }

/-- Load the spans of active loops that a restore left empty (04 R149). -/
def reloadSpans (gk core tenant : Nat) : List Nat → State → Except FetchErr Unit × State
  | [], s => (.ok (), s)
  | i :: is, s =>
    let l := (s.group gk).loops.getD i LoopReg.idle
    if !l.active || l.buf.length = l.len then reloadSpans gk core tenant is s
    else
      match loadSpan core tenant l.len l.body.toNat l.len s with
      | (.error e, s) => (.error e, s)
      | (.ok ws, s) =>
        reloadSpans gk core tenant is (s.modGroup gk (fun g => { g with loops := g.loops.modify i (fun l => { l with buf := ws }) }))

/-- The threads of the issuing set have entered a block with these fields (01 R58): those that are new in it count what is written
from now on. -/
def State.enterBlock (s : State) (gk : Nat) (ts : List Nat) (e : Entered) : State :=
  let n := (s.group gk).entries + 1
  ts.foldl (fun s t => s.modThread gk t (fun th => { th with ent := some e, entAt := if th.ent.isNone then n else th.entAt }))
    (if ts.any (fun t => ((s.group gk).thread t).ent.isNone) then s.modGroup gk (fun g => { g with entries := n }) else s)

/-- Enter the block at an address (03 R98 to R101): a block of an active loop's span was checked when the span was loaded; any other
word is fetched and checked, from the loop buffer where that holds it.  A block that goes on past its span is fetched when a word
past the span is to issue. -/
def State.enterAt (s : State) (gk core tenant blk pc : Nat) : Except FetchErr Entered × State :=
  let g := s.group gk
  let head := match g.loopAt blk with
    | some l => spanHead l.buf 0 ((blk - l.body.toNat) / 8)
    | none => false
  if head && (g.bufWord pc).isSome then (.ok (entOf ((g.bufWord blk).getD 0).toNat), s)
  else
    match fetchBlock (if head then (fun _ => none) else g.bufWord) s core tenant blk with
    | (.error e, s) => (.error e, s)
    | (.ok b, s) => (.ok b.ent, s)

/-- BLOCK_FETCH (03 R98 to R100): the block of the current group's issuing set is fetched and checked, or the group takes the
block-entry trap. -/
def execBlockFetch (s : State) : Out :=
  let gk := s.cur
  let g := s.group gk
  let is := s.issue ⟨false, .inherit, false, 7⟩ 8
  let core := s.coreOf gk
  let tenant := s.tenantOf gk
  let blk := is.blk
  s.inGroup
    (if g.issuing.isEmpty then s
     else
       match reloadSpans gk core tenant [0, 1, 2, 3] s with
       | (.error e, s) => s.takeTrap gk (blockTrap is e)
       | (.ok _, s) =>
         match s.enterAt gk core tenant blk is.w with
         | (.error e, s) => s.takeTrap gk (blockTrap is e)
         | (.ok e, s) => s.enterBlock gk is.issuing e)

end Sys2Proof.Machine
end

