-- ==== Sys2Proof/Machine/Lane.lean ====
section
/-!
DEFINITION. The frame of the lane instructions of 05 and 06: an instruction is given by its sources, its destination and a
function from source values to a result and flags; the frame makes the checks of 01 R51, runs it per thread in ascending
order or, with a uniform destination, once (R48), and writes.
-/
namespace Sys2Proof.Machine
open Sys2Proof

/-- A source: a register, constant or special of n words through a permutation; a predicate; p0 to p6 with bit 7 set (05
Table 5.6); an index register. -/
inductive SrcSpec where
  | reg (o : Opnd) (pm : Perm) (n : Nat) (cf : CFmt)
  | pred (p : Nat)
  | preds
  | idx (i : Nat)
deriving DecidableEq, Repr

/-- A destination: n words of a register, a predicate, p0 to p6, an index register. -/
inductive DstSpec where
  | reg (o : Opnd) (n : Nat)
  | pred (p : Nat)
  | preds
  | idx (i : Nat)
deriving DecidableEq, Repr

/-- A lane instruction: `noUniform` marks one without a uniform form (05 R161); `f` maps the source values to the result's bits
and the flags. -/
structure LaneSpec where
  dst  : DstSpec
  srcs : List SrcSpec
  noUniform : Bool
  kind : IKind
  f    : List Nat → Nat × FFlags

/-- Whether the destination is a uniform register: a uniform instruction (01 R48). -/
def DstSpec.isUniform : DstSpec → Bool
  | .reg o _ => opIsUniform o
  | _ => false

def SrcSpec.varies : SrcSpec → Bool
  | .reg o _ _ _ => opVaries o
  | _ => true

/-- PERM_OVERLAP of 01 R50: the destination overlaps a permuted source, or is v[xn] beside a permuted source. -/
def permOverlap (d : DstSpec) : SrcSpec → Bool
  | .reg o pm n _ =>
    pm.val ≠ 0 && (match d with
      | .reg (.x _) _ => true
      | .reg od nd => overlaps od nd o n
      | _ => false)
  | _ => false

/-- The instruction-level checks 4 to 6 of 01 R51 for a destination and sources. -/
def operandCheck (vregs sregs : Nat) (d : DstSpec) (srcs : List SrcSpec) (noUniform : Bool) : Option Nat :=
  if d.isUniform && (noUniform || srcs.any SrcSpec.varies) then some 0x06
  else if srcs.any (permOverlap d) then some 0x07
  else if (match d with | .reg o n => regOut vregs sregs o n | _ => false)
      || srcs.any (fun x => match x with | .reg o _ n _ => regOut vregs sregs o n | _ => false) then some 0x08
  else none

def LaneSpec.check (sp : LaneSpec) (s : State) (is : Issue) : Option (Nat × Nat) :=
  let r := s.roleOf is.key
  (operandCheck r.vregs r.sregs sp.dst sp.srcs sp.noUniform).map (·, 0)

/-- INDEX_BOUND of 01 R28, in a thread's turn. -/
def indexBound (vregs : Nat) (th : Thread) (d : DstSpec) (srcs : List SrcSpec) : Bool :=
  (match d with | .reg o n => idxOut vregs th o n | _ => false)
    || srcs.any (fun x => match x with | .reg o _ n _ => idxOut vregs th o n | _ => false)

/-- The value of a source as thread t reads it. -/
def State.srcOf (s : State) (is : Issue) (t : Nat) : SrcSpec → Src
  | .reg o pm n cf => s.source is t o pm n cf
  | .pred p => ⟨if ((s.group is.key).thread t).pred p then 1 else 0, false, false⟩
  | .preds => ⟨((s.group is.key).thread t).p.toNat + 128, false, false⟩
  | .idx i => ⟨((s.group is.key).thread t).idx i, false, false⟩

/-- Write a result (03 Table 3.5, 01 R29). -/
def State.putResult (s : State) (gk t : Nat) (d : DstSpec) (x : Nat) : State :=
  match d with
  | .reg o n => s.putWords gk t o (wordsOf n x)
  | .pred p => s.modThread gk t (fun th => th.setPred p (x % 2 = 1))
  | .preds => s.modThread gk t (fun th => { th with p := BitVec.ofNat 7 x })
  | .idx i => s.modThread gk t (fun th => { th with x := kvPut 0 th.x i (BitVec.ofNat 8 x) })

def LaneSpec.readsClk (sp : LaneSpec) : Bool := sp.srcs.any (fun x => match x with | .reg o _ _ _ => opIsClk o | _ => false)

/-- Give a reading of %clk a fixed value. -/
def State.withClk (s : State) (x : Nat) : State := { s with clk := BitVec.ofNat 64 x, env := { s.env with lane := [] } }

/-- The time record of a reading of %clk (01 R34, 15 Table 15.5): the original of a checked kernel writes it; a later run reads
the logged time.  None is a divergence.  The first state is for reading the sources, the second goes on.  The record is written when the
time is read, also where the thread then dies in the same turn (log 35). -/
def State.clockRecord (s0 s : State) (is : Issue) (t tid : Nat) (reads : Bool) : Option (State × State) :=
  if !reads then some (s0, s)
  else if s.isRerun is.key then
    (s.logNext is.key [0x04] tid).map (fun r => (s0.withClk r.1.value, r.2))
  else
    let v := s0.clkAt is t
    some (s0.withClk v, s.logAppend is.key 0x04 tid v [])

/-- One thread's turn, or the single turn of a uniform instruction (tid 32): sources as they stood before the instruction (01
R49, R175), poison (16 R447, R449), the class's comparison (15 R402), the write and the flags. -/
def LaneSpec.turn (sp : LaneSpec) (c : Cls) (is : Issue) (s0 : State) (t tid : Nat) (s : State) : TOut :=
  if indexBound (s0.roleOf is.key).vregs ((s0.group is.key).thread t) sp.dst sp.srcs then .trap s 0x09 0
  else
    match s0.clockRecord s is t tid sp.readsClk with
    | none => .diverge s
    | some (s0, s) =>
      let vs := sp.srcs.map (s0.srcOf is t)
      if vs.any (·.pois) then .die s recPOISON
      else
        let (x, fl) := sp.f (vs.map (·.val))
        let go (s : State) (x : Nat) : TOut :=
          .ok (((s.putResult is.key t sp.dst x).raiseFlags is.key fl).deadRead is.key (vs.any (·.dead)))
        match s.verdict c tid with
        | .same => go s x
        | .flipped b => go s (x ^^^ b)
        | .corrected => go (s.noteCorrected is.key tid) x
        | .split => .split s

/-- Let a thread's turn also pass it over the instruction. -/
def TOut.thenPass (is : Issue) (t : Nat) : TOut → TOut
  | .ok s => .ok (s.pass is t)
  | o => o

/-- The body of a lane instruction: a uniform destination runs once (01 R48), and a death there takes every thread of EXEC (16
R449, 15 Table 15.2). -/
def LaneSpec.body (sp : LaneSpec) (pcl : Cls) (s : State) (is : Issue) : Ran :=
  let c := s.effClass is pcl sp.kind
  if sp.dst.isUniform then
    match sp.turn c is s is.lowest 32 s with
    | .ok s => .done (s.passAll is)
    | .die s typ => .done (s.killThreads is.key typ is.ex)
    | .split s => .done (s.killSplit is.key is.ex)
    | .trap s code addr => .trap s (Trap.of code .thread is is.lowest addr)
    | .wait s => .held s is.lowest
    | .diverge s => .diverge s
  else runThreads is (fun t s' => (sp.turn c is s t t s').thenPass is t) is.ex s.env.cut s

/-- Run a lane instruction of a size in bytes. -/
def runLane (h : Hdr) (size : Nat) (sp : LaneSpec) (s : State) : Out :=
  runInstr h size sp.check (sp.body h.pcl) s

end Sys2Proof.Machine
end

