-- ==== Sys2Proof/Machine/Wait.lean ====
section
/-!
DEFINITION. Waits and what ends them: the end of a parked wait (01 R59), wake events (04 R156), transaction barriers (09 R265 to
R269), hardware barrier colours (09 R271), and waits of later runs (09 R278).
-/
namespace Sys2Proof.Machine
open Sys2Proof

/-! ## The end of a wait -/

/-- A wait that a group is parked in: its predicate, its EXEC, its deadline. -/
structure WaitInfo where
  pd : Nat
  ex : List Nat
  deadline : Nat
deriving DecidableEq, Repr

def RunSt.info : RunSt → Option WaitInfo
  | .event pd ex d => some ⟨pd, ex, d⟩
  | .barrier _ _ pd ex d _ => some ⟨pd, ex, d⟩
  | .colour _ _ pd ex d => some ⟨pd, ex, d⟩
  | .qpush _ _ pd ex d => some ⟨pd, ex, d⟩
  | .qpop _ _ pd ex d => some ⟨pd, ex, d⟩
  | .dqpop _ pd ex d => some ⟨pd, ex, d⟩
  | _ => none

/-- Park a group in a wait at an instruction with header h: its PCs stay there until the wait ends, and a pre-emption has it
executed again (14 R389). -/
def State.parkIn (s : State) (h : Hdr) (gk : Nat) (ex : List Nat) (r : RunSt) : State :=
  s.modGroup gk (fun g => { g with run := r, waitPk := h.pk, resume := some ⟨ex, ex.headD 0⟩, issued := s.stamp })

/-- Write a predicate in the threads of EXEC that live. -/
def State.putPreds (s : State) (gk pd : Nat) (ex : List Nat) (b : Bool) : State :=
  ex.foldl (fun s t => s.modThread gk t (fun th => if th.st = .live then th.setPred pd b else th)) s

/-- A group waits in an instruction whose PCs stand at it: it goes past it, as an instruction that completes (01 R40, R45, 15
R410). -/
def State.leaveWait (s : State) (gk : Nat) (ex : List Nat) : State :=
  let g := s.group gk
  let s := s.modGroup gk (fun g => { g with run := .running, hbarTok := none })
  let s := s.advanceAll gk 8 (ex.filter (fun t => (g.thread t).st == .live))
  s.complete ⟨g.waitPk, .inherit, false, 7⟩ { key := gk, w := 0, size := 8, blk := 0, issuing := ex, ex := ex }

/-- The record of an outcome (15 Table 15.5, kind 0x05). -/
def State.logOutcome (s : State) (gk : Nat) (b : Bool) : State := s.logAppend gk 0x05 32 (if b then 1 else 0) []

/-- The record of the wait that a group is in: a DQPOP that takes none writes kind 0x07. -/
def State.logWait (s : State) (gk : Nat) (b : Bool) : State :=
  match (s.group gk).run with
  | .dqpop _ _ _ _ => if b then s else s.logAppend gk 0x07 32 0 []
  | _ => s.logOutcome gk b

/-- A later run's wait takes its record when it ends (09 R278). -/
def State.takeOutcome (s : State) (gk : Nat) : State :=
  if s.isRerun gk then
    match s.logNext gk [0x05] 32 with
    | some (_, s) => s
    | none => s
  else s

/-- End the wait of a group with an outcome: the predicate is written and the group goes past the instruction. -/
def State.endWait (s : State) (gk : Nat) (b : Bool) : State :=
  match (s.group gk).run.info with
  | none => s
  | some w => (((s.takeOutcome gk).logWait gk b).putPreds gk w.pd w.ex b).leaveWait gk w.ex

/-- The groups that wait in a run state of some kind, the longest waiting first. -/
def insertBy (f : Nat → Nat) (k : Nat) : List Nat → List Nat
  | [] => [k]
  | x :: xs => if f k < f x then k :: x :: xs else x :: insertBy f k xs
def State.waiting (s : State) (p : Group → Bool) : List Nat :=
  ((s.groups.filter (fun e => p e.2)).map (·.1)).foldl (fun l k => insertBy (fun k => (s.group k).issued) k l) []

/-- A wait that writes true is a progress beat (14 R396); a later run's BTRY, which has no deadline, is not. -/
def State.endTrue (s : State) (gk : Nat) : State :=
  let s := match (s.group gk).run with
    | .barrier _ _ _ _ 0 _ => s
    | _ => s.beat gk
  s.endWait gk true

/-- A trap that a parked wait takes: instruction-level, at the lowest thread of EXEC (09 R269). -/
def State.waitTrap (s : State) (gk code : Nat) : State :=
  let g := s.group gk
  match g.run.info with
  | none => s
  | some w =>
    let t := w.ex.headD 0
    let th := g.thread t
    let is : Issue := { key := gk, w := th.pc.toNat, size := 8, blk := th.blk.toNat, issuing := w.ex, ex := w.ex }
    (s.modGroup gk (fun g => { g with run := .running, resume := none })).takeTrap gk (Trap.atInstr code is)

/-! ## Wake events (04 R156) -/

/-- A wake event reaches a group: it ends a WAITEV with true, or it is kept. -/
def State.wakeGroup (s : State) (gk : Nat) : State :=
  match (s.group gk).run with
  | .event _ _ _ => s.endWait gk true
  | _ => s.modGroup gk (fun g => { g with wake := true })

def State.wakeTeam (s : State) (tk : Nat) : State := (s.team tk).groups.foldl State.wakeGroup s

/-- A queue or a deque of a core sees an operation: every group of the teams on the core is woken; a team that is saved out is on
none. -/
def State.wakeCore (s : State) (c : Nat) : State :=
  (s.teams.filter (fun e => e.2.core == c && e.2.resid.onCore)).foldl (fun s e => s.wakeTeam e.1) s

/-! ## Transaction barriers (09 Table 9.6) -/

structure Barrier where
  tx      : Int
  early   : Nat
  expect  : Nat
  pending : Nat
  resv    : Nat                 -- the reserved bits 47 to 2, which no barrier operation but BINI changes
  err     : Bool
  phase   : Nat
deriving DecidableEq, Repr

def Barrier.ofBytes (bs : List Byte) : Barrier :=
  let x := Word.ofBytes bs
  { tx := Word.toSigned 32 (Word.bits x 127 96), early := Word.bits x 95 80, expect := Word.bits x 79 64,
    pending := Word.bits x 63 48, resv := Word.bits x 47 2, err := Word.bit x 1, phase := x % 2 }

def Barrier.bytes (b : Barrier) : List Byte :=
  Word.toBytes 6 (b.phase + (if b.err then 2 else 0) + 4 * b.resv) ++ Word.toBytes 2 b.pending ++ Word.toBytes 2 b.expect
    ++ Word.toBytes 2 b.early ++ Word.toBytes 4 (Word.ofSigned 32 b.tx)

def State.barrier (s : State) (tk off : Nat) : Barrier := Barrier.ofBytes (fileRead (s.team tk).scratch off 16)
def State.setBarrier (s : State) (tk off : Nat) (b : Barrier) : State :=
  s.modTeam tk (fun tm => { tm with scratch := fileWrite tm.scratch off b.bytes false })

/-- FLIP of 09 R268; PENDING and EARLY are 16-bit fields. -/
def Barrier.flip (b : Barrier) : Barrier :=
  { b with phase := 1 - b.phase, pending := (b.expect + 65536 - b.early) % 65536, early := 0 }

/-- The condition of a flip (09 R267, R268). -/
def Barrier.full (b : Barrier) : Bool := b.pending = 0 && b.tx = 0

/-- The groups of a team that wait on the barrier at an offset. -/
def State.waitersOn (s : State) (tk off : Nat) : List Nat :=
  (s.team tk).groups.filter (fun gk => match (s.group gk).run with | .barrier o _ _ _ _ _ => o == off | _ => false)

def Given.none : Given := ⟨0, 0, 0, 0, 0⟩
/-- A phase has ended: the early arrivals are the new one's. -/
def Given.turn (g : Given) : Given := ⟨g.next, 0, 0, g.arr, g.tx⟩
def State.given (s : State) (tk off : Nat) : Given := kvGetD Given.none (s.team tk).given off
def State.modGiven (s : State) (tk off : Nat) (f : Given → Given) : State :=
  s.modTeam tk (fun tm => { tm with given := kvPut Given.none tm.given off (f (kvGetD Given.none tm.given off)) })

/-- An original notes what other teams gave to the phase that its wait sees over (09 R278; log 42). -/
def State.noteOver (s : State) (gk off : Nat) : State :=
  let g := s.group gk
  let tm := s.team g.team
  let x := s.given g.team off
  if tm.kind ≠ .original || (x.arr0 = 0 && x.tx0 = 0) then s
  else { s with sleeve := kvMod s.sleeve tm.sameAs (fun e => { e with overs := ⟨g.gid, g.seq, x.arr0, x.tx0⟩ :: e.overs }) }

/-- A barrier has flipped (09 R268): its waiters end true, each an acquire at team scope, and the team is woken. -/
def State.flipped (s : State) (tk off : Nat) : State :=
  let s := (s.waitersOn tk off).foldl (fun s gk => ((s.noteOver gk off).endTrue gk).acquire gk .team) s
  s.wakeTeam tk

/-- Write a barrier back, after FLIP if it is full. -/
def State.settleBarrier (s : State) (tk off : Nat) (b : Barrier) : State :=
  if b.full then ((s.modGiven tk off Given.turn).setBarrier tk off b.flip).flipped tk off else s.setBarrier tk off b

/-- A counted write of m bytes (09 R268), by a descriptor of the team itself or of another. -/
def State.barCount (s : State) (tk off m : Nat) (other : Bool) : State :=
  let b := s.barrier tk off
  let s := if other then s.modGiven tk off (fun g => { g with tx := g.tx - m }) else s
  s.settleBarrier tk off { b with tx := Word.toSigned 32 (Word.ofSigned 32 (b.tx - m)) }

/-- A descriptor that counts into a barrier is aborted (09 R260): ERR is set and its waiters trap BARRIER_ERROR (R269). -/
def State.barError (s : State) (tk off : Nat) : State :=
  let s := s.setBarrier tk off { s.barrier tk off with err := true }
  (s.waitersOn tk off).foldl (fun s gk => s.waitTrap gk 0x33) s

/-- Whether a barrier of a later run would be full with what the other teams gave to the phase that the original saw over at the same
instruction (09 R278; log 42). -/
def State.ownFull (s : State) (gk off : Nat) : Bool :=
  let g := s.group gk
  let b := s.barrier g.team off
  match (kvGet s.sleeve (s.team g.team).sameAs).bind (fun e => e.overs.find? (fun w => w.gid = g.gid && w.seq = g.seq)) with
  | some w => b.pending ≤ w.arr && b.tx + w.tx = 0
  | none => false

/-- The wait of a later run on a phase that its own contributions do not complete ends: the object stands as after a flip
(09 R278). -/
def State.forceFlip (s : State) (tk off : Nat) : State :=
  let b := s.barrier tk off
  (s.setBarrier tk off ({ b with tx := 0, pending := 0 } : Barrier).flip).flipped tk off

/-! ## Hardware barrier colours (09 R270, R271) -/

def State.gang (s : State) (k : Nat) : Gang := (kvGet s.gangs k).getD ⟨0, [], 0, []⟩
def State.modGang (s : State) (k : Nat) (f : Gang → Gang) : State := { s with gangs := kvMod s.gangs k f }
def State.colour (s : State) (gang k : Nat) : Colour := (s.gang gang).colours.getD k Colour.reset
def State.setColour (s : State) (gang k : Nat) (c : Colour) : State :=
  s.modGang gang (fun g => { g with colours := g.colours.set k c })

/-- Count an arrival (09 R271): the last one flips the colour; its waiters see the flip 40 cycles later. -/
def State.colourArrive (s : State) (gang k : Nat) : State :=
  let c := s.colour gang k
  if c.pending ≤ 1 then s.setColour gang k { c with phase := !c.phase, pending := c.expect, flips := c.flips ++ [s.cycle + 40] }
  else s.setColour gang k { c with pending := c.pending - 1 }

/-- A flip of a colour reaches a group that waits on it: the last that it needs ends the wait true, an acquire at gang scope. -/
def State.flipAt (s : State) (k gk : Nat) : State :=
  match (s.group gk).run with
  | .colour k' need pd ex d =>
    if k' ≠ k then s
    else if need ≤ 1 then (s.endTrue gk).acquire gk .gang
    else s.modGroup gk (fun g => { g with run := .colour k (need - 1) pd ex d })
  | _ => s

/-- The oldest flip of a colour becomes visible (09 R271): every waiter sees it, and the teams of its gang are woken (04 R156). -/
def State.colourSeen (s : State) (gang k : Nat) : State :=
  let c := s.colour gang k
  match c.flips with
  | [] => s
  | _ :: rest =>
    let s := s.setColour gang k { c with seen := !c.seen, flips := rest }
    let ms := (s.gang gang).members
    let s := (ms.flatMap (fun tk => (s.team tk).groups)).foldl (fun s gk => s.flipAt k gk) s
    ms.foldl State.wakeTeam s

end Sys2Proof.Machine
end

