-- ==== Sys2Proof/Machine/Once.lean ====
section
/-!
DEFINITION. What the group-once instructions share (04 R135, 09 R251, 11 R306): their operand checks, the reading of a source
once for the group, and the writing of a result once or in every thread of EXEC.
-/
namespace Sys2Proof.Machine
open Sys2Proof

/-- UNIFORM_SRC and REG_BOUND of a group-once instruction, for its sources and its destination with their sizes in words. -/
def onceCheck (s : State) (is : Issue) (d : Opnd × Nat) (srcs : List (Opnd × Nat)) : Option (Nat × Nat) :=
  let r := s.roleOf is.key
  if srcs.any (fun x => opVaries x.1) then some (0x06, 0)
  else if regOut r.vregs r.sregs d.1 d.2 || srcs.any (fun x => regOut r.vregs r.sregs x.1 x.2) then some (0x08, 0)
  else none

/-- No destination register. -/
def noDst : Opnd × Nat := (.z, 1)

/-- A source of n words, read once for the group. -/
def State.onceSrc (s : State) (is : Issue) (o : Opnd) (n : Nat) : Src := s.source is is.lowest o 0 n .w

/-- The threads that a result goes to: all of EXEC, or one writing for a uniform destination. -/
def onceDsts (is : Issue) (d : Opnd) : List Nat := if opIsUniform d then [is.lowest] else is.ex

/-- Write a result of n words (09 R251). -/
def State.oncePut (s : State) (is : Issue) (d : Opnd) (n x : Nat) : State :=
  (onceDsts is d).foldl (fun s t => s.putResult is.key t (.reg d n) x) s

/-- INDEX_BOUND of a v[xn] destination (01 R28): reported at the first thread that it concerns, before anything is done. -/
def State.onceIdx (s : State) (is : Issue) (d : Opnd) (n : Nat) : Option Nat :=
  is.ex.find? (fun t => idxOut (s.roleOf is.key).vregs ((s.group is.key).thread t) d n)

/-- Run a group-once body under the checks that its operands share: a v[xn] destination out of bounds traps; a poisoned source
kills every thread of EXEC (16 R449). -/
def onceBody (d : Opnd × Nat) (srcs : List (Opnd × Nat)) (body : Issue → List Nat → State → Ran) (is : Issue) (s : State) : Ran :=
  match s.onceIdx is d.1 d.2 with
  | some _ => .trap s (Trap.of 0x09 .thread is is.lowest 0)
  | none =>
    let vs := srcs.map (fun x => s.onceSrc is x.1 x.2)
    if vs.any (·.pois) then .done (s.killThreads is.key recPOISON is.ex)
    else body is (vs.map (·.val)) s

/-- A group-once instruction of a destination and sources. -/
def runOnceOf (h : Hdr) (size : Nat) (d : Opnd × Nat) (srcs : List (Opnd × Nat)) (body : Issue → List Nat → State → Ran) (s : State) : Out :=
  runOnce h size (fun s is => onceCheck s is d srcs) (onceBody d srcs body) s

/-- An instruction-level trap of a body. -/
def trapNow (s : State) (is : Issue) (code : Nat) : Ran := .trap s (Trap.atInstr code is)
def trapAt (s : State) (is : Issue) (code addr : Nat) : Ran := .trap s { Trap.atInstr code is with addr := addr }

/-- A later run ends where a trap ended its original, whatever state outside the run brought that about (16 R436). -/
def asEnded (s : State) (is : Issue) (k : State → Ran) : Ran :=
  match s.endedHere is.key with
  | some code => trapNow s is code
  | none => k s

/-- A later run takes the record of its instruction, or leaves the log (15 R412). -/
def withRecord (s : State) (is : Issue) (kinds : List Nat) (k : LogRec → State → Ran) : Ran :=
  asEnded s is (fun s =>
    match s.logNext is.key kinds 32 with
    | none => .diverge s
    | some (r, s) => k r s)

/-- A value that the original run reads outside and logs, and that a later run takes from its log (15 R411, R412). -/
def loggedValue (s : State) (is : Issue) (kind : Nat) (val : State → Nat × State) (k : Nat → State → Ran) : Ran :=
  if s.isRerun is.key then withRecord s is [kind] (fun r s => k r.value s)
  else
    let (x, s) := val s
    k x (s.logAppend is.key kind 32 x [])

/-- Complete with a result. -/
def putDone (is : Issue) (d : Opnd) (n x : Nat) (s : State) : Ran := .done ((s.oncePut is d n x).passAll is)
/-- Complete with a predicate. -/
def predDone (is : Issue) (pd : Nat) (b : Bool) (s : State) : Ran := .done ((s.putPreds is.key pd is.ex b).passAll is)

end Sys2Proof.Machine
end

