-- ==== Sys2Proof/Machine/Scratch.lean ====
section
/-!
DEFINITION. Scratch addresses (08 R220, R224) and the words of a team's scratch.
-/
namespace Sys2Proof.Machine
open Sys2Proof

/-- A scratch location: the team that holds it, the offset, the rank it was named by, and whether it is another team's. -/
structure ScrAt where
  tk     : Nat
  off    : Nat
  rank   : Nat
  remote : Bool
deriving DecidableEq, Repr

/-- The checks of a scratch address in the order of 08 R224: ACCESS, REMOTE_SCOPE, ALIGN. -/
def State.scrCheck (s : State) (tk addr n align : Nat) : Except Nat ScrAt :=
  let tm := s.team tk
  let a := addr % 2 ^ 32
  let off := a % 2 ^ 24
  let rank := a / 2 ^ 24
  if tm.scratchSize < off + n then .error 0x21
  else if rank ≠ 0xFF && rank ≠ tm.grank && (s.launch tm.kid).r.gang ≤ rank then .error 0x24
  else if a % align ≠ 0 then .error 0x22
  else if rank = 0xFF || rank = tm.grank then .ok ⟨tk, off, tm.grank, false⟩
  else .ok ⟨(s.gang tm.gang).members.getD rank 0, off, rank, true⟩

/-- The checks of an address that must be the team's own (09 R252, 11 R317): a remote one is out of scope. -/
def State.ownCheck (s : State) (tk addr n align : Nat) : Except Nat Nat :=
  let tm := s.team tk
  let a := addr % 2 ^ 32
  let rank := a / 2 ^ 24
  if tm.scratchSize < a % 2 ^ 24 + n then .error 0x21
  else if rank ≠ 0xFF && rank ≠ tm.grank then .error 0x24
  else if a % align ≠ 0 then .error 0x22
  else .ok (a % 2 ^ 24)

/-- Bytes of a team's scratch. -/
def State.scrRead (s : State) (tk off n : Nat) : List Byte := fileRead (s.team tk).scratch off n
def State.scrPois (s : State) (tk off n : Nat) : Bool := filePoisAny (s.team tk).scratch off n
def State.scrWrite (s : State) (tk off : Nat) (bs : List Byte) (pois : Bool) : State :=
  s.modTeam tk (fun tm => { tm with scratch := fileWrite tm.scratch off bs pois })

/-! ## Banks (12 R324, R325) -/

/-- The bank and the row of a scratch word. -/
def bankOf (w : Nat) : Nat := w % 37
def rowOf (w : Nat) : Nat := w / 37

/-- The words that n bytes at an offset use. -/
def scrWordsOf (off n : Nat) : List Nat := (List.range ((off + n + 3) / 4 - off / 4)).map (· + off / 4)

/-- Whether a cycle cannot serve a request: a bank of it is given to a different word, or 32 requests have been served. -/
def BankUse.refuses (u : BankUse) (ws : List Nat) : Bool :=
  32 ≤ u.served || ws.any (fun w => u.words.any (fun e => e.1 == bankOf w && e.2 ≠ w))

def BankUse.give (u : BankUse) (rank : Nat) (ws : List Nat) : BankUse :=
  { u with words := u.words ++ (ws.filter (fun w => !u.words.contains (bankOf w, w))).map (fun w => (bankOf w, w)), served := u.served + 1, last := max u.last rank }

def useAt (us : List BankUse) (cycle : Nat) : BankUse := (us.find? (fun u => u.cycle == cycle)).getD ⟨cycle, [], 0, 0, false⟩
def putUse (us : List BankUse) (u : BankUse) : List BankUse := u :: us.filter (fun x => x.cycle ≠ u.cycle)

/-- Serve a request from a cycle on: the cycle that serves it, the cycles newly counted as held over, and the record.  Held-over requests
have rank 0, then come the lanes in ascending order, remote requests and engines; one that comes after a later rank of its cycle has been
considered is considered in the next (log 39). -/
def serveFrom : Nat → Nat → List Nat → Nat → Nat → List BankUse → Nat × Nat × List BankUse
  | 0, _, _, cycle, n, us => (cycle, n, us)
  | fuel + 1, rank, ws, cycle, n, us =>
    let u := useAt us cycle
    if rank < u.last && rank ≠ 0 then serveFrom fuel rank ws (cycle + 1) n us
    else if u.refuses ws then
      serveFrom fuel 0 ws (cycle + 1) (if u.heldOver then n else n + 1) (putUse us { u with heldOver := true, last := max u.last rank })
    else (cycle, n, putUse us (u.give rank ws))

def rankLane (lane : Nat) : Nat := 1 + lane
def rankRemote : Nat := 33
def rankEngine : Nat := 34

/-- A request at a core's scratchpad for words, considered from a cycle on: the cycle that serves it.  The extra cycles count in the completion
report of the launch that asks. -/
def State.scrRequest (s : State) (core kid rank : Nat) (ws : List Nat) (cycle : Nat) : Nat × State :=
  let us := (s.core core).banks.filter (fun u => s.cycle ≤ u.cycle)
  let (c, n, us) := serveFrom (us.length + 1) rank ws cycle 0 us
  let s := s.modCore core (fun k => { k with banks := us })
  (c, if n = 0 then s else s.modLaunch kid (fun l => { l with conflict := l.conflict + n }))

/-- The requests of an engine for n bytes of a team's scratch, 16 aligned bytes each (12 R323). -/
def State.scrEngine (s : State) (tk off n : Nat) : State :=
  (List.range ((off + n + 15) / 16 - off / 16)).foldl (fun s i =>
    let lo := max off (16 * (off / 16 + i))
    let hi := min (off + n) (16 * (off / 16 + i) + 16)
    (s.scrRequest (s.team tk).core (s.team tk).kid rankEngine (scrWordsOf lo (hi - lo)) s.cycle).2) s

end Sys2Proof.Machine
end

