-- ==== Sys2Proof/Machine/Barriers.lean ====
section
/-!
DEFINITION. Transaction barriers and hardware barrier colours (09 R265 to R271, R278).
-/
namespace Sys2Proof.Machine
open Sys2Proof

/-- Begin as a release at a scope: the group waits until it may be performed (12 R338). -/
def releasing (s : State) (is : Issue) (sc : Scope) (k : State → Ran) : Ran :=
  if s.releaseReady is.key sc then k (s.release is.key sc)
  else .held (s.modGroup is.key (fun g => { g with run := .release })) is.lowest

/-- Complete with a predicate that says true: an outcome that is logged, a beat, an acquire. -/
def outcomeTrue (is : Issue) (pd : Nat) (beat : Bool) (sc : Scope) (s : State) : Ran :=
  let s := if beat then s.beat is.key else s
  .done ((((s.logOutcome is.key true).putPreds is.key pd is.ex true).passAll is).acquire is.key sc)

def outcomeFalse (is : Issue) (pd : Nat) (s : State) : Ran := predDone is pd false (s.logOutcome is.key false)

/-! ## Transaction barriers -/

/-- The scratch address of the team's own barrier (09 R252). -/
def ownBarrier (s : State) (is : Issue) (addr : Nat) (k : Nat → Nat → State → Ran) : Ran :=
  let tk := (s.group is.key).team
  match s.ownCheck tk addr 16 16 with
  | .error c => trapAt s is c addr
  | .ok off => k tk off s

/-- BINI [a], b (09 R266). -/
def execBini (f : F3) (s : State) : Out :=
  runOnceOf f.h 8 noDst [(f.a, 1), (f.b, 1)] (fun is vs s =>
    ownBarrier s is (argN vs 0) (fun tk off s =>
      let b := argN vs 1
      if b = 0 || 65535 < b then trapNow s is 0x02
      else
        let s := s.modGiven tk off (fun _ => Given.none)
        .done ((s.setBarrier tk off { tx := 0, early := 0, expect := b, pending := b, resv := 0, err := false, phase := 0 }).passAll is))) s

/-- An arrival's counts: n arrivals for a phase (2 the current one), and bytes that it adds (09 R267). -/
structure Arrival where
  n     : Nat
  phase : Nat
  bytes : Option Nat
deriving DecidableEq, Repr

/-- The update of an arrival (09 R267): the object, whether it flipped, the token; or BARRIER_OVERRUN. -/
def Barrier.arrive (b : Barrier) (a : Arrival) : Option (Barrier × Bool × Nat) :=
  let x := if b.full then b.flip else b
  let tgt := if a.bytes.isSome || a.phase = 2 then x.phase else a.phase
  let add : Int := (a.bytes.getD 0 : Nat)
  let y : Option Barrier :=
    if tgt = x.phase then
      if x.pending < a.n || (a.bytes.isSome && (2 ^ 31 - 1 : Int) < x.tx + add) then none
      else some { x with pending := x.pending - a.n, tx := x.tx + add }
    else if x.expect < x.early + a.n then none
    else some { x with early := x.early + a.n }
  y.map (fun y => if y.full then (y.flip, true, tgt) else (y, b.full, tgt))

/-- What an arrival of another team adds to what others have given. -/
def Given.add (g : Given) (a : Arrival) (now : Bool) : Given :=
  if now then { g with arr := g.arr + a.n, tx := g.tx + (a.bytes.getD 0 : Nat) } else { g with next := g.next + a.n }

/-- An arrival at an object of a team's scratch, of the team itself or of another. -/
def State.arriveAt (s : State) (tk off : Nat) (a : Arrival) (other : Bool) : Option (Nat × State) :=
  let b := s.barrier tk off
  (b.arrive a).map (fun r =>
    let s := if b.full then s.modGiven tk off Given.turn else s
    let phase := if b.full then b.flip.phase else b.phase
    let s := if other then s.modGiven tk off (fun g => g.add a (r.2.2 = phase)) else s
    let s := if r.1.phase ≠ phase then s.modGiven tk off Given.turn else s
    let s := s.setBarrier tk off r.1
    (r.2.2, if r.2.1 then s.flipped tk off else s))

/-- BARV and BARX (09 R267).  A remote arrival is an event of the signature; later runs suppress it and take the logged token. -/
def arriveBody (f : F3) (addr : Nat) (a : Arrival) (ev : SigEvent) (is : Issue) (s : State) : Ran :=
  let gk := is.key
  let tk := (s.group gk).team
  match s.scrCheck tk addr 16 16 with
  | .error c => trapAt s is c addr
  | .ok p =>
    if a.bytes.isNone && (a.n = 0 || 65535 < a.n) then trapNow s is 0x02
    else if p.remote && s.isRerun gk then
      let s := s.fold tk { ev with addr := BitVec.ofNat 64 (remoteForm p.rank p.off) }
      if f.d = .z then asEnded s is (fun s => .done (s.passAll is)) else withRecord s is [0x08] (fun r s => putDone is f.d 1 r.value s)
    else
      releasing s is (if p.remote then .gang else .team) (fun v =>
        match v.arriveAt p.tk p.off a p.remote with
        | none => trapNow s is 0x32
        | some (tok, s) =>
          let s := if p.remote then s.fold tk { ev with addr := BitVec.ofNat 64 (remoteForm p.rank p.off) } else s
          putDone is f.d 1 tok (if p.remote && f.d ≠ .z then s.logAppend gk 0x08 32 tok [] else s))

def arriveEvent (opc b c : Nat) : SigEvent :=
  { kind := 0x07, mask := 0, aux := opc, addr := 0, d0 := BitVec.ofNat 64 b, d1 := BitVec.ofNat 64 c }

def execBarv (f : F3) (s : State) : Out :=
  let c := constVal .w f.c
  runOnceOf f.h 8 (f.d, 1) [(f.a, 1), (f.b, 1)] (fun is vs s =>
    arriveBody f (argN vs 0) ⟨argN vs 1, c, none⟩ (arriveEvent 0x1B7 (argN vs 1) c) is s) s

def execBarx (f : F3) (s : State) : Out :=
  runOnceOf f.h 8 (f.d, 1) [(f.a, 1), (f.b, 1)] (fun is vs s =>
    arriveBody f (argN vs 0) ⟨1, 2, some (argN vs 1)⟩ (arriveEvent 0x1B8 (argN vs 1) 0) is s) s

/-- Apply the flip of a phase that began complete (09 R267, R269). -/
def State.zeroStart (s : State) (tk off : Nat) : State := s.settleBarrier tk off (s.barrier tk off)

/-- The test of BWAIT and BTRY (09 R269): whether the phase of a token has ended. -/
def phaseOver (s : State) (tk off tok : Nat) : Bool := (s.barrier tk off).phase ≠ tok % 2

/-- BWAIT and BTRY (09 R269).  A later run whose logged outcome is true waits for its own contributions only (R278). -/
def waitBody (h : Hdr) (pd tok : Nat) (timeout : Option Nat) (is : Issue) (tk off : Nat) (s : State) : Ran :=
  let gk := is.key
  let park (later : Bool) (d : Nat) (s : State) : Ran := .held (s.parkIn h gk is.ex (.barrier off tok pd is.ex d later)) is.lowest
  if (s.barrier tk off).err then trapNow s is 0x33
  else
    let s := s.zeroStart tk off
    if s.isRerun gk then
      withRecord s is [0x05] (fun r s1 =>
        if r.value % 2 = 0 then predDone is pd false s1
        else if phaseOver s tk off tok then outcomeTrue is pd timeout.isSome .team s1
        else if s.ownFull gk off then outcomeTrue is pd timeout.isSome .team (s1.forceFlip tk off)
        else park true (match timeout with | some t => s.cycle + t + 1 | none => 0) s)
    else if phaseOver s tk off tok then outcomeTrue is pd timeout.isSome .team (s.noteOver gk off)
    else
      match timeout with
      | some (t + 1) => park false (s.cycle + t + 1) s
      | _ => outcomeFalse is pd s

def execBwait (f : F3) (s : State) : Out :=
  runOnceOf f.h 8 noDst [(f.a, 1), (f.b, 1), (f.c, 1)] (fun is vs s =>
    ownBarrier s is (argN vs 0) (fun tk off s => waitBody f.h (opNum f.d) (argN vs 1) (some (argN vs 2)) is tk off s)) s

def execBtry (f : F3) (s : State) : Out :=
  runOnceOf f.h 8 noDst [(f.a, 1), (f.b, 1)] (fun is vs s =>
    ownBarrier s is (argN vs 0) (fun tk off s => waitBody f.h (opNum f.d) (argN vs 1) none is tk off s)) s

/-! ## Colours -/

/-- The colour of a constant operand, granted by the launch record, or ACCESS (09 R270). -/
def withColour (s : State) (is : Issue) (a : Opnd) (k : Nat → Nat → State → Ran) : Ran :=
  let c := constVal .w a
  if (s.launchOf is.key).r.colours ≤ c then trapNow s is 0x21 else k (s.teamOf is.key).gang c s

/-- HBCFG a, b (09 R271); no effect in a later run. -/
def execHbcfg (f : F3) (s : State) : Out :=
  runOnceOf f.h 8 noDst [(f.b, 1)] (fun is vs s =>
    withColour s is f.a (fun g k s =>
      let b := argN vs 0
      let c := s.colour g k
      if b = 0 || 3072 < b then trapNow s is 0x02
      else if s.isRerun is.key then asEnded s is (fun s => .done (s.passAll is))
      else if c.cfg && c.pending ≠ c.expect then trapNow s is 0x32
      else .done ((s.setColour g k { cfg := true, phase := false, expect := b, pending := b, seen := c.flips.length % 2 = 1, flips := c.flips }).passAll is))) s

def boolNat (b : Bool) : Nat := if b then 1 else 0

/-- The flips that a waiter on a token has still to see (09 R271): all that are on their way, and the one that ends the token's phase if
that phase has not ended. -/
def Colour.need (c : Colour) (tok : Nat) : Nat := c.flips.length + (if boolNat c.phase = tok % 2 then 1 else 0)

/-- Wait until PHASE is seen to differ from a token (09 R271). -/
def colourWait (h : Hdr) (pd g k tok timeout : Nat) (is : Issue) (s : State) : Ran :=
  let need := (s.colour g k).need tok
  let ended := s.modGroup is.key (fun g => { g with hbarTok := none })
  if need = 0 then outcomeTrue is pd true .gang ended
  else if timeout = 0 then outcomeFalse is pd ended
  else .held (s.parkIn h is.key is.ex (.colour k need pd is.ex (s.cycle + timeout))) is.lowest

/-- A later run takes the outcome of a colour wait from its log and does not wait (09 Table 9.11, 15 R416). -/
def loggedWait (pd : Nat) (is : Issue) (s : State) : Ran :=
  withRecord s is [0x05] (fun r s =>
    if r.value % 2 = 1 then outcomeTrue is pd true .gang s else predDone is pd false s)

/-- HBAR pd, a, c: an arrival and a wait on its token; the arrival is not made again when a pre-emption has the instruction executed
again. -/
def execHbar (f : F3) (s : State) : Out :=
  runOnceOf f.h 8 noDst [(f.c, 1)] (fun is vs s =>
    withColour s is f.a (fun g k s =>
      let gk := is.key
      let pd := opNum f.d
      if s.isRerun gk then loggedWait pd is s
      else if !(s.colour g k).cfg then trapNow s is 0x33
      else
        match (s.group gk).hbarTok with
        | some tok => colourWait f.h pd g k tok (argN vs 0) is s
        | none =>
          releasing s is .gang (fun s =>
            let tok := boolNat (s.colour g k).phase
            let s := (s.colourArrive g k).modGroup gk (fun g => { g with hbarTok := some tok })
            colourWait f.h pd g k tok (argN vs 0) is s))) s

/-- HBARA d, a. -/
def execHbara (f : F3) (s : State) : Out :=
  runOnceOf f.h 8 (f.d, 1) [] (fun is _ s =>
    withColour s is f.a (fun g k s =>
      let gk := is.key
      if s.isRerun gk then
        if f.d = .z then asEnded s is (fun s => .done (s.passAll is)) else withRecord s is [0x08] (fun r s => putDone is f.d 1 r.value s)
      else if !(s.colour g k).cfg then trapNow s is 0x33
      else
        releasing s is .gang (fun s =>
          let tok := boolNat (s.colour g k).phase
          let s := s.colourArrive g k
          putDone is f.d 1 tok (if f.d = .z then s else s.logAppend gk 0x08 32 tok [])))) s

/-- HBARW pd, a, b, c. -/
def execHbarw (f : F3) (s : State) : Out :=
  runOnceOf f.h 8 noDst [(f.b, 1), (f.c, 1)] (fun is vs s =>
    withColour s is f.a (fun g k s =>
      let pd := opNum f.d
      if s.isRerun is.key then loggedWait pd is s
      else colourWait f.h pd g k (argN vs 0) (argN vs 1) is s)) s

end Sys2Proof.Machine
end

