-- ==== Sys2Proof/Machine/Converge.lean ====
section
/-!
DEFINITION. Convergence registers: CSET, SIGN, and the signatures of MMA and MMAS (09 R274, R275; 10 R292).
-/
namespace Sys2Proof.Machine
open Sys2Proof

def State.quadOfGroup (s : State) (gk : Nat) : Nat := Config.quadOf (s.coreOf gk)

/-- CSET a, b (09 R274). -/
def execCset (f : F3) (s : State) : Out :=
  let n := constVal .w f.a
  runOnceOf f.h 8 noDst [(f.b, 1)] (fun is vs s =>
    let tk := (s.group is.key).team
    let q := s.quadOfGroup is.key
    let c := kvGet (s.quad q).conv n
    let groups := s.convGroups tk (argN vs 0)
    let expect := (groups.map (fun gk => (s.group gk).live.length)).sum
    if (match c with | some c => decide (c.owner ≠ tk) | none => false) then trapNow s is 0x21
    else if (match c with | some c => !c.signed.isEmpty | none => false) then trapNow s is 0x32
    else
      .done ((s.modQuad q (fun k =>
        { k with conv := if groups.isEmpty then kvDel k.conv n
                         else kvSet k.conv n { owner := tk, members := maskOf (groups.map (fun gk => (s.group gk).gid)), expect := expect,
                                               lower := 0, signed := [], op := none } })).passAll is)) s

/-- What an MMA records with the first signature of a round (10 R292). -/
abbrev SignOp := F3 × DWord × Bool × Cls × MmaOp

/-- One thread signs (09 R275); the first MMA signer's operands are recorded. -/
def State.signOne (s : State) (q n gk t : Nat) (op : Option SignOp) : State :=
  match kvGet (s.quad q).conv n with
  | none => s
  | some c =>
    let c := { c with signed := c.signed ++ [(gk, t)], op := match c.op with | some o => some o | none => op }
    (s.modQuad q (fun k => { k with conv := kvSet k.conv n c })).convClose q n gk

/-- Whether a thread's own register that an MMAS reads for its metadata address is out of bounds, or poisoned (01 R28, R54). -/
def signIdx (s : State) (is : Issue) (c : Opnd) (t : Nat) : Bool := idxOut (s.roleOf is.key).vregs ((s.group is.key).thread t) c 1
def signPois (s : State) (is : Issue) (c : Opnd) (t : Nat) : Bool := (s.source is t c 0 1 .w).pois

/-- A signing thread's turn: its register number is compared under its class (09 R277). -/
def signTurn (q n : Nat) (c : Opnd) (op : Option SignOp) (pcl : Cls) (is : Issue) (t : Nat) (s : State) : TOut :=
  let go (s : State) : TOut := .ok ((s.signOne q n is.key t op).pass is t)
  if signIdx s is c t then .trap s 0x09 0
  else if signPois s is c t then .die s recPOISON
  else
    match s.verdict (s.effClass is pcl .control) t with
    | .split => .split s
    | .corrected => go (s.noteCorrected is.key t)
    | _ => go s

/-- What the first thread that signs records: the fields are compared and the operands checked before any thread signs (10 R292). -/
def signOps (s : State) (is : Issue) (c : Opnd) (ops : Nat → Except (Nat × Nat) (Option SignOp)) : Except (Nat × Nat) (Option SignOp) :=
  match is.ex.find? (fun t => !signIdx s is c t && !signPois s is c t) with
  | some t => ops t
  | none => .ok none

/-- The signatures of an instruction on cN: MMA_MISMATCH; each is a release at team scope; an instruction one of whose threads has
signed the open round waits (09 R275); `ops` gives what is recorded by a first signer, or the trap code and address of its check (10
R286, R292); `c` is the operand that each thread reads. -/
def signBody (n : Nat) (c : Opnd) (ops : ConvReg → State → Nat → Except (Nat × Nat) (Option SignOp)) (pcl : Cls) (is : Issue) (s : State) : Ran :=
  let gk := is.key
  let q := s.quadOfGroup gk
  match kvGet (s.quad q).conv n with
  | none => trapNow s is 0x43
  | some r =>
    if r.owner ≠ (s.group gk).team || !r.members.testBit (s.group gk).gid then trapNow s is 0x43
    else if is.ex.any (fun t => r.signed.contains (gk, t)) then .held (s.modGroup gk (fun g => { g with run := .room })) is.lowest
    else
      releasing s is .team (fun v =>
        match signOps s is c (ops r s) with
        | .error e => trapAt s is e.1 e.2
        | .ok op => runThreads is (signTurn q n c op pcl is) is.ex s.env.cut v)

/-- SIGN a (09 R275). -/
def execSign (f : F3) (s : State) : Out :=
  runInstr f.h 8 (fun _ _ => none) (fun s is => signBody (constVal .w f.a) .z (fun _ _ _ => .ok none) f.h.pcl is s) s

end Sys2Proof.Machine
end

