-- ==== Sys2Proof/Machine/Apron.lean ====
section
/-!
DEFINITION. The Apron (15 R421 to R426): what a team of a checked kernel reads, where its stores go, and how versions leave.
-/
namespace Sys2Proof.Machine
open Sys2Proof

/-- Whether a Sleeve entry's team is resolved (15 R418); a freed entry is. -/
def State.resolved (s : State) (entry : Nat) : Bool :=
  match kvGet s.sleeve entry with
  | none => true
  | some e => match e.st with | .checked | .repaired | .unstable | .unchk => true | _ => false

/-- Whether the stores of a team's run are held (15 R422, Table 15.10); those of a later run always go into its overlay
(R416). -/
def State.holds (s : State) (tk : Nat) : Bool :=
  let tm := s.team tk
  let l := s.launch tm.kid
  tm.kind ≠ .original
    || (l.checked && (match l.r.hold with | .all => true | .sampled => tm.chk.sampled || tm.chk.tainted | .none => false))

def kindOfRun : RunKind → VKind | .original => .original | .replay => .replay | .auth => .auth

/-! ## Composing a line -/

/-- One byte as a team reads it: its value, its poison, and the Sleeve entries of the versions it comes from. -/
structure Seen where
  b    : Byte
  pois : Bool
  from_ : List Nat
deriving DecidableEq, Repr

/-- A line on its way through the chain, with contributions not yet folded into it. -/
structure Composed where
  cells : List Seen
  acc   : Option (RedTag × Slots × List Nat)
deriving DecidableEq, Repr

def seenAt (cs : List Seen) (o : Nat) : Seen := cs.getD o ⟨0, false, []⟩
def seenVal (cs : List Seen) (o n : Nat) : Nat := Word.ofBytes ((List.range n).map (fun i => (seenAt cs (o + i)).b))

/-- Fold the waiting contributions into the line (13 R370). -/
def Composed.fold (c : Composed) : Composed :=
  match c.acc with
  | none => c
  | some (t, ss, fr) =>
    { acc := none
      cells := ss.foldl (fun cs e =>
        let v := Word.toBytes t.size (t.final (seenVal cs e.1 t.size) (some e.2))
        (List.range t.size).foldl (fun cs i =>
          let x := seenAt cs (e.1 + i)
          cs.set (e.1 + i) ⟨v.getD i 0, x.pois || e.2.pois, fr ++ x.from_⟩) cs) c.cells }

/-- Pass one version of the chain. -/
def Composed.pass (c : Composed) (v : Version) : Composed :=
  let c := if v.bytes.isEmpty then c else
    let c := c.fold
    { c with cells := v.bytes.foldl (fun cs e => cs.set e.1 ⟨e.2, v.pois.contains (e.1 / 16), [v.entry]⟩) c.cells }
  v.parts.foldl (fun c p =>
    match c.acc with
    | some (t, ss, fr) => if t = p.1 then { c with acc := some (t, t.merge ss p.2, fr ++ [v.entry]) }
                          else { c.fold with acc := some (p.1, p.2, [v.entry]) }
    | none => { c with acc := some (p.1, p.2, [v.entry]) }) c

/-- The versions of a line that a team's run reads, oldest first (15 R416, R423). -/
def State.visible (s : State) (tk line : Nat) : List Version :=
  let tm := s.team tk
  let base := s.apron.filter (fun v => v.line == line && v.kid == tm.kid && (v.kind == .original || v.kind == .partialV))
  if tm.kind = .original then base
  else base.filter (fun v => v.entry ≠ tm.sameAs) ++ s.apron.filter (fun v => v.line == line && v.owner == tk && v.kind == kindOfRun tm.kind)

/-- The cells of a line with the versions of a chain over them. -/
def composeOn (vs : List Version) (cells : List Seen) : List Seen := ((vs.foldl Composed.pass { cells := cells, acc := none }).fold).cells

/-- The line as a team's run reads it; the line must be in I, S or M. -/
def State.composed (s : State) (tk line : Nat) : List Seen :=
  composeOn (s.visible tk line) ((List.range 64).map (fun o => ⟨s.memByte (64 * line + o), s.memPois (64 * line + o) 1, []⟩))

/-- The number under which a held store to host or peer memory is kept: peer lines and host lines lie above every line of the device map
(12 R352; log 38). -/
def outLine (host : Bool) (pa : Nat) : Nat := if host then 2 ^ 58 + pa / 64 else pa / 64
def isOutLine (line : Nat) : Bool := 2 ^ 50 ≤ line
def outIsHost (line : Nat) : Bool := 2 ^ 58 ≤ line
def outAddr (line : Nat) : Nat := 64 * (if outIsHost line then line - 2 ^ 58 else line)

/-- Add producers to a team (15 R423): none if there would be a ninth. -/
def State.addProducers (s : State) (tk : Nat) (ps : List Nat) : Option State :=
  let tm := s.team tk
  let new := (ps.filter (fun p => p ≠ tm.sameAs && !s.resolved p && !tm.chk.producers.contains p)).foldl setInsert []
  let open_ := tm.chk.producers.filter (fun p => !s.resolved p)
  if new.isEmpty then some s
  else if 8 < open_.length + new.length then none
  else some (s.modTeam tk (fun tm => { tm with chk := { tm.chk with producers := tm.chk.producers ++ new } }))

/-- A read of device memory by a team of a checked launch; none means that it waits (15 R423). -/
def State.heldRead (s : State) (tk pa n : Nat) (u : L2Use := .hit) : Option (List Seen × State) :=
  let s := (linesOf pa n).foldl (fun s l => (s.settle l).l2Touch l u) s
  let cells := (List.range n).map (fun i => seenAt (s.composed tk ((pa + i) / 64)) ((pa + i) % 64))
  (s.addProducers tk (cells.flatMap (·.from_))).map (fun s => (cells, s))

/-- A read of host or peer memory by a team, over what the teams of its checked launch hold there (12 R352). -/
def State.outRead (s : State) (tk : Nat) (host : Bool) (pa n : Nat) : Option (List Seen × State) :=
  let (rd, s) := physRead s host pa n
  let plain (i : Nat) : Seen := ⟨rd.bytes.getD i 0, rd.pois, []⟩
  if !(s.launch (s.team tk).kid).checked then some ((List.range n).map plain, s)
  else
    let at_ (i : Nat) : Seen :=
      seenAt (composeOn (s.visible tk (outLine host (pa + i))) ((List.range 64).map (fun o => plain (i + o - (pa + i) % 64)))) ((pa + i) % 64)
    let cells := (List.range n).map at_
    (s.addProducers tk (cells.flatMap (·.from_))).map (fun s => (cells, s))

/-! ## Capacity and release -/

/-- Versions that a slice holds: 4 MiB in 16 ways make 4096 sets (00 Table 0.1, 12 R331). -/
def State.apronFull (s : State) (line : Nat) : Bool :=
  !isOutLine line
    && 4096 * apronWays s.devMode ≤ (s.apron.filter (fun v => !isOutLine v.line && homeSlice (64 * v.line) = homeSlice (64 * line))).length

/-- A write that is discarded is counted and recorded (08 R245, 16 R442, 17 R484). -/
def State.lostStore (s : State) (tk va code : Nat) : State :=
  let s := if (s.team tk).kind = .original then s.modLaunch (s.team tk).kid (fun l => { l with lostSt := l.lostSt + 1 }) else s
  s.raise (some tk) { ErrRec.ofTeam s tk recLOST_STORE 2 with code := code, addr := va, detail := 1 }

/-- The runs of consecutive bytes of a list of bytes by offset. -/
def runsOf : List (Nat × Byte) → List (Nat × List Byte)
  | [] => []
  | (k, b) :: rest =>
    match runsOf rest with
    | (k', bs) :: more => if k' = k + 1 then (k, b :: bs) :: more else (k, [b]) :: (k', bs) :: more
    | [] => [(k, [b])]

/-- A held store to host or peer memory leaves (12 R352, R353). -/
def State.writeOut (s : State) (v : Version) : State :=
  (runsOf v.bytes).foldl (fun s r =>
    let a := outAddr v.line + r.1
    let (refused, s) := physWrite s (outIsHost v.line) a r.2 false
    if refused then s.lostStore v.owner a 0 else s) s

/-- Write the held bytes of a version into the line: chunk by chunk, a whole chunk in one write (15 R424, 16 R446); its held partials go to
the home as REG followed by FLUSH (13 R370), for which no merge unit waits. -/
def State.writeVersion (s : State) (v : Version) : State :=
  if isOutLine v.line then s.writeOut v else
  let cl := Config.clusterOf (s.team v.owner).core
  let s := [0, 1, 2, 3].foldl (fun s c =>
    let here := v.bytes.filter (fun e => e.1 / 16 == c)
    let p := v.pois.contains c
    if here.length = 16 then s.rawWrite (64 * v.line + 16 * c) (here.map (·.2)) p
    else here.foldl (fun s e => s.rawWrite (64 * v.line + e.1) [e.2] p) s) s
  v.parts.foldl (fun s p => (s.homeTake v.line (.reg cl p.1 false)).homeTake v.line (.flush cl p.1 p.2 false)) s

def State.dropVersion (s : State) (v : Version) : State := { s with apron := s.apron.erase v }

/-- What an older version of a line still holds once a newer one has been written beneath it (15 R426, chain order). -/
def Version.under (o v : Version) : Version :=
  let hit (a n : Nat) : Bool := v.bytes.any (fun e => a ≤ e.1 && e.1 < a + n)
  { o with bytes := o.bytes.filter (fun e => !hit e.1 1)
           parts := (o.parts.map (fun p => (p.1, p.2.filter (fun e => !hit e.1 p.1.size)))).filter (fun p => !p.2.isEmpty) }

/-- The chain without a version, the older ones of its line without the bytes that it has written. -/
def withoutVersion (v : Version) : List Version → List Version
  | [] => []
  | o :: os => if o = v then os else (if o.line = v.line then o.under v else o) :: withoutVersion v os

/-- Release a version unchecked (15 R426): it enters L2, its launch's UNCHECKED counts its team, and a record says so. -/
def State.releaseUnchecked (s : State) (v : Version) : State :=
  let tm := s.team v.owner
  let s := ({ s with apron := withoutVersion v s.apron } : State).writeVersion v
  let s := if tm.chk.released then s else s.modLaunch v.kid (fun l => { l with unchecked := l.unchecked + 1 })
  let s := s.modTeam v.owner (fun tm => { tm with chk := { tm.chk with released := true } })
  let out := isOutLine v.line
  (s.count 7).raise none { ErrRec.device s recAPRON_FORCED 4 (if out then 4 else homeDie (64 * v.line)) with
    addr := if out then outAddr v.line else 64 * v.line, kid := v.kid, team := tm.tid, tenant := (s.launch v.kid).r.tenant }

/-- The oldest version of a line's slice that is nobody's overlay. -/
def State.oldestVersion (s : State) (line : Nat) : Option Version :=
  s.apron.find? (fun v => !isOutLine v.line && homeSlice (64 * v.line) = homeSlice (64 * line) && (v.kind == .original || v.kind == .partialV))

/-! ## Held writes -/

/-- Whether a version covers some of the bytes [o, o+n) of its line. -/
def Version.covers (v : Version) (o n : Nat) : Bool :=
  v.bytes.any (fun e => o ≤ e.1 && e.1 < o + n)
    || v.parts.any (fun p => p.2.any (fun e => e.1 < o + n && o < e.1 + p.1.size))

/-- Whether the write of a team of a checked launch to the bytes [o, o+n) of a line is held: its stores are, or a version of the launch holds
some of the bytes, beneath which the write must not go (12 R335; log 38). -/
def State.mustHold (s : State) (tk line o n : Nat) : Bool :=
  s.holds tk || s.apron.any (fun v => v.line == line && v.kid == (s.team tk).kid && (v.kind == .original || v.kind == .partialV) && v.covers o n)

/-- A store of a team of a checked launch has not been held (15 R425). -/
def State.noteUnheld (s : State) (tk : Nat) : State :=
  if (s.launch (s.team tk).kid).checked then s.modTeam tk (fun tm => { tm with chk := { tm.chk with unheld := true } }) else s

/-- A team's version of a line (15 R422). -/
def State.versionFor (s : State) (tk : Nat) (kind : VKind) (line : Nat) : Option Version :=
  s.apron.find? (fun v => v.line == line && v.owner == tk && v.kind == kind)

/-- Room for a version: there is one already, or the slice has a free way, or the policy releases its oldest version; none means that the
group parks (15 Table 15.11), as one of a later run always does (15 R416). -/
def State.versionRoom (s : State) (tk : Nat) (kind : VKind) (line : Nat) : Option State :=
  if (s.versionFor tk kind line).isSome || !s.apronFull line then some s
  else if (s.launch (s.team tk).kid).r.release = .pressure && (s.team tk).kind == .original then (s.oldestVersion line).map s.releaseUnchecked
  else none

def Version.fresh (s : State) (tk : Nat) (kind : VKind) (line : Nat) : Version :=
  { line := line, kind := kind, kid := (s.team tk).kid, owner := tk, entry := (s.team tk).sameAs, bytes := [], pois := [], parts := [], rel := false }

/-- Change a team's version of a line, or make one at the end of its chain; a release marks it (15 R424). -/
def State.putVersion (s : State) (tk : Nat) (kind : VKind) (line : Nat) (f : Version → Version) : State :=
  let g (v : Version) : Version := { f v with rel := v.rel || s.env.rel }
  match s.versionFor tk kind line with
  | some v => { s with apron := s.apron.map (fun w => if w = v then g v else w) }
  | none => { s with apron := s.apron ++ [g (Version.fresh s tk kind line)] }

/-- Poison marks of the chunks of a line after a write of n bytes at o (16 R446). -/
def chunkPois (m : List Nat) (o n : Nat) (pois : Bool) : List Nat :=
  (List.range ((o + n + 15) / 16 - o / 16)).foldl (fun m i =>
    let c := o / 16 + i
    if pois then setInsert m c else if o ≤ 16 * c && 16 * c + 16 ≤ o + n then setRemove m c else m) m

/-- Put bytes, each with its poison, into a team's version of a line. -/
def State.holdCells (s : State) (tk line : Nat) (cs : List (Nat × Seen)) : State :=
  s.putVersion tk (kindOfRun (s.team tk).kind) line (fun v =>
    { v with bytes := cs.foldl (fun m c => kvSet m c.1 c.2.b) v.bytes
             pois := cs.foldl (fun m c => if c.2.pois then setInsert m (c.1 / 16) else m) v.pois })

/-- Whether a contribution of a tag at an offset partHits the bytes [o, o+n). -/
def partHits (tag : RedTag) (at_ o n : Nat) : Bool := at_ < o + n && o < at_ + tag.size

/-- The held partials that overlap the bytes [o, o+n) of a line are folded into a team's version of it and leave their own (08 R235); `own`:
only the team's, and only their bytes outside [o, o+n), which a store of the team is about to write. -/
def State.consumeParts (s : State) (tk line o n : Nat) (own : Bool) : State :=
  let from_ (v : Version) : Bool := v.line == line && v.kid == (s.team tk).kid && (v.owner == tk || (!own && v.kind == .partialV))
  let els := (s.apron.filter from_).flatMap (fun v => v.parts.flatMap (fun p => (p.2.filter (fun e => partHits p.1 e.1 o n)).map (fun e => (e.1, p.1.size))))
  if els.isEmpty then s
  else
    let cells := s.composed tk line
    let at_ := (List.range 64).filter (fun i => els.any (fun e => e.1 ≤ i && i < e.1 + e.2) && !(own && o ≤ i && i < o + n))
    let rest (v : Version) : Version :=
      { v with parts := (v.parts.map (fun p => (p.1, p.2.filter (fun e => !partHits p.1 e.1 o n)))).filter (fun p => !p.2.isEmpty) }
    let apron := (s.apron.map (fun v => if from_ v then rest v else v)).filter (fun v => !(v.kind == .partialV && v.parts.isEmpty))
    let s := { s with apron := apron }
    if at_.isEmpty then s else s.holdCells tk line (at_.map (fun i => (i, seenAt cells i)))

/-- Hold a write of bytes within one line (15 R422, R416), at an offset; the team's own contributions to them come before it. -/
def State.heldWriteLine (s : State) (tk line o : Nat) (bs : List Byte) (pois : Bool) : State :=
  (s.consumeParts tk line o bs.length true).putVersion tk (kindOfRun (s.team tk).kind) line (fun v =>
    { v with bytes := (List.range bs.length).foldl (fun m i => kvSet m (o + i) (bs.getD i 0)) v.bytes
             pois := chunkPois v.pois o bs.length pois })

/-- Hold a write of bytes, line by line. -/
def State.heldWrite (s : State) (tk pa : Nat) (bs : List Byte) (pois : Bool) : State :=
  (linesOf pa bs.length).foldl (fun s l =>
    let a := max pa (64 * l)
    let e := min (pa + bs.length) (64 * l + 64)
    s.heldWriteLine tk l (a % 64) ((bs.drop (a - pa)).take (e - a)) pois) s

/-- Add a contribution to held ones: to the last partial, if it is of the same tag (13 R367). -/
def addPart (tag : RedTag) (o : Nat) (x : Slot) : List (RedTag × Slots) → List (RedTag × Slots)
  | [] => [(tag, tag.put [] o x)]
  | [p] => if p.1 = tag then [(tag, tag.put p.2 o x)] else [p, (tag, tag.put [] o x)]
  | p :: ps => p :: addPart tag o x ps

/-- The version that holds a team's contributions: its partial of the line; a later run's are in its overlay (13 R370). -/
def partKind : RunKind → VKind | .original => .partialV | k => kindOfRun k

/-- Hold a contribution. -/
def State.heldPart (s : State) (tk pa : Nat) (tag : RedTag) (x : Nat) (pois : Bool) : State :=
  s.putVersion tk (partKind (s.team tk).kind) (pa / 64) (fun v => { v with parts := addPart tag (pa % 64) (tag.slot x pois) v.parts })

end Sys2Proof.Machine
end

