-- ==== Sys2Proof/Machine/Global.lean ====
section
/-!
DEFINITION. The path of a group's global accesses: requests and cpdg (08 R226, R230), the checks of 08 R224, the L1 data cache (12
R326, R327), loads, stores, atomics and contributions at their homes, in the Apron, on host and peer pages, and the side log (08
R243 to R245).
-/
namespace Sys2Proof.Machine
open Sys2Proof

/-! ## Requests and translation -/

/-- The attribute under which a page is accessed (16 R453, 17 R483): host and peer pages are UC. -/
def effAttr (x : Xlat) (pa : Nat) : PAttr := if x.host || isPeer pa then .uc else x.attr

/-- Whether an access lies outside the homes: host memory or a peer device. -/
def outside (x : Xlat) (pa : Nat) : Bool := x.host || isPeer pa

/-- A hint that cpdg counts when the page is narrower (08 R230). -/
def narrowHint (c : Cpol) : Bool := c = .stream || c = .keep || c = .noL1

/-- One global access of a thread: its address, its width and its hint. -/
structure GReq where
  va   : Nat
  n    : Nat
  cpol : Cpol
deriving DecidableEq, Repr

/-- Whether an access opens a request, its page being DEV or not: it lies in another line than the request that the instruction is gathering
(08 R226). -/
def State.opens (s : State) (q : GReq) (dev : Bool) : Bool := dev || (match s.env.req with | some r => r.1 ≠ q.va / 64 | none => true)

/-- The access opens a request of its own, with a number. -/
def State.openReq (s : State) (va : Nat) : State := { s with env := { s.env with req := some (va / 64, s.stamp) }, stamp := s.stamp + 1 }

/-- The requests that hold a slot of a group's lane (08 R226). -/
def State.laneReqs (s : State) (gk : Nat) : List Nat :=
  ((s.groups.filter (fun e => s.coreOf e.1 == s.coreOf gk && e.2.lane == (s.group gk).lane)).flatMap (fun e => e.2.pend.filterMap (·.req))).foldl setInsert []

/-- Whether an access that has opened a request finds all 128 slots of its lane held. -/
def State.laneFull (s : State) (gk : Nat) (before : Option (Nat × Nat)) : Bool := s.env.req != before && 128 ≤ (s.laneReqs gk).length

/-- How an access uses L2 (08 Table 8.2, Table 8.3). -/
def useOf (cp : Cpol) (x : Xlat) (pa : Nat) : L2Use :=
  if effAttr x pa = .wb then
    match cp with
    | .stream => .alloc 0
    | .keep => .alloc 2
    | .noAlloc => .hit
    | _ => .alloc 1
  else .through

/-- A new token. -/
def State.newTok (s : State) : Nat × State := (s.stamp, { s with stamp := s.stamp + 1 })

/-- What the checks of 08 R224 come to: the physical address, a trap, or an unmapped page. -/
inductive GRes where
  | ok (x : Xlat) (pa : Nat)
  | trap (code : Nat)
  | unmapped
deriving DecidableEq, Repr

/-- What an access needs of its page. -/
structure Need where
  r   : Bool
  w   : Bool
  atomic : Bool
  red : Bool
deriving DecidableEq, Repr

/-- Steps 5 to 7 of 08 R224 on a translation. -/
def pageCheck (nd : Need) (x : Xlat) (pa : Nat) : Option Nat :=
  if (nd.r && !x.r) || (nd.w && !x.w) then some 0x21
  else if x.attr = .prot then some 0x23
  else if (nd.atomic && effAttr x pa = .dev) || (nd.red && effAttr x pa ≠ .wb) then some 0x21
  else none

/-- Steps 1, 3 to 7 of 08 R224 for a global access; cpdg counts a narrowed request (R230). -/
def State.gCheck (s : State) (gk : Nat) (q : GReq) (align : Nat) (nd : Need) : GRes × State :=
  let core := s.coreOf gk
  if 2 ^ 57 ≤ q.va then (.trap 0x21, s)
  else if q.va % align ≠ 0 then (.trap 0x22, s)
  else
    match translate s core (s.tenantOf gk) q.va (if s.opens q false then 1 else 0) with
    | (.unmapped _, s) => (.unmapped, s)
    | (.ok x _, s) =>
      let pa := x.phys q.va
      let attr := effAttr x pa
      match pageCheck nd x pa with
      | some c => (.trap c, s)
      | none =>
        let opens := s.opens q (attr = .dev)
        let s := if attr = .dev && !s.opens q false then s.modCore core (fun k => { k with tlb := tlbAdd 255 k.tlb (s.tenantOf gk) q.va 1 }) else s
        let s := if opens then s.openReq q.va else s
        (.ok x pa, if opens && narrowHint q.cpol && (attr = .uc || attr = .dev) then
            s.modCore core (fun k => { k with cpdg := k.cpdg + 1 }) else s)

/-! ## L1 -/

/-- Whether an L1 line is valid: its three tags equal the counters (12 R327); constants are invalidated at launch start only (Table 12.1). -/
def Core.l1Valid (k : Core) (l : L1Line) : Bool :=
  match l.view with
  | .const _ => true
  | _ => l.et = k.epochs.getD 0 0 && l.eg = k.epochs.getD 1 0 && l.ed = k.epochs.getD 2 0

/-- As whom a team's loads use L1: those of a checked launch see held bytes (15 R416, R423). -/
def State.viewOf (s : State) (tk : Nat) : L1View :=
  let tm := s.team tk
  if !(s.launch tm.kid).checked then .plain else if tm.kind = .original then .launch tm.kid else .run tk

/-- A core's valid copy of a line. -/
def State.l1Copy (s : State) (c : Nat) (view : L1View) (line : Nat) : Option L1Line :=
  (s.core c).l1.find? (fun l => l.line == line && l.view == view && (s.core c).l1Valid l)

def State.l1Drop (s : State) (c line : Nat) : State := s.modCore c (fun k => { k with l1 := k.l1.filter (fun l => l.line ≠ line) })

/-- Whether an access uses L1 (08 Table 8.2, Table 8.3). -/
def usesL1 (cp : Cpol) (x : Xlat) (pa : Nat) : Bool := effAttr x pa = .wb && (cp = .dflt || cp = .stream || cp = .keep)

/-- The cells of a line in memory. -/
def State.lineCells (s : State) (line : Nat) : List Seen := (List.range 64).map (fun o => ⟨s.memByte (64 * line + o), s.memPois (64 * line + o) 1, []⟩)

/-- Fill a line into L1 as a view sees it, with the counters as they stand (12 R326, R327): 128 sets of 8 lines; which line leaves a full set is a
free choice (log 9), among those that are to be evicted first if there are any (08 Table 8.2). -/
def State.l1Fill (s : State) (c line : Nat) (view : L1View) (cp : Cpol) (cells : List Seen) : State :=
  let s := s.modCore c (fun k => { k with l1 := k.l1.filter (fun l => !(l.line == line && l.view == view)) })
  let k := s.core c
  let set := k.l1.filter (fun l => l.line % 128 = line % 128)
  let (n, s) := if set.length < 8 then (0, s) else s.free
  let cands := if set.any (·.first) then set.filter (·.first) else set
  let out := if set.length < 8 then none else cands[n % cands.length]?
  let new : L1Line :=
    { line := line, view := view, first := cp == .stream, data := cells.map (·.b)
      pois := [0, 1, 2, 3].filter (fun i => ((cells.drop (16 * i)).take 16).any (·.pois))
      from_ := (List.range 64).flatMap (fun i => (seenAt cells i).from_.map (fun e => (i, e)))
      et := k.epochs.getD 0 0, eg := k.epochs.getD 1 0, ed := k.epochs.getD 2 0 }
  s.modCore c (fun k => { k with l1 := k.l1.filter (fun l => some l ≠ out) ++ [new] })

/-- A store updates a valid copy (12 R326). -/
def L1Line.put (l : L1Line) (o : Nat) (bs : List Byte) : L1Line :=
  { l with data := (List.range bs.length).foldl (fun d i => d.set (o + i) (bs.getD i 0)) l.data
           pois := chunkPois l.pois o bs.length false }

def State.l1Store (s : State) (c : Nat) (view : L1View) (pa : Nat) (bs : List Byte) : State :=
  s.modCore c (fun k => { k with l1 := k.l1.map (fun l => if l.line = pa / 64 && l.view = view && k.l1Valid l then l.put (pa % 64) bs else l) })

/-! ## Writes that a group has seen (12 R341) -/

/-- The writes of a core to a line that are on their way to its home: group and token. -/
def State.flyingWrites (s : State) (c line : Nat) : List (Nat × Nat) :=
  let of_ (a : HomeAcc) : List (Nat × Nat) :=
    match a with
    | .wr gk tok _ _ _ => if s.coreOf gk = c then [(gk, tok)] else []
    | .rd _ _ _ _ _ _ | .at _ _ _ _ _ _ _ => []
  let ofEv (e : HomeEv) : List (Nat × Nat) := match e with | .acc a | .after a => of_ a | _ => []
  s.net.flatMap (fun m => if m.line = line then (match m.body with | .acc a => of_ a | _ => []) else [])
    ++ ((kvGet s.homes line).toList.flatMap (fun h => h.queue.flatMap ofEv)) ++ (s.waitsFor line).flatMap ofEv

/-- A group has read a line of its core's L1: it has seen the other groups' writes that are on their way. -/
def State.seesLine (s : State) (gk line : Nat) : State :=
  let ws := s.flyingWrites (s.coreOf gk) line
  if ws.all (fun w => w.1 == gk) then s
  else s.modGroup gk (fun g => { g with seen := ws.foldl (fun m w => if w.1 = gk || m.contains w then m else m ++ [w]) g.seen })

/-! ## Loads -/

/-- Add an outstanding result (01 R45). -/
def State.addPend (s : State) (gk : Nat) (p : Pending) : State := s.modGroup gk (fun g => { g with pend := g.pend ++ [p] })

/-- An outstanding result whose value is fixed. -/
def State.pendNow (s : State) (gk t : Nat) (dsts : List LoadDst) (ws : List RegWord) (again : Option Again := none) : State :=
  let (tok, s) := s.newTok
  s.addPend gk ⟨tok, t, true, s.env.req.map (·.2), again, false, dsts.zip ws⟩

/-- An outstanding load of a group to bytes that it now writes is not read anew: it precedes the write (12 R335). -/
def Pending.settledBy (p : Pending) (scr : Bool) (a n : Nat) : Pending :=
  let hit (b m : Nat) : Bool := b < a + n && a < b + m
  match p.again with
  | some (.glob va m _ _) => if !scr && hit va m then { p with again := none } else p
  | some (.scr va m _) => if scr && hit va m then { p with again := none } else p
  | none => p

def State.settleLoads (s : State) (gk : Nat) (scr : Bool) (a n : Nat) : State :=
  if (s.group gk).pend.any (fun p => p.again.isSome) then s.modGroup gk (fun g => { g with pend := g.pend.map (fun p => p.settledBy scr a n) }) else s

/-- The words of a load from bytes that carry one poison mark. -/
def wordsFrom (bs : List Byte) (p : Bool) : List RegWord := loadWords 0 bs (fun _ => p)
def cellWords (cs : List Seen) : List RegWord := loadWords 0 (cs.map (·.b)) (fun i => (seenAt cs i).pois)

/-- The value that a load delivers at once, with its words; none means that it waits (15 R423). -/
def State.readNow (s : State) (gk : Nat) (x : Xlat) (pa n : Nat) (u : L2Use := .hit) : Option (List RegWord × State) :=
  let tk := (s.group gk).team
  if outside x pa then (s.outRead tk x.host pa n).map (fun r => (cellWords r.1, r.2))
  else if !s.inMap pa then some (wordsFrom (List.replicate n 0) true, s.badPa pa)
  else if (s.launchOf gk).checked then (s.heldRead tk pa n u).map (fun r => (cellWords r.1, r.2))
  else
    let s := (linesOf pa n).foldl (fun s l => (s.settle l).l2Touch l u) s
    some (loadWords pa (s.memRead pa n) (fun a => s.memPois a 1), s)

/-- LOAD (08 R225, R229): the value is fixed now (log 4), or when the home answers while the line is in the update-only state.
None means that the thread waits. -/
def State.loadAt (s : State) (gk t : Nat) (x : Xlat) (pa n : Nat) (cp : Cpol) (dsts : List LoadDst) (again : Option Again := none) : Option State :=
  let c := s.coreOf gk
  let tk := (s.group gk).team
  let line := pa / 64
  if outside x pa || !s.inMap pa then (s.readNow gk x pa n).map (fun r => r.2.pendNow gk t dsts r.1 again)
  else
    let l1 := usesL1 cp x pa
    let u := useOf cp x pa
    let view := s.viewOf tk
    match (if l1 then s.l1Copy c view line else none) with
    | some l =>
      let o := pa % 64
      (s.addProducers tk ((l.from_.filter (fun e => o ≤ e.1 && e.1 < o + n)).map (·.2))).map (fun s =>
        (s.seesLine gk line).pendNow gk t dsts (loadWords o ((l.data.drop o).take n) (fun a => l.pois.contains (a / 16))) again)
    | none =>
      let s := if l1 then s else s.l1Drop c line
      if (s.launchOf gk).checked then
        (s.heldRead tk pa n u).map (fun r =>
          let s := if l1 then r.2.l1Fill c line view cp (r.2.composed tk line) else r.2
          s.pendNow gk t dsts (cellWords r.1) again)
      else if s.linePlain line then
        let s := s.l2Touch line u
        let s := if l1 then s.l1Fill c line view cp (s.lineCells line) else s
        some (s.pendNow gk t dsts (loadWords pa (s.memRead pa n) (fun a => s.memPois a 1)) again)
      else
        let s := s.redFlushLine c line
        let (tok, s) := s.newTok
        let s := s.addPend gk ⟨tok, t, false, s.env.req.map (·.2), again, false, []⟩
        some (s.send (.core c) .home line (.acc (.rd gk tok pa n u dsts)))

/-- Issue a load again whose value a pre-emption has left unread (14 R388, R392), if its address can be accessed now. -/
def State.reissue (s : State) (gk : Nat) (p : Pending) : Option State :=
  let s0 := s.modGroup gk (fun g => { g with pend := g.pend.filter (fun x => x.tok ≠ p.tok) })
  match p.again with
  | some (.glob va n cp dsts) =>
    match ({ s0 with env := { s0.env with req := none } } : State).gCheck gk ⟨va, n, cp⟩ 1 ⟨true, false, false, false⟩ with
    | (.ok x pa, s) => s.loadAt gk p.t x pa n cp dsts p.again
    | _ => none
  | some (.scr a n dsts) =>
    match s0.scrCheck (s.group gk).team a n 1 with
    | .ok q => some (({ s0 with env := { s0.env with req := none } } : State).pendNow gk p.t dsts
        (loadWords q.off (s0.scrRead q.tk q.off n) (fun i => s0.scrPois q.tk i 1)) p.again)
    | .error _ => none
  | none => none

/-- Issue again what a restored group has still to issue again. -/
def State.reissueAll (s : State) (gk : Nat) : State :=
  ((s.group gk).pend.filter (·.due)).foldl (fun s p => (s.reissue gk p).getD s) s

/-! ## Stores -/

/-- Room in the Apron for a write of n bytes of a team; none means that it waits (15 Table 15.11). -/
def State.roomFor (s : State) (tk pa n : Nat) (kind : VKind) : Option State :=
  (linesOf pa n).foldl (fun s l => s.bind (fun s => s.versionRoom tk kind l)) (some s)

/-- A write or an atomic of a core is applied at its home at once: the home's die learns the clock of the core's die (12 R342). -/
def State.carryClock (s : State) (c pa : Nat) : State := s.learnClock (homeDie pa) (s.dieClock (Config.dieOf c))

/-- STORE within one line, by a group of a team with the token of the write; `l1`: it is not the side log's replay, which L1 does not see (12
R326).  None means that it waits for the Apron. -/
def State.storeAt (s : State) (tk gk tok : Nat) (x : Xlat) (pa va : Nat) (bs : List Byte) (u : L2Use) (l1 : Bool) : Option State :=
  let c := (s.team tk).core
  let tm := s.team tk
  let done (s : State) : State := if tm.kind = .original then s.performed gk tok else s
  if outside x pa then
    let line := outLine x.host pa
    if (s.launch tm.kid).checked && s.mustHold tk line (pa % 64) bs.length then
      (s.versionRoom tk (kindOfRun tm.kind) line).map (fun s => done (s.heldWriteLine tk line (pa % 64) bs false))
    else
      let (refused, s) := physWrite (s.noteUnheld tk) x.host pa bs false
      some ((if refused then s.lostStore tk va 0 else s).performed gk tok)
  else if !s.inMap pa then some ((s.badPa pa).performed gk tok)
  else
    let s := if l1 then s.l1Store c (s.viewOf tk) pa bs else s
    if (s.launch tm.kid).checked then
      if s.mustHold tk (pa / 64) (pa % 64) bs.length then
        (s.roomFor tk pa bs.length (kindOfRun tm.kind)).map (fun s => done (s.heldWrite tk pa bs false))
      else some (((homeWrite (s.noteUnheld tk) pa bs false u).carryClock c pa).performed gk tok)
    else if s.linePlain (pa / 64) then some (((s.plainWrite pa bs false u).carryClock c pa).performed gk tok)
    else
      let s := (s.redFlushLine c (pa / 64)).modGroup gk (fun g => { g with unapplied := g.unapplied ++ [tok] })
      some (s.send (.core c) .home (pa / 64) (.acc (.wr gk tok pa u bs)))

/-! ## Atomics -/

/-- An atomic of a team of a checked launch (15 R422, R423; 08 R235): it reads the composed value; its write is held when the
team's are or when any byte came from another team, and it consumes the held partials of its element; `p`: what it writes is poisoned (10
R302).  None means that it waits. -/
def State.heldAtomic (s : State) (tk line o n : Nat) (op : AtomOp) (r : Option (List Seen × State)) (put : State → List Byte → State)
    (p : Bool := false) : Option (Nat × Bool × State) :=
  let tm := s.team tk
  match r with
  | none => none
  | some (cells, s) =>
    let old := Word.ofBytes (cells.map (·.b))
    let other := cells.any (fun c => c.from_.any (· ≠ tm.sameAs))
    let partial_ := s.apron.any (fun v => v.line = line && v.kid = tm.kid && v.kind == .partialV && v.covers o n)
    let writes := match op with | .cas b _ => old = b % 2 ^ (8 * n) | _ => true
    if cells.any (·.pois) then some (old, true, s)
    else if !writes && !partial_ then some (old, false, s)
    else
      let bs := Word.toBytes n (atomNew op n old)
      if s.mustHold tk line o n || other then
        (s.versionRoom tk .original line).map (fun s =>
          let s := s.consumeParts tk line o n false
          (old, false, if writes then s.heldWriteLine tk line o bs p else s))
      else some (old, false, put (s.noteUnheld tk) bs)

/-- ATOMIC (08 R233, R235): the old value's words are an outstanding result.  `acq` asks for the value now.  The second component
is the old value where it is known.  None means that the thread waits. -/
def State.atomicDo (s : State) (gk t : Nat) (x : Xlat) (pa n : Nat) (op : AtomOp) (cp : Cpol) (acq : Bool) (dsts : List LoadDst) :
    Option (Nat × State) :=
  let c := s.coreOf gk
  let tk := (s.group gk).team
  let s := s.l1Drop c (pa / 64)
  let (tok, s) := s.newTok
  let give (old : Nat) (p : Bool) (s : State) : Nat × State :=
    (old, (s.pendNow gk t dsts (wordsFrom (Word.toBytes n old) p)).performed gk tok)
  let checked := (s.launchOf gk).checked
  let u := useOf cp x pa
  if outside x pa then
    let line := outLine x.host pa
    if checked && (s.holds tk || s.apron.any (fun v => v.line = line && v.kid = (s.team tk).kid)) then
      (s.heldAtomic tk line (pa % 64) n op (s.outRead tk x.host pa n) (fun s bs => (physWrite s x.host pa bs false).2)).map (fun r => give r.1 r.2.1 r.2.2)
    else
      let (old, p, s) := physAtomic (s.noteUnheld tk) x.host pa n op
      some (give old p s)
  else if !s.inMap pa then some (give 0 true (s.badPa pa))
  else if checked then
    (s.heldAtomic tk (pa / 64) (pa % 64) n op (s.heldRead tk pa n u) (fun s bs => homeWrite s pa bs false u)).map (fun r => give r.1 r.2.1 r.2.2)
  else if acq || s.linePlain (pa / 64) then
    let (old, p, s) := (s.settle (pa / 64)).atomicAt pa n op u
    some (give old p (s.carryClock c pa))
  else
    let s := s.redFlushLine c (pa / 64)
    let s := (s.addPend gk ⟨tok, t, false, s.env.req.map (·.2), none, false, []⟩).modGroup gk (fun g => { g with unapplied := g.unapplied ++ [tok] })
    some (0, s.send (.core c) .home (pa / 64) (.acc (.at gk tok pa n u dsts op)))

/-- The atomic of a later run (15 R416): the old value comes from the log, and what it would write enters the overlay. -/
def State.replayAtomic (s : State) (gk : Nat) (x : Xlat) (pa n : Nat) (op : AtomOp) (old : Nat) : Option State :=
  let tk := (s.group gk).team
  let writes := match op with | .cas b _ => old = b % 2 ^ (8 * n) | _ => true
  if !writes || outside x pa || !s.inMap pa then some s
  else
    (s.roomFor tk pa n (kindOfRun (s.team tk).kind)).map (fun s => s.heldWrite tk pa (Word.toBytes n (atomNew op n old)) false)

/-! ## Contributions -/

/-- RED at its place (08 R236, R237; 13 R360, R370); `l1` as for a store.  It may wait for the Apron or for the core's buffer. -/
def State.redAt (s : State) (tk gk tok : Nat) (pa : Nat) (tag : RedTag) (v : Nat) (l1 : Bool) : Got :=
  let tm := s.team tk
  if !s.inMap pa then .ok ((s.badPa pa).performed gk tok)
  else if s.mustHold tk (pa / 64) (pa % 64) tag.size then
    Got.of s ((s.versionRoom tk (partKind tm.kind) (pa / 64)).map (fun s =>
      let s := (if l1 then s.l1Drop tm.core (pa / 64) else s).heldPart tk pa tag v false
      if tm.kind = .original then s.performed gk tok else s))
  else
    let s := s.noteUnheld tk
    match (s.modGroup gk (fun g => { g with unapplied := g.unapplied ++ [tok] })).contribute tm.core gk tok pa tag v false l1 with
    | .ok s => .ok s
    | .wait s => .wait (s.modGroup gk (fun g => { g with unapplied := g.unapplied.filter (· ≠ tok) }))

/-! ## The side log (08 R243 to R245) -/

/-- The tenant of an entry's team. -/
def State.tenantOfTeam (s : State) (tk : Nat) : Nat := (s.launch (s.team tk).kid).r.tenant

def State.sameUnit (s : State) (tenant va : Nat) (e : SideEntry) : Bool := pageOf e.va == pageOf va && s.tenantOfTeam e.team == tenant

/-- Whether a core holds entries for the page of an address. -/
def State.pendingPage (s : State) (c tenant va : Nat) : Bool := (s.core c).slog.any (s.sameUnit tenant va)

/-- Poison the chunk of an address where a team's stores to it stand: in its held version, or in memory (16 R443). -/
def State.markPois (s : State) (tk pa : Nat) : State :=
  if s.holds tk then
    { s with apron := s.apron.map (fun v => if v.owner = tk && v.line = pa / 64 then { v with pois := setInsert v.pois (pa % 64 / 16) } else v) }
  else { s with mpois := setInsert s.mpois (pa / 16) }

/-- An entry as 08 Table 8.8 lays it out. -/
def State.sideBits (s : State) (e : SideEntry) : BitVec 256 :=
  let data := e.data.foldl (fun n c => n + c.2.toNat * 2 ^ (8 * c.1)) 0
  let mask := maskOf (e.data.map (·.1))
  let red := if e.red then 2 ^ 108 + tyCode e.tag.ty * 2 ^ 104 + e.tag.aop * 2 ^ 98 else 0
  BitVec.ofNat 256 (data * 2 ^ 128 + mask * 2 ^ 112 + red + (s.team e.team).tid * 2 ^ 64 + e.va / 16 * 16 % 2 ^ 57 + 1)

/-- Apply an entry to its page as the access that it records, or discard it (08 R245, 16 R461); none means that its address is unmapped. -/
def State.applyEntry (s : State) (e : SideEntry) : Option Got :=
  let tenant := s.tenantOfTeam e.team
  match translate s (s.team e.team).core tenant e.va 0 with
  | (.unmapped _, _) => none
  | (.ok x _, s) =>
    let pa := x.phys e.va
    let size := e.tag.size
    let off := (e.data.headD (0, 0)).1
    match pageCheck ⟨false, true, false, e.red⟩ x pa with
    | some _ => some (.ok ((s.lostStore e.team e.va 0x21).performed e.gk e.tok))
    | none =>
      let mark (s : State) : State := if e.pois then s.markPois e.team pa else s
      some (if e.red then
          match s.redAt e.team e.gk e.tok (pa + off) e.tag (Word.ofBytes ((e.data.map (·.2)).take size)) false with
          | .ok s => .ok (mark s)
          | .wait s => .wait s
        else Got.of s (((runsOf e.data).foldl (fun s r =>
          s.bind (fun s => s.storeAt e.team e.gk e.tok x (pa + r.1) (e.va + r.1) r.2 (useOf .dflt x pa) false)) (some s)).map mark))

/-- Apply a core's entries of a page in the order of entry (08 R244): those whose addresses are mapped (16 R461), up to the first that has to wait. -/
def applyGo (c tenant va : Nat) : List SideEntry → State → State
  | [], s => s
  | e :: es, s =>
    if s.sameUnit tenant va e then
      match s.applyEntry e with
      | some (.ok s) => applyGo c tenant va es (s.modCore c (fun k => { k with slog := k.slog.erase e }))
      | some (.wait s) => s
      | none => applyGo c tenant va es s
    else applyGo c tenant va es s

def State.applyPage (s : State) (c tenant va : Nat) : State :=
  if s.pendingPage c tenant va then applyGo c tenant va (s.core c).slog s else s

/-- Discard a core's entries of a page (08 R245). -/
def State.discardPage (s : State) (c tenant va code : Nat) : State :=
  let es := (s.core c).slog.filter (s.sameUnit tenant va)
  let s := s.modCore c (fun k => { k with slog := k.slog.filter (fun e => !es.contains e) })
  es.foldl (fun s e => (s.lostStore e.team e.va code).performed e.gk e.tok) s

/-- Enter the side log (08 R243): the bytes of one chunk, sharing the entry of the thread before, or one contribution.  The first
entry of a page writes a FAULT record.  None means that all 128 entries are taken (R244). -/
def State.sideEnter (s : State) (gk tok va : Nat) (red : Bool) (tag : RedTag) (bs : List Byte) : Option State :=
  let c := s.coreOf gk
  let g := s.group gk
  let tenant := s.tenantOf gk
  let chunk := va / 16 * 16
  let cells := (List.range bs.length).map (fun i => (va - chunk + i, bs.getD i 0))
  let shared := match (s.core c).slog.getLast? with
    | some e => !red && !e.red && e.team = g.team && e.gk = gk && e.inst = g.issued && e.va = chunk
    | none => false
  if shared then
    some (s.modCore c (fun k => { k with slog := k.slog.dropLast ++ (k.slog.getLast?.toList.map (fun e =>
      { e with data := cells.foldl (fun d x => kvSet d x.1 x.2) e.data })) }))
  else if 128 ≤ (s.core c).slog.length then none
  else
    let fd := s.faultDetail (Config.dieOf c) tenant va
    let s := if s.pendingPage c tenant va then s
      else s.raise (some g.team) { ErrRec.ofTeam s g.team recFAULT 2 with code := 0x20, addr := va, extra := fd.entry, detail := fd.level, poison := fd.pois }
    some (s.modCore c (fun k => { k with slog := k.slog ++ [{ team := g.team, gk := gk, tok := tok, inst := g.issued, va := chunk, red := red, tag := tag, data := cells, pois := false }] }))

/-- The part of an access that lies in each 16-byte chunk. -/
def chunksOf (va : Nat) (bs : List Byte) : List (Nat × List Byte) :=
  (List.range ((va + bs.length + 15) / 16 - va / 16)).map (fun i =>
    let a := max va (16 * (va / 16 + i))
    let e := min (va + bs.length) (16 * (va / 16 + i) + 16)
    (a, (bs.drop (a - va)).take (e - a)))

/-- A store that enters the side log. -/
def State.sideStore (s : State) (gk tok va : Nat) (bs : List Byte) : Option State :=
  (chunksOf va bs).foldl (fun s r => s.bind (fun s => s.sideEnter gk tok r.1 false ⟨0, .s32⟩ r.2)) (some s)

end Sys2Proof.Machine
end

