-- ==== Sys2Proof/Machine/Memory.lean ====
section
/-!
DEFINITION. The memory and atomic instructions (08 R218 to R237): the frame of 08 R225, and the acts of each space.
-/
namespace Sys2Proof.Machine
open Sys2Proof

/-! ## The frame (08 R225, R227, R247) -/

/-- What one thread's act has at hand: its thread and record number, its place among the threads of the turn, the values of the sources, and
the comparison of its class, which goes on with a state. -/
structure MemTurn where
  gk   : Nat
  t    : Nat
  tid  : Nat
  pos  : Nat
  vs   : List Nat
  cmp  : State → (State → TOut) → TOut

/-- A memory instruction: whether it executes once, its destination in words, its sources with the address operand first, its
offset, its address width in bits, whether it only hints (PREF, which does not trap in a turn, 08 R239), whether it writes, its ordering,
and its act. -/
structure MemSpec where
  once  : Bool
  dst   : Opnd × Nat
  srcs  : List SrcSpec
  off   : Int
  abits : Nat
  hint  : Bool
  wr    : Bool
  scope : Scope
  rel   : Bool
  acq   : Bool
  act   : MemTurn → Nat → State → TOut

/-- The address of a thread (08 R219, R220, R222). -/
def MemSpec.addr (sp : MemSpec) (a : Nat) : Nat := Word.ofSigned sp.abits (a + sp.off)

def MemSpec.check (sp : MemSpec) (s : State) (is : Issue) : Option (Nat × Nat) :=
  let r := s.roleOf is.key
  (operandCheck r.vregs r.sregs (.reg sp.dst.1 sp.dst.2) sp.srcs false).map (·, 0)

/-- Park a group for a reason that lets the thread begin again. -/
def State.parkFor (s : State) (gk : Nat) (r : RunSt) : State := s.modGroup gk (fun g => { g with run := r })

/-- The comparison of an access: the address under its class, then the data under its own (08 R247).  In a vote, 96 + t names
thread t's data. -/
def memCompare (ca cd : Cls) (gk tid : Nat) (s : State) (k : State → TOut) : TOut :=
  match s.verdict ca tid with
  | .split => .split s
  | va =>
    let s := if va = .corrected then s.noteCorrected gk tid else s
    match s.verdict cd (96 + tid) with
    | .split => .split s
    | .corrected => k (s.noteCorrected gk tid)
    | _ => k s

def upsetOf (v : Verdict) : Nat := match v with | .flipped x => x | _ => 0

/-- What is kept of an access that has to wait: what has left the core, and what its requests have taken. -/
def State.waited (s s2 : State) (gk : Nat) : State :=
  ({ s with net := s2.net, cores := s2.cores, launches := s2.launches }).parkFor gk (s2.group gk).run

/-- A write that follows a FENCE release in group order is a release (12 R344); a release is marked (15 R424), and the loads before it have
their values (12 R338). -/
def MemSpec.wrote (sp : MemSpec) (gk : Nat) (s : State) : State :=
  let s := if sp.wr && (s.group gk).fenced then s.modGroup gk (fun g => { g with fenced := false }) else s
  if sp.rel then s.release gk sp.scope else s

/-- One thread's turn, `pos` its place among the threads of the turn.  `s0` is the state before the instruction. -/
def MemSpec.turn (sp : MemSpec) (ca cd : Cls) (is : Issue) (s0 : State) (t tid pos : Nat) (s : State) : TOut :=
  let gk := is.key
  if indexBound (s0.roleOf gk).vregs ((s0.group gk).thread t) (.reg sp.dst.1 sp.dst.2) sp.srcs then (if sp.hint then .ok s else .trap s 0x09 0)
  else if sp.rel && !s.releaseReady gk sp.scope then .wait (s.parkFor gk .release)
  else
    match s0.clockRecord s is t tid (sp.srcs.any (fun x => match x with | .reg o _ _ _ => opIsClk o | _ => false)) with
    | none => .diverge s
    | some (s0, s1) =>
      let vs := sp.srcs.map (s0.srcOf is t)
      if vs.any (·.pois) then .die s1 recPOISON
      else
        let xs := vs.map (·.val)
        let a := sp.addr (argN xs 0 ^^^ upsetOf (s.verdict ca tid))
        let d := upsetOf (s.verdict cd (96 + tid))
        let m : MemTurn :=
          { gk := gk, t := t, tid := tid, pos := pos, vs := [a, argN xs 1 ^^^ d] ++ xs.drop 2, cmp := memCompare ca cd gk tid }
        match sp.act m a { s1 with env := { s1.env with rel := sp.rel || (sp.wr && (s1.group gk).fenced) } } with
        | .ok s2 => .ok (sp.wrote gk (s2.deadRead gk (vs.any (·.dead))))
        | .wait s2 => .wait (s.waited s2 gk)
        | o => o

/-- What follows the whole instruction when it is an acquire (12 R339): the epoch advances; an instruction stopped half-way leaves no
older line in L1. -/
def afterAcquire (sp : MemSpec) (gk : Nat) : Ran → Ran
  | .done s => .done (if sp.acq then s.acquire gk sp.scope else s)
  | .trap s t => .trap (if sp.acq then s.modCore (s.coreOf gk) (fun k => { k with l1 := [] }) else s) t
  | .held s t => .held (if sp.acq then s.modCore (s.coreOf gk) (fun k => { k with l1 := [] }) else s) t
  | r => r

/-- How many threads of a list come before one. -/
def posOf (t : Nat) (ts : List Nat) : Nat := (ts.takeWhile (fun u => u ≠ t)).length

/-- The body of a memory instruction; one that runs once for the group is its lowest executing thread's, and so is the pocket slice of a uniform LDK or
STK (08 R222; log 43). -/
def MemSpec.body (sp : MemSpec) (pcl : Cls) (s : State) (is : Issue) : Ran :=
  let ca := s.effClass is pcl .control
  let cd := s.effClass is pcl .lane
  afterAcquire sp is.key
    (if sp.once then
      match sp.turn ca cd is s is.lowest 32 0 s with
      | .ok s => .done (s.passAll is)
      | .die s typ => .done (s.killThreads is.key typ is.ex)
      | .split s => .done (s.killSplit is.key is.ex)
      | .trap s code addr => .trap s (Trap.of code .thread is is.lowest addr)
      | .wait s => .held s is.lowest
      | .diverge s => .diverge s
    else runThreads is (fun t s' => (sp.turn ca cd is s t t (posOf t is.ex) s').thenPass is t) is.ex s.env.cut s)

/-- The Reproducible attribute bars an instruction before its other operand checks (08 R249). -/
def reproBar (bars : Bool) (chk : State → Issue → Option (Nat × Nat)) (s : State) (is : Issue) : Option (Nat × Nat) :=
  if bars && (s.launchOf is.key).r.repro then some (0x02, 0) else chk s is

def runMem (f : FM) (sp : MemSpec) (s : State) : Out := runInstr f.h (extSize f.ext) sp.check (sp.body f.h.pcl) s

/-- The registers that a result of n words goes to, as a thread names them. -/
def State.loadDsts (s : State) (gk t : Nat) (o : Opnd) (n : Nat) : List LoadDst :=
  (List.range n).map (fun i =>
    match o with
    | .v r => .vreg t (r.val + i)
    | .x k => .vreg t (((s.group gk).thread t).idx k.val + i)
    | .s r => .sreg (r.val + i)
    | _ => .none)

/-- Bytes and words of a width (03 Table 3.12). -/
def widthBytes (w : Fin 8) : Nat := 2 ^ w.val
def wordsFor (n : Nat) : Nat := (n + 3) / 4

/-- Operands that let a store, a reduction, PREF or CCTL execute once (08 R227). -/
def uniOperand : Opnd → Bool | .s _ | .int _ | .fc _ | .z => true | _ => false

/-- The original's outside value is logged; a later run takes it from its log (08 Table 8.9).  A value of more than 8 bytes is a
payload. -/
def logBytes (s : State) (gk kind tid : Nat) (bs : List Byte) : State :=
  if bs.length ≤ 8 then s.logAppend gk kind tid (Word.ofBytes bs) [] else s.logAppend gk kind tid 0 bs

def loggedBytes (s : State) (gk kind tid n : Nat) (k : List Byte → State → TOut) : TOut :=
  match s.logNext gk [kind] tid with
  | none => .diverge s
  | some (r, s) => k (if n ≤ 8 then Word.toBytes n r.value else r.payload.take n) s

def waitRoom (s : State) (gk : Nat) : TOut := .wait (s.parkFor gk .room)

/-! ## Global loads and stores -/

/-- The check of a global access that does not retire into the side log; the entries of its page are applied first (08 R244). -/
def gAccess (m : MemTurn) (q : GReq) (align : Nat) (nd : Need) (s : State) (k : Xlat → Nat → State → TOut) : TOut :=
  let c := s.coreOf m.gk
  let tenant := s.tenantOf m.gk
  let s := s.applyPage c tenant q.va
  let r := s.env.req
  match s.gCheck m.gk q align nd with
  | (.trap code, s) => .trap s code q.va
  | (.unmapped, s) => .trap s 0x20 q.va
  | (.ok x pa, s) => if s.pendingPage c tenant q.va || s.laneFull m.gk r then waitRoom s m.gk else m.cmp s (k x pa)

/-- LDG (08 R225). -/
def ldgAct (d : Opnd) (n : Nat) (cp : Cpol) (m : MemTurn) (a : Nat) (s : State) : TOut :=
  gAccess m ⟨a, n, cp⟩ n ⟨true, false, false, false⟩ s (fun x pa s =>
    let dsts := s.loadDsts m.gk m.t d (wordsFor n)
    match s.loadAt m.gk m.t x pa n cp dsts (some (.glob a n cp dsts)) with
    | some s => .ok s
    | none => waitRoom s m.gk)

/-- LDGA: the value is fixed before the acquire (12 R339), at the home; the core's copy of the line, which may be older, is dropped (R335). -/
def ldgaAct (d : Opnd) (n : Nat) (cp : Cpol) (m : MemTurn) (a : Nat) (s : State) : TOut :=
  gAccess m ⟨a, n, cp⟩ n ⟨true, false, false, false⟩ s (fun x pa s =>
    let dsts := s.loadDsts m.gk m.t d (wordsFor n)
    if s.isRerun m.gk then loggedBytes s m.gk 0x02 m.tid n (fun bs s => .ok (s.pendNow m.gk m.t dsts (wordsFrom bs false)))
    else
      match (s.l1Drop (s.coreOf m.gk) (pa / 64)).readNow m.gk x pa n (useOf cp x pa) with
      | none => waitRoom s m.gk
      | some (ws, s) =>
        let bs := (ws.flatMap (fun w => Word.toBytes 4 w.val.toNat)).take n
        .ok (logBytes (s.pendNow m.gk m.t dsts ws) m.gk 0x02 m.tid bs))

/-- The check of a store or a reduction: an unmapped page, or one with pending entries, leads into the side log (08 R243, R244). -/
def gWrite (m : MemTurn) (q : GReq) (align : Nat) (nd : Need) (s : State)
    (log : Nat → State → Option State) (k : Nat → Xlat → Nat → State → Got) (ev : State → State) : TOut :=
  let c := s.coreOf m.gk
  let tenant := s.tenantOf m.gk
  let s := (s.applyPage c tenant q.va).settleLoads m.gk false q.va q.n
  let r := s.env.req
  let fin (o : Got) : TOut := match o with | .ok s => .ok (ev s) | .wait s => waitRoom s m.gk
  match s.gCheck m.gk q align nd with
  | (.trap code, s) => .trap s code q.va
  | (.unmapped, s) => m.cmp s (fun s => let (tok, s) := s.newTok; fin (Got.of s (log tok s)))
  | (.ok x pa, s) =>
    if s.laneFull m.gk r then waitRoom s m.gk
    else
      m.cmp s (fun s =>
        let (tok, s) := s.newTok
        fin (if s.pendingPage c tenant q.va then Got.of s (log tok s) else k tok x pa s))

/-- STG and STGR. -/
def stgAct (n : Nat) (cp : Cpol) (m : MemTurn) (a : Nat) (s : State) : TOut :=
  let bs := Word.toBytes n (argN m.vs 1)
  let tk := (s.group m.gk).team
  gWrite m ⟨a, n, cp⟩ n ⟨false, true, false, false⟩ s
    (fun tok s => s.sideStore m.gk tok a bs)
    (fun tok x pa s => Got.of s (s.storeAt tk m.gk tok x pa a bs (useOf cp x pa) true))
    (fun s => s.foldWrite tk 0x01 a bs id)

/-- RED (08 R236). -/
def redAct (tag : RedTag) (cp : Cpol) (m : MemTurn) (a : Nat) (s : State) : TOut :=
  let v := argN m.vs 1 % 2 ^ (8 * tag.size)
  let tk := (s.group m.gk).team
  gWrite m ⟨a, tag.size, cp⟩ tag.size ⟨false, true, false, true⟩ s
    (fun tok s => s.sideEnter m.gk tok a true tag (Word.toBytes tag.size v))
    (fun tok _ pa s => s.redAt tk m.gk tok pa tag v true)
    (fun s => s.fold tk { kind := 0x04, mask := 2 ^ tag.size - 1, aux := tag.aop * 2 ^ 8 + tyCode tag.ty, addr := BitVec.ofNat 64 a,
                          d0 := BitVec.ofNat 64 v, d1 := 0 })

/-- The signature event of an atomic (15 Table 15.3). -/
def atomEvent (opc aop ty n addr b c : Nat) : SigEvent :=
  { kind := 0x03, mask := 2 ^ n - 1, aux := opc * 2 ^ 16 + aop * 2 ^ 8 + ty, addr := BitVec.ofNat 64 addr,
    d0 := BitVec.ofNat 64 b, d1 := BitVec.ofNat 64 c }

/-- What an atomic does at its place: the opcode, AOP and ATYPE of its event, its bytes, its step from b and c. -/
structure AtomSpec where
  opc  : Nat
  aop  : Nat
  aty  : Nat
  n    : Nat
  step : Nat → Nat → AtomOp
  cas  : Bool

def AtomSpec.b (p : AtomSpec) (m : MemTurn) : Nat := argN m.vs 1 % 2 ^ (8 * p.n)
def AtomSpec.c (p : AtomSpec) (m : MemTurn) : Nat := if p.cas then argN m.vs 2 % 2 ^ (8 * p.n) else 0
def AtomSpec.op (p : AtomSpec) (m : MemTurn) : AtomOp := p.step (p.b m) (p.c m)
def AtomSpec.event (p : AtomSpec) (m : MemTurn) (addr : Nat) : SigEvent := atomEvent p.opc p.aop p.aty p.n addr (p.b m) (p.c m)

/-- ATOMG, CASG, XCHG (08 R232 to R235). -/
def atomgAct (p : AtomSpec) (d : Opnd) (cp : Cpol) (acq : Bool) (m : MemTurn) (a : Nat) (s : State) : TOut :=
  let tk := (s.group m.gk).team
  gAccess m ⟨a, p.n, cp⟩ p.n ⟨true, true, true, false⟩ (s.settleLoads m.gk false a p.n) (fun x pa s =>
    let dsts := s.loadDsts m.gk m.t d (wordsFor p.n)
    if s.isRerun m.gk then
      loggedBytes s m.gk 0x01 m.tid p.n (fun bs s =>
        match s.replayAtomic m.gk x pa p.n (p.op m) (Word.ofBytes bs) with
        | some s => .ok ((s.pendNow m.gk m.t dsts (wordsFrom bs false)).fold tk (p.event m a))
        | none => waitRoom s m.gk)
    else
      match s.atomicDo m.gk m.t x pa p.n (p.op m) cp acq dsts with
      | some (old, s) => .ok ((s.logAppend m.gk 0x01 m.tid old []).fold tk (p.event m a))
      | none => waitRoom s m.gk)

/-! ## Scratch (08 R220) -/

def scrAccess (m : MemTurn) (a n : Nat) (s : State) (k : ScrAt → State → TOut) : TOut :=
  match s.scrCheck (s.group m.gk).team a n n with
  | .error c => .trap s c (a % 2 ^ 32)
  | .ok p =>
    m.cmp s (fun s =>
      if (s.group m.gk).served then k p (s.modGroup m.gk (fun g => { g with served := false }))
      else
        let at_ := s.cycle + m.pos
        let (c, s) := s.scrRequest (s.team p.tk).core (s.teamOf m.gk).kid (if p.remote then rankRemote else rankLane (s.group m.gk).lane) (scrWordsOf p.off n) at_
        if c = at_ then k p s else .wait (s.parkFor m.gk (.bank c)))

/-- A scratch address with its rank, as a load that is issued again names it. -/
def ScrAt.addr (p : ScrAt) : Nat := p.rank * 2 ^ 24 + p.off

/-- The words of a scratch load with their poison (16 R446). -/
def State.scrWords (s : State) (tk off n : Nat) : List RegWord := loadWords off (s.scrRead tk off n) (fun a => s.scrPois tk a 1)

/-- A remote scratch load makes its target a producer with a scratch dependence (15 R423), which its Sleeve entry shows (15 Table 15.6). -/
def State.scratchDep (s : State) (tk target : Nat) : Option State :=
  let l := s.launch (s.team tk).kid
  let e := (s.team target).sameAs
  if !l.checked || l.r.hold == .none || e = (s.team tk).sameAs || s.resolved e then some s
  else
    (s.addProducers tk [e]).map (fun s =>
      ({ s with sleeve := kvMod s.sleeve (s.team tk).sameAs (fun x => { x with scratchDep := true }) } : State).modTeam tk (fun tm =>
        { tm with chk := { tm.chk with scratchDeps := setInsert tm.chk.scratchDeps e } }))

/-- LDS and LDSX. -/
def ldsAct (d : Opnd) (n : Nat) (m : MemTurn) (a : Nat) (s : State) : TOut :=
  scrAccess m a n s (fun p s =>
    let dsts := s.loadDsts m.gk m.t d (wordsFor n)
    let again : Option Again := some (.scr p.addr n dsts)
    if !p.remote then .ok (s.pendNow m.gk m.t dsts (s.scrWords p.tk p.off n) again)
    else if s.isRerun m.gk then loggedBytes s m.gk 0x03 m.tid n (fun bs s => .ok (s.pendNow m.gk m.t dsts (wordsFrom bs false)))
    else
      match s.scratchDep (s.group m.gk).team p.tk with
      | none => waitRoom s m.gk
      | some s =>
        let again := if (s.launchOf m.gk).checked then none else again
        .ok (logBytes (s.pendNow m.gk m.t dsts (s.scrWords p.tk p.off n) again) m.gk 0x03 m.tid (s.scrRead p.tk p.off n)))

/-- STS and STSX. -/
def stsAct (n : Nat) (m : MemTurn) (a : Nat) (s : State) : TOut :=
  scrAccess m a n s (fun p s =>
    let bs := Word.toBytes n (argN m.vs 1)
    let s := s.settleLoads m.gk true p.addr n
    if !p.remote then .ok (s.scrWrite p.tk p.off bs false)
    else
      let s := s.foldWrite (s.group m.gk).team 0x02 p.off bs (remoteForm p.rank)
      .ok (if s.isRerun m.gk then s else s.scrWrite p.tk p.off bs false))

/-- ATOMS and CASS: the step at the target's scratchpad (08 R233); a poisoned element is left alone (16 R446). -/
def State.scrAtomic (s : State) (tk off n : Nat) (op : AtomOp) : Nat × Bool × State :=
  let old := Word.ofBytes (s.scrRead tk off n)
  if s.scrPois tk off n then (old, true, s)
  else
    let new := atomNew op n old
    (old, false, match op with
      | .cas b _ => if old = b % 2 ^ (8 * n) then s.scrWrite tk off (Word.toBytes n new) false else s
      | _ => s.scrWrite tk off (Word.toBytes n new) false)

def atomsAct (p : AtomSpec) (d : Opnd) (m : MemTurn) (a : Nat) (s : State) : TOut :=
  scrAccess m a p.n s (fun q s =>
    let s := s.settleLoads m.gk true q.addr p.n
    let dsts := s.loadDsts m.gk m.t d (wordsFor p.n)
    let tk := (s.group m.gk).team
    if q.remote && s.isRerun m.gk then
      loggedBytes s m.gk 0x01 m.tid p.n (fun bs s =>
        .ok ((s.pendNow m.gk m.t dsts (wordsFrom bs false)).fold tk (p.event m (remoteForm q.rank q.off))))
    else
      let (old, pois, s) := s.scrAtomic q.tk q.off p.n (p.op m)
      let s := s.pendNow m.gk m.t dsts (wordsFrom (Word.toBytes p.n old) pois)
      .ok (if q.remote then (s.logAppend m.gk 0x01 m.tid old []).fold tk (p.event m (remoteForm q.rank q.off)) else s))

/-! ## Pocket and constants (08 R222) -/

def pocketAccess (m : MemTurn) (a n : Nat) (s : State) (k : State → TOut) : TOut :=
  if (s.roleOf m.gk).pocket < a + n then .trap s 0x21 a
  else if a % n ≠ 0 then .trap s 0x22 a
  else m.cmp s k

def ldkAct (d : Opnd) (n : Nat) (m : MemTurn) (a : Nat) (s : State) : TOut :=
  pocketAccess m a n s (fun s =>
    let f := ((s.group m.gk).thread m.t).pocket
    .ok (s.pendNow m.gk m.t (s.loadDsts m.gk m.t d (wordsFor n)) (loadWords a (fileRead f a n) (fun i => filePois f i))))

def stkAct (n : Nat) (m : MemTurn) (a : Nat) (s : State) : TOut :=
  pocketAccess m a n s (fun s =>
    .ok (s.modThread m.gk m.t (fun th => { th with pocket := fileWrite th.pocket a (Word.toBytes n (argN m.vs 1)) false })))

/-- LDC: the bytes that the launch supplies are read as a global load reads them, through the launch's constant lines of L1 (12 Table 12.1); the
others are 0. -/
def ldcAct (d : Opnd) (n : Nat) (m : MemTurn) (a : Nat) (s : State) : TOut :=
  let r := (s.launchOf m.gk).r
  let dsts := s.loadDsts m.gk m.t d (wordsFor n)
  if 65536 < a + n then .trap s 0x21 a
  else if a % n ≠ 0 then .trap s 0x22 a
  else
    let k := min n (r.constLen - a)
    if k = 0 then m.cmp s (fun s => .ok (s.pendNow m.gk m.t dsts (wordsFrom (List.replicate n 0) false)))
    else
      let va := (r.const + a) % 2 ^ 64
      gAccess m ⟨va, k, .dflt⟩ 1 ⟨true, false, false, false⟩ s (fun x pa s =>
        let c := s.coreOf m.gk
        let line := pa / 64
        let o := pa % 64
        let view : L1View := .const (s.launchOf m.gk).kid
        let l1 := usesL1 .dflt x pa && s.inMap pa && o + k ≤ 64
        let give (ws : List RegWord) (s : State) : TOut := .ok (s.pendNow m.gk m.t dsts (ws ++ List.replicate (wordsFor n - ws.length) RegWord.zero))
        match (if l1 then s.l1Copy c view line else none) with
        | some l => give (loadWords 0 ((l.data.drop o).take k) (fun a => l.pois.contains ((a + o) / 16))) s
        | none =>
          match s.readNow m.gk x pa k (useOf .dflt x pa) with
          | none => waitRoom s m.gk
          | some (ws, s) =>
            let cells := if (s.launchOf m.gk).checked then s.composed (s.group m.gk).team line else s.lineCells line
            give ws (if l1 then s.l1Fill c line view .dflt cells else s))

/-! ## The instructions -/

def loadSpec (f : FM) (abits : Nat) (acq : Bool) (act : MemTurn → Nat → State → TOut) : MemSpec :=
  { once := opIsUniform f.d, dst := (f.d, wordsFor (widthBytes f.width)), srcs := [.reg f.a f.pa (abits / 32) .w], off := extOff f.ext,
    abits := abits, hint := false, wr := false, scope := f.scope, rel := false, acq := acq, act := act }

def storeSpec (f : FM) (abits : Nat) (rel : Bool) (act : MemTurn → Nat → State → TOut) : MemSpec :=
  { once := uniOperand f.a && uniOperand f.d, dst := noDst,
    srcs := [.reg f.a f.pa (abits / 32) .w, .reg f.d 0 (wordsFor (widthBytes f.width)) .w], off := extOff f.ext, abits := abits,
    hint := false, wr := true, scope := f.scope, rel := rel, acq := false, act := act }

def isAcq (o : Ord) : Bool := o = .acquire || o = .acqRel
def isRel (o : Ord) : Bool := o = .release || o = .acqRel

def execLdg (f : FM) (s : State) : Out := runMem f (loadSpec f 64 false (ldgAct f.d (widthBytes f.width) f.cpol)) s
def execLdga (f : FM) (s : State) : Out := runMem f (loadSpec f 64 true (ldgaAct f.d (widthBytes f.width) f.cpol)) s
def execStg (f : FM) (s : State) : Out := runMem f (storeSpec f 64 false (stgAct (widthBytes f.width) f.cpol)) s
def execStgr (f : FM) (s : State) : Out := runMem f (storeSpec f 64 true (stgAct (widthBytes f.width) f.cpol)) s
def execLds (f : FM) (s : State) : Out := runMem f (loadSpec f 32 false (ldsAct f.d (widthBytes f.width))) s
def execLdsx (f : FM) (s : State) : Out := runMem f (loadSpec f 32 false (ldsAct f.d (widthBytes f.width))) s
def execSts (f : FM) (s : State) : Out := runMem f (storeSpec f 32 false (stsAct (widthBytes f.width))) s
def execStsx (f : FM) (s : State) : Out := runMem f (storeSpec f 32 false (stsAct (widthBytes f.width))) s
def execLdk (f : FM) (s : State) : Out := runMem f (loadSpec f 32 false (ldkAct f.d (widthBytes f.width))) s
def execStk (f : FM) (s : State) : Out := runMem f (storeSpec f 32 false (stkAct (widthBytes f.width))) s
def execLdc (f : FM) (s : State) : Out := runMem f (loadSpec f 32 false (ldcAct f.d (widthBytes f.width))) s

/-- An atomic of a global or scratch element of n bytes. -/
def atomicSpec (f : FM) (abits n : Nat) (cf : CFmt) (cas : Bool) (act : MemTurn → Nat → State → TOut) : MemSpec :=
  let w := wordsFor n
  { once := opIsUniform f.d, dst := (f.d, w),
    srcs := [.reg f.a f.pa (abits / 32) .w, .reg f.b 0 w cf] ++ (if cas then [.reg (extC f.ext) 0 w .w] else []),
    off := extOff f.ext, abits := abits, hint := false, wr := true, scope := f.scope, rel := isRel f.ord, acq := isAcq f.ord, act := act }

/-- Floating-point adds of ATOMG and ATOMS give results that depend on the order of arrival (02 Table 2.12, 08 R249). -/
def ordersMatter (f : FM) : Bool := extAop f.ext = 0 && !tyIsInt (tyOfCode (extAty f.ext))

def rmwOf (f : FM) (opc : Nat) : AtomSpec :=
  let ty := tyOfCode (extAty f.ext)
  { opc := opc, aop := extAop f.ext, aty := extAty f.ext, n := tyWidth ty / 8, step := fun b _ => .rmw (extAop f.ext) ty b, cas := false }
def casOf (f : FM) (opc : Nat) : AtomSpec :=
  let ty := tyOfCode (extAty f.ext)
  { opc := opc, aop := extAop f.ext, aty := extAty f.ext, n := tyWidth ty / 8, step := fun b c => .cas b c, cas := true }
def xchgOf (f : FM) : AtomSpec :=
  { opc := 0x174, aop := 0, aty := 0, n := widthBytes f.width, step := fun b _ => .xchg b, cas := false }

def execAtomg (f : FM) (s : State) : Out :=
  let p := rmwOf f 0x170
  let sp := atomicSpec f 64 p.n (tyC (tyOfCode (extAty f.ext))) false (atomgAct p f.d f.cpol (isAcq f.ord))
  runInstr f.h (extSize f.ext) (reproBar (ordersMatter f) sp.check) (sp.body f.h.pcl) s
def execCasg (f : FM) (s : State) : Out :=
  let p := casOf f 0x172
  runMem f (atomicSpec f 64 p.n .w true (atomgAct p f.d f.cpol (isAcq f.ord))) s
def execXchg (f : FM) (s : State) : Out :=
  let p := xchgOf f
  runMem f (atomicSpec f 64 p.n .w false (atomgAct p f.d f.cpol (isAcq f.ord))) s
def execAtoms (f : FM) (s : State) : Out :=
  let p := rmwOf f 0x171
  let sp := atomicSpec f 32 p.n (tyC (tyOfCode (extAty f.ext))) false (atomsAct p f.d)
  runInstr f.h (extSize f.ext) (reproBar (ordersMatter f) sp.check) (sp.body f.h.pcl) s
def execCass (f : FM) (s : State) : Out :=
  let p := casOf f 0x173
  runMem f (atomicSpec f 32 p.n .w true (atomsAct p f.d)) s

/-- RED (08 R236): with uniform operands it executes once. -/
def execRed (f : FM) (s : State) : Out :=
  let ty := tyOfCode (extAty f.ext)
  let tag : RedTag := ⟨extAop f.ext, ty⟩
  runMem f
    { once := uniOperand f.a && uniOperand f.b, dst := noDst, srcs := [.reg f.a f.pa 2 .w, .reg f.b 0 (wordsFor (tyWidth ty / 8)) (tyC ty)],
      off := extOff f.ext, abits := 64, hint := false, wr := true, scope := f.scope, rel := isRel f.ord, acq := false,
      act := redAct tag f.cpol } s

end Sys2Proof.Machine
end

