-- ==== Sys2Proof/Machine/EngineAccess.lean ====
section
/-!
DEFINITION. Accesses of the engines that act for a team (12 R326, R348; 16 R446): global reads and writes that L1 does not see,
protected units (18 R498 to R500), and scratch by chunks and words.
-/
namespace Sys2Proof.Machine
open Sys2Proof

/-- Bytes that an engine has read, each with its poison. -/
abbrev EBytes := List Seen

def cellBytes (c : EBytes) : List Byte := c.map (·.b)
def plainCells (bs : List Byte) (p : Bool) : EBytes := bs.map (fun b => ⟨b, p, []⟩)

/-- Read device memory for a team: composed with the Apron in a checked launch; none means that it waits (15 R423). -/
def State.homeCells (s : State) (tk pa n : Nat) (u : L2Use := .hit) : Option (EBytes × State) :=
  if (s.launch (s.team tk).kid).checked then s.heldRead tk pa n u
  else
    let s := (linesOf pa n).foldl (fun s l => (s.settle l).l2Touch l u) s
    some ((List.range n).map (fun i => ⟨s.memByte (pa + i), s.memPois (pa + i) 1, []⟩), s)

/-- Write device memory for a team: held where its stores are held (15 R422). -/
def State.homePut (s : State) (tk pa : Nat) (bs : List Byte) (pois : Bool) (u : L2Use := .alloc 1) : Option State :=
  if (linesOf pa bs.length).any (fun l => s.mustHold tk l (if l = pa / 64 then pa % 64 else 0) bs.length) then
    (s.roomFor tk pa bs.length (kindOfRun (s.team tk).kind)).map (fun s => s.heldWrite tk pa bs pois)
  else some ((s.noteUnheld tk).rawWrite pa bs pois u)

/-- A global read of an engine by physical address. -/
def State.engineRead (s : State) (tk : Nat) (x : Xlat) (pa n : Nat) (cp : Cpol := .dflt) : Option (EBytes × State) :=
  if outside x pa then s.outRead tk x.host pa n
  else if !s.inMap pa then some (plainCells (List.replicate n 0) true, s.badPa pa)
  else s.homeCells tk pa n (useOf cp x pa)

/-- A global write of an engine within one 16-byte chunk; to host or peer memory it is held as a group's is (12 R352). -/
def State.engineWrite (s : State) (tk : Nat) (x : Xlat) (pa va : Nat) (bs : List Byte) (pois : Bool) (cp : Cpol := .dflt) : Option State :=
  if outside x pa then
    let line := outLine x.host pa
    if (s.launch (s.team tk).kid).checked && s.mustHold tk line (pa % 64) bs.length then
      (s.versionRoom tk (kindOfRun (s.team tk).kind) line).map (fun s => s.heldWriteLine tk line (pa % 64) bs pois)
    else
      let (refused, s) := physWrite (s.noteUnheld tk) x.host pa bs pois
      some (if refused then s.lostStore tk va 0 else s)
  else if !s.inMap pa then some (s.badPa pa)
  else s.homePut tk pa bs pois (useOf cp x pa)

/-- The parts of n bytes from an address that lie in each aligned grain. -/
def grains (g a n : Nat) : List (Nat × Nat) :=
  (List.range ((a + n + g - 1) / g - a / g)).map (fun i =>
    let lo := max a (g * (a / g + i))
    let hi := min (a + n) (g * (a / g + i) + g)
    (lo - a, hi - lo))

/-- Write bytes with their poison, chunk by 16-byte chunk (16 R446). -/
def State.engineStore (s : State) (tk : Nat) (x : Xlat) (pa va : Nat) (c : EBytes) (cp : Cpol := .dflt) : Option State :=
  (grains 16 pa c.length).foldl (fun s g =>
    let part := (c.drop g.1).take g.2
    s.bind (fun s => s.engineWrite tk x (pa + g.1) (va + g.1) (cellBytes part) (part.any (·.pois)) cp)) (some s)

/-! ## Scratch -/

/-- The team and offset that a scratch address of a checked descriptor names (08 R220). -/
def State.scrPlace (s : State) (tk addr : Nat) : ScrAt :=
  let tm := s.team tk
  let a := addr % 2 ^ 32
  let rank := a / 2 ^ 24
  if rank = 0xFF || rank = tm.grank then ⟨tk, a % 2 ^ 24, tm.grank, false⟩
  else ⟨(s.gang tm.gang).members.getD rank 0, a % 2 ^ 24, rank, true⟩

/-- Read scratch with the poison of each word. -/
def State.scrCells (s : State) (tk off n : Nat) : EBytes :=
  let f := (s.team tk).scratch
  (List.range n).map (fun i => ⟨fileByte f (off + i), filePois f (off + i), []⟩)

/-- An engine writes scratch with poison, word by word (16 R446), through the scratchpad's banks (12 R325). -/
def State.scrStore (s : State) (tk off : Nat) (c : EBytes) : State :=
  let s := s.scrEngine tk off c.length
  if !c.any (·.pois) then s.scrWrite tk off (cellBytes c) false
  else
    (grains 4 off c.length).foldl (fun s g =>
      let part := (c.drop g.1).take g.2
      s.scrWrite tk (off + g.1) (cellBytes part) (part.any (·.pois))) s

/-- Count bytes that an engine of a team has written into a barrier (09 R257, R268); a later run has no partner's barrier. -/
def State.countInto (s : State) (tk : Nat) (bar : Option Nat) (n : Nat) : State :=
  match bar with
  | none => s
  | some a =>
    let p := s.scrPlace tk a
    if n = 0 || (p.remote && (s.team tk).kind ≠ .original) then s else s.barCount p.tk p.off n p.remote

/-! ## Protected units (18 R499, R500) -/

/-- The place of a unit's MAC (18 R499). -/
def macAt (pa : Nat) : Nat := 0x4FC00000000 + 8 * (pa / 256)
def macOf (k : KeySlot) (base : Nat) (cipher : List Byte) : List Byte := (Config.aesCmac k.mac (Word.toBytes 8 base ++ cipher)).take 8

/-- The plaintext of a unit, after its MAC has been verified; none within: it does not verify; none: it waits. -/
def State.unitPlain (s : State) (tk : Nat) (k : KeySlot) (base : Nat) : Option (Option (List Byte) × State) :=
  (s.homeCells tk base 256).bind (fun r =>
    (r.2.homeCells tk (macAt base) 8).map (fun m =>
      let cipher := cellBytes r.1
      (if cellBytes m.1 = macOf k base cipher && !r.1.any (·.pois) && !m.1.any (·.pois) then some (Config.xtsDecrypt k.xts (base / 256) cipher) else none, m.2)))

/-- Encrypt a unit and write it with its MAC. -/
def State.unitWrite (s : State) (tk : Nat) (k : KeySlot) (base : Nat) (plain : List Byte) : Option State :=
  let cipher := Config.xtsEncrypt k.xts (base / 256) plain
  (s.homePut tk base cipher false).bind (fun s => s.homePut tk (macAt base) (macOf k base cipher) false)

/-! ## Translation for an engine -/

/-- What the check of an engine's global access comes to. -/
inductive ERes where
  | ok (x : Xlat) (pa : Nat) (s : State)
  | fault (s : State)
  | denied (code : Nat) (s : State)

/-- Translate at the core of a team and check the page (16 R451; 09 R258, R260); `crypt` says that the access is to a protected
page.  A narrowed request of the mover is counted in cpdg (08 R230). -/
def State.engineCheck (s : State) (tk va : Nat) (cp : Cpol) (write crypt : Bool) : ERes :=
  let core := (s.team tk).core
  if 2 ^ 57 ≤ va then .denied 0x21 s
  else
    match translate s core (s.tenantOfTeam tk) va 1 with
    | (.unmapped _, s) => .fault s
    | (.ok x _, s) =>
      let pa := x.phys va
      if (if write then !x.w else !x.r) then .denied 0x21 s
      else if (x.attr == .prot) ≠ crypt then .denied 0x23 s
      else
        let attr := effAttr x pa
        .ok x pa (if narrowHint cp && (attr = .uc || attr = .dev) then s.modCore core (fun k => { k with cpdg := k.cpdg + 1 }) else s)

end Sys2Proof.Machine
end

