-- ==== Sys2Proof/Machine/MatrixMath.lean ====
section
/-!
DEFINITION. The arithmetic of the matrix engine: tile elements (02 R69, R70; 10 R281), the chunked sums of an accumulator element
(02 R82 to R86), and the conversions of loads and drains (10 R288, R298, R299).
-/
namespace Sys2Proof.Machine
open Sys2Proof

/-! ## Register files from bytes -/

/-- The words of bytes with poison, from word 0. -/
def fileOfCells (c : EBytes) : RegFile :=
  (List.range ((c.length + 3) / 4)).foldl (fun f i =>
    let w := (c.drop (4 * i)).take 4
    kvPut RegWord.zero f i ⟨BitVec.ofNat 32 (Word.ofBytes (cellBytes w)), w.any (·.pois)⟩) []

/-- Bytes of a file with their poison. -/
def fileCells (f : RegFile) (off n : Nat) : EBytes := (List.range n).map (fun i => ⟨fileByte f (off + i), filePois f (off + i), []⟩)

/-! ## Tile elements -/

/-- The scale of a block (02 R69): 2^(X - 127), or NaN for 0xFF. -/
def scaled (x : Nat) (v : FVal) : FVal :=
  if x = 0xFF then .nan false
  else
    match v with
    | .fin n m e => .fin n m (e + x - 127)
    | v => v

/-- Element k of row r of a tile as the floating-point values that it stands for: one, or hi and lo of an f32s pair. -/
def Tile.elem (t : Tile) (tag bytes r k : Nat) : List FVal :=
  let b (i : Nat) : Nat := (fileByte t.data (r * bytes + i)).toNat
  let h (i : Nat) : Nat := b i + 256 * b (i + 1)
  match tag with
  | 0x8 => [dec16 .bf16 (h (4 * k)), dec16 .bf16 (h (4 * k + 2))]
  | 0xA => [dec16 .bf16 (h (2 * k))]
  | 0xB => [dec16 .f16 (h (2 * k))]
  | 0xC => [dec16 .e4m3 (b k)]
  | 0xD => [dec16 .e5m2 (b k)]
  | 0xE => [scaled (fileByte t.side (16 * r + k / 32)).toNat (dec16 .e2m1 (b (k / 2) / 2 ^ (4 * (k % 2)) % 16))]
  | _ => []
where dec16 (f : Fmt) (x : Nat) : FVal := FVal.decode f x

/-- Element k of row r of an s8 tile. -/
def Tile.int (t : Tile) (bytes r k : Nat) : Int := Word.toSigned 8 (fileByte t.data (r * bytes + k)).toNat

/-- Whether row r of a tile, or its scales, hold poison. -/
def Tile.rowPois (t : Tile) (tag bytes r : Nat) : Bool :=
  filePoisAny t.data (r * bytes) bytes || (tag = 0xE && filePoisAny t.side (16 * r) (bytes / 16))

/-- The logical position of stored element k of a sparse row (10 R293). -/
def sparsePos (md : List (Byte × Bool)) (row0 k : Nat) : Nat :=
  let g := k / 2
  let nib := ((md.getD (row0 + g / 2) (0, false)).1.toNat / 2 ^ (4 * (g % 2))) % 16
  4 * g + (if k % 2 = 0 then nib % 4 else nib / 4)

/-- The bytes of metadata in one row. -/
def MmaOp.metaRow (o : MmaOp) : Nat := o.k / 8

/-- The stored element of row i of A that stands at logical position k; none where the metadata of an MMAS implies a zero (10 R293). -/
def MmaOp.storedA (o : MmaOp) (i k : Nat) : Option Nat :=
  match o.sparse with
  | none => some k
  | some md => [k / 4 * 2, k / 4 * 2 + 1].find? (fun x => sparsePos md (i * o.metaRow) x == k)

/-- A zero operand as the values that an element of a tag stands for (02 R82, R86). -/
def zeroElem (tag : Nat) : List FVal := if tag = 0x8 then [.fin false 0 0, .fin false 0 0] else [.fin false 0 0]

/-- Element (i, k) of A as R82 multiplies it: the zeros that the metadata implies are operands like others. -/
def MmaOp.elemA (o : MmaOp) (ta : Tile) (i k : Nat) : List FVal :=
  match o.storedA i k with
  | some x => ta.elem o.tagA o.bytesA i x
  | none => zeroElem o.tagA

def MmaOp.intA (o : MmaOp) (ta : Tile) (i k : Nat) : Int :=
  match o.storedA i k with
  | some x => ta.int o.bytesA i x
  | none => 0

/-- The product terms of one k (02 R82, R86). -/
def productTerms (a b : List FVal) : List Term :=
  match a, b with
  | [x], [y] => [Term.mul x y]
  | [xh, xl], [yh, yl] => [Term.mul xh yh, Term.mul xh yl, Term.mul xl yh]
  | _, _ => []

/-- The tiles of an operation's B operand by column (10 R291). -/
def MmaOp.rowB (o : MmaOp) (j : Nat) : Nat × Nat := if o.reg.n = 256 && 128 ≤ j then (o.tb + 1, j - 128) else (o.tb, j)

/-- One accumulator element of an MMA under 02 R82, R84 or R86, with its flags. -/
def MmaOp.element (o : MmaOp) (q : Quad) (acc i j : Nat) : Nat × FFlags :=
  let ta := q.tile o.ta
  let (nb, rb) := o.rowB j
  let tb := q.tile nb
  if o.tagA = 0x6 then
    let sum := ((List.range o.k).map (fun k => o.intA ta i k * tb.int o.bytesB rb k)).sum
    (Word.ofSigned 32 (Word.toSigned 32 acc + sum), 0)
  else
    (List.range ((o.k + 31) / 32)).foldl (fun (x : Nat × FFlags) c =>
      let ts := ((List.range o.k).filter (fun k => k / 32 = c)).flatMap (fun k =>
        productTerms (o.elemA ta i k) (tb.elem o.tagB o.bytesB rb k))
      let r := fused .f32 .rne (Term.of (FVal.decode .f32 x.1) :: ts)
      (r.bits, x.2 ||| r.flags)) (acc, 0)

/-- Whether an element of an MMA is computed from poison (10 R302). -/
def MmaOp.poisoned (o : MmaOp) (q : Quad) (i j : Nat) : Bool :=
  let (nb, rb) := o.rowB j
  (q.tile o.ta).rowPois o.tagA o.bytesA i || (q.tile nb).rowPois o.tagB o.bytesB rb
    || (match o.sparse with | some md => ((md.drop (i * o.metaRow)).take o.metaRow).any (·.2) | none => false)

/-- Whether a group of metadata is malformed: p0 not below p1 (10 R293). -/
def metaBad (bs : List Byte) : Bool :=
  bs.any (fun b =>
    let x := b.toNat
    decide (x / 4 % 4 ≤ x % 4) || decide (x / 64 ≤ x / 16 % 4))

/-! ## Loads -/

/-- SPLIT of 02 R85, as the 4 bytes of a pair, hi first. -/
def splitF32 (x : Nat) : Nat :=
  match FVal.decode .f32 x with
  | .nan _ => 0x7FC0
  | .inf n => if n then 0xFF80 else 0x7F80
  | .fin n 0 _ => if n then 0x8000 else 0
  | .fin n m e =>
    let r := roundMag .bf16 .rne n m e
    let hi := Fmt.signed .bf16 n (if r.ovf then Fmt.bf16.maxC else r.code)
    let lo := (fused .bf16 .rne [Term.of (.fin n m e), Term.of (FVal.decode .bf16 hi).neg]).bits
    hi + 65536 * lo

/-- Four bytes of an f32 become a pair. -/
def splitCells (c : EBytes) : EBytes :=
  (List.range (c.length / 4)).flatMap (fun i =>
    let w := (c.drop (4 * i)).take 4
    plainCells (Word.toBytes 4 (splitF32 (Word.ofBytes (cellBytes w)))) (w.any (·.pois)))

/-- One element of TLDQ (10 R288): (q - z) × sc rounded to bf16. -/
def dequant (x : Nat) (p : EBytes) : EBytes :=
  let w := Word.ofBytes (cellBytes p)
  let d : Int := (x : Int) - (Word.bits w 19 16 : Nat)
  let r := fused .bf16 .rne [Term.mul (.fin (decide (d < 0)) d.natAbs 0) (FVal.decode .bf16 (w % 65536))]
  plainCells (Word.toBytes 2 r.bits) (p.any (·.pois))

/-! ## Drains (10 R299, R300) -/

/-- An accumulator element as an exact value. -/
def accVal (tag x : Nat) : FVal :=
  if tag = 8 then FVal.decode .f32 x
  else
    let i := Word.toSigned 32 x
    .fin (decide (i < 0)) i.natAbs 0

/-- q of a drained element; a NaN or 0 × ∞ raises NV. -/
def drainQ (tag scale x : Nat) : FVal × FFlags :=
  let t := Term.mul (accVal tag x) (FVal.decode .f32 scale)
  (t.v, flagIf t.v.isNan flagNV)

/-- |q| rounded to f32, as bits; a NaN gives the canonical NaN (10 R300). -/
def drainAbs (q : FVal) : Nat :=
  match q with
  | .nan _ => 0x7FC00000
  | .inf _ => 0x7F800000
  | .fin _ m e => (roundFmt .f32 .rne false m e).bits

/-- q converted by FMT 0 to 3, as bytes. -/
def drainConv (fmt : Nat) (sat : Bool) (q : FVal) : Nat × FFlags :=
  let q := match q with | .nan _ => .nan false | v => v
  let r := match fmt with
    | 0 => convFF .f32 .rne false q
    | 1 => convFF .bf16 .rne false q
    | 2 => convFF .e4m3 .rne sat q
    | _ => convFF .e5m2 .rne sat q
  (r.bits, r.flags)

/-- FLOOR(LOG2 |q|) of a finite value that is not 0. -/
def floorLog2 : FVal → Option Int
  | .fin _ m e => if m = 0 then none else some (e + Nat.log2 m)
  | _ => none

/-- The scale of a block of an mx4 drain. -/
def drainScale (qs : List FVal) : Nat :=
  if qs.any FVal.isNan then 0xFF
  else if qs.any FVal.isInf then 254
  else
    match qs.filterMap floorLog2 with
    | [] => 0
    | l :: ls => (clampInt 0 254 (ls.foldl max l - 2 + 127)).toNat

/-- One element of an mx4 block under its scale: its 4 bits.  An infinite element saturates to 6 and raises no flag, as an infinity does
in 02 Table 2.6 under SAT (log 24). -/
def drainMx4 (x : Nat) (q : FVal) : Nat × FFlags :=
  if x = 0xFF then (0, 0)
  else
    match q with
    | .nan _ => (0, 0)
    | .inf n => (Fmt.signed .e2m1 n 7, 0)
    | .fin n m e =>
      let r := roundFmt .e2m1 .rne n m (e - x + 127)
      (r.bits, r.flags)

end Sys2Proof.Machine
end

