-- ==== Sys2Proof/Machine/Mover.lean ====
section
/-!
DEFINITION. The mover: descriptors and their checks, CPY, CPYG, CPYS, CPYF, CPYQ, and the mover's own steps (09 R253 to R263, R278).
-/
namespace Sys2Proof.Machine
open Sys2Proof

/-! ## Descriptors (09 Table 9.2 to 9.4) -/

def cpolOfNat (n : Nat) : Cpol :=
  match n with | 0 => .dflt | 1 => .stream | 2 => .keep | 3 => .noL1 | 4 => .noAlloc | 5 => .rsv5 | 6 => .rsv6 | _ => .rsv7

/-- Which of the three instructions issues a descriptor. -/
inductive CpyKind where
  | box | gather | scatter
deriving DecidableEq, Repr

/-- Field i of n bytes at an offset of a descriptor. -/
def descField (bs : List Byte) (off n i : Nat) : Nat := Word.ofBytes ((bs.drop (off + n * i)).take n)

/-- The fields of a descriptor. -/
def descOf (k : CpyKind) (bs : List Byte) : Desc :=
  let f := descField bs
  let ctrl := f 16 4 0
  let bar := f 12 4 0
  let es := Word.bits ctrl 9 7
  { kind := ctrl % 16
    rows := if k = .box then none else some (f 48 4 0)
    scatter := k == .scatter
    gaddr := f 0 8 0
    saddr := f 8 4 0
    bar := if bar = 0xFFFFFFFF then none else some bar
    cpol := Word.bits ctrl 16 14
    enc := Word.bit ctrl 13
    dec := Word.bit ctrl 12
    digest := if Word.bit ctrl 10 then some (Word.bit ctrl 11, f 56 8 0) else none
    esize := es
    ndim := Word.bits ctrl 6 4
    ext := (List.range 5).map (f 20 2)
    gstr := 2 ^ es :: (List.range 4).map (fun i => 16 * f 32 4 i)
    sstr := 2 ^ es :: (if k = .box then (List.range 4).map (fun i => 16 * f 48 2 i) else [16 * f 52 2 0, 0, 0, 0]) }

/-- Whether the global side is the destination: kind 1, and CPYS. -/
def Desc.out (d : Desc) : Bool := d.kind = 1 || d.scatter
def Desc.extAt (d : Desc) (k : Nat) : Nat := d.ext.getD k 0
/-- Bytes of a row, and of the box (09 R253). -/
def Desc.row (d : Desc) : Nat := d.extAt 0 * 2 ^ d.esize
def Desc.dims (d : Desc) : List Nat := (List.range d.ndim).map (· + 1)
def Desc.total (d : Desc) : Nat := d.dims.foldl (fun n k => n * d.extAt k) d.row
/-- Bytes from the first to the last byte of a box under the strides of a side. -/
def Desc.span (d : Desc) (str : List Nat) : Nat :=
  if d.total = 0 then 0 else d.dims.foldl (fun n k => n + (d.extAt k - 1) * str.getD k 0) d.row

/-- A scratch span, unless it is empty, that leaves its team's scratch, or whose rank names no gang member. -/
def State.scrBad (s : State) (tk a n : Nat) : Bool :=
  let tm := s.team tk
  let rank := a % 2 ^ 32 / 2 ^ 24
  (n ≠ 0 && tm.scratchSize < a % 2 ^ 24 + n) || (rank ≠ 0xFF && rank ≠ tm.grank && (s.launch tm.kid).r.gang ≤ rank)

/-- Table 9.4: whether a descriptor fails. -/
def State.descFails (s : State) (tk : Nat) (k : CpyKind) (bs : List Byte) : Bool :=
  let d := descOf k bs
  let ctrl := descField bs 16 4 0
  let dst := if d.out then d.gstr else d.sstr
  let dig := descField bs 56 8 0
  let remote (a : Nat) : Bool := (s.scrPlace tk a).remote
  2 ^ 17 ≤ ctrl || descField bs 30 2 0 ≠ 0 || (k ≠ .box && (descField bs 54 2 0 ≠ 0 || d.kind ≠ 0 || d.ndim ≠ 1))
    || 2 < d.kind || 4 < d.ndim || 4 < d.esize || 4 < d.cpol
    || 2 ^ (if d.kind = 2 then 32 else 57) ≤ d.gaddr
    || (d.dec && d.enc) || (d.dec && d.kind ≠ 0) || (d.enc && d.kind ≠ 1) || ((d.dec || d.enc) && !s.confid)
    || [1, 2, 3, 4].any (fun k => d.ndim < k && d.extAt k ≠ 0)
    || d.gaddr % 16 ≠ 0 || d.saddr % 16 ≠ 0 || dig % 16 ≠ 0
    || (match d.bar with | some b => b % 16 ≠ 0 || s.scrBad tk b 16 | none => false)
    || d.dims.any (fun k => 1 < d.extAt k && dst.getD k 0 < dst.getD (k - 1) 0 * d.extAt (k - 1))
    || s.scrBad tk d.saddr (d.span d.sstr) || (d.kind = 2 && s.scrBad tk d.gaddr (d.span d.gstr))
    || (match d.rows with | some i => s.scrBad tk i (4 * d.extAt 1) || remote i | none => false)
    || (match d.digest with | some (true, a) => s.scrBad tk a 16 | _ => false)
    || (d.kind ≠ 2 && remote d.saddr)
    || (k = .box && d.kind ≠ 2 && d.total ≠ 0 && 2 ^ 57 < d.gaddr + d.span d.gstr)

/-- The two addresses of row r, with the row's index for CPYG and CPYS (09 R253, R254). -/
def Desc.rowAt (d : Desc) (r idx : Nat) : Nat × Nat :=
  if d.rows.isSome then (d.gaddr + d.gstr.getD 1 0 * idx, d.saddr + d.sstr.getD 1 0 * r)
  else
    let x := d.dims.foldl (fun (x : Nat × Nat × Nat) k =>
      let i := x.1 % d.extAt k
      (x.1 / d.extAt k, x.2.1 + i * d.gstr.getD k 0, x.2.2 + i * d.sstr.getD k 0)) (r, 0, 0)
    (d.gaddr + x.2.1, d.saddr + x.2.2)

/-! ## The descriptors of a core -/

def State.move (s : State) (c id : Nat) : Option Move := (s.core c).moves.find? (fun m => m.id == id)
def State.setMove (s : State) (c : Nat) (m : Move) : State :=
  s.modCore c (fun k => { k with moves := k.moves.map (fun x => if x.id = m.id then m else x) })
def State.delMove (s : State) (c id : Nat) : State := s.modCore c (fun k => { k with moves := k.moves.filter (fun m => m.id ≠ id) })

/-- A record of the mover about a descriptor. -/
def State.moverRecord (s : State) (m : Move) (typ code addr : Nat) (f : ErrRec → ErrRec) : State :=
  s.raise (some m.team) (f { ErrRec.ofTeam s m.team typ 9 with code := code, addr := addr, gid := (s.group m.gk).gid, lane := (s.group m.gk).lane })

/-- A descriptor is done or aborted: it leaves, its team is woken, its group may go on (01 R45, 04 R156). -/
def State.endMove (s : State) (c : Nat) (m : Move) : State := ((s.delMove c m.id).wakeTeam m.team).unpark m.gk

/-- The signature events of bytes that a descriptor has written, one for each destination chunk (09 R278, 15 R407): `at_` is where the first of
`bs` stands in the destination row, whose start is a multiple of 16; `last` says that no more bytes of the row follow.  The bytes of a chunk
that is not complete are kept. -/
def State.moveEvents (s : State) (m : Move) (at_ : Nat) (bs : List Byte) (last : Bool) : Move × State :=
  let all := m.tail ++ bs
  let n := if last then all.length else all.length / 16 * 16
  let p := s.scrPlace m.team at_
  let start (a : Nat) : Nat := a - m.tail.length
  let s := if n = 0 then s
    else if m.d.out then s.foldWrite m.team 0x01 (start at_) (all.take n) id
    else if p.remote then s.foldWrite m.team 0x02 (start p.off) (all.take n) (remoteForm p.rank)
    else s
  ({ m with tail := all.drop n }, s)

/-- The place of a descriptor's next byte: its row, the offset in it, and the two addresses of the row. -/
def Move.spot (m : Move) : Nat × Nat × Nat × Nat := (m.pos / m.d.row, m.pos % m.d.row, m.d.rowAt (m.pos / m.d.row) m.idx)

/-- ABORT (09 R260): what has been written stays written, and has its events. -/
def State.abortMove (s : State) (c : Nat) (m : Move) (code addr : Nat) : State :=
  let (_, o, ga, sa) := m.spot
  let (m, s) := if m.tail.isEmpty then (m, s) else s.moveEvents m ((if m.d.out then ga else sa) + o) [] true
  let s := s.moverRecord m recCOPY_ABORT code addr id
  let s := s.modGroup m.gk (fun g => { g with aborts := g.aborts + 1 })
  let s : State := match m.d.bar with
    | some a =>
      let p := s.scrPlace m.team a
      if p.remote && (s.team m.team).kind ≠ .original then s else s.barError p.tk p.off
    | none =>
      (s.moverRecord m recDEFERRED 0x31 0 id).modGroup m.gk (fun g => { g with copyAborts := g.copyAborts ++ [true] })
  s.endMove c m

/-- A page fault (09 R258): the descriptor waits in the fault queue. -/
def State.faultMove (s : State) (c : Nat) (m : Move) (va : Nat) : State :=
  let fd := s.faultDetail (Config.dieOf c) (s.tenantOfTeam m.team) va
  (s.moverRecord m recFAULT 0x20 va (fun r => { r with extra := fd.entry, detail := fd.level, poison := fd.pois })).setMove c { m with st := .faulted va }

/-! ## The digest (09 R259) -/

/-- Take bytes into the digest; n chunks have been taken before. -/
def Move.feed : Nat → Nat → Move → Move
  | 0, _, m => m
  | fuel + 1, n, m =>
    if m.carry.length < 16 then m
    else
      let lo := BitVec.ofNat 64 (Word.ofBytes (m.carry.take 8))
      let hi := BitVec.ofNat 64 (Word.ofBytes ((m.carry.drop 8).take 8))
      Move.feed fuel (n + 1) { m with h0 := m.h0 + mix64 (lo ^^^ BitVec.ofNat 64 (2 * n))
                                      h1 := m.h1 + mix64 (hi ^^^ BitVec.ofNat 64 (2 * n + 1)), carry := m.carry.drop 16 }

def Move.take (m : Move) (bs : List Byte) : Move :=
  let n := (m.pos - m.carry.length) / 16
  Move.feed (bs.length / 16 + 1) n { m with carry := m.carry ++ bs, pos := m.pos + bs.length }

/-- The digest word. -/
def Move.digestWord (m : Move) : List Byte :=
  let pad := (16 - m.carry.length % 16) % 16
  let f := Move.feed 1 ((m.pos - m.carry.length) / 16) { m with carry := m.carry ++ List.replicate pad 0 }
  Word.toBytes 8 (f.h0 ^^^ BitVec.ofNat 64 m.d.total).toNat ++ Word.toBytes 8 f.h1.toNat

/-! ## Moving bytes -/

/-- What a part of a step comes to. -/
inductive MRes (α : Type) where
  | ok (a : α) (s : State)
  | fault (va : Nat) (s : State)
  | abort (code va : Nat) (s : State)
  | wait

def MRes.bind {α β : Type} (r : MRes α) (f : α → State → MRes β) : MRes β :=
  match r with
  | .ok a s => f a s
  | .fault va s => .fault va s
  | .abort c va s => .abort c va s
  | .wait => .wait

def MRes.ofOption {α : Type} (o : Option (α × State)) : MRes α := match o with | some (a, s) => .ok a s | none => .wait

/-- The check of the mover's access to a global address. -/
def State.moverCheck (s : State) (m : Move) (va : Nat) (write crypt : Bool) : MRes (Xlat × Nat) :=
  match s.engineCheck m.team va (cpolOfNat m.d.cpol) write crypt with
  | .ok x pa s => .ok (x, pa) s
  | .fault s => .fault va s
  | .denied c s => .abort c va s

/-- A verified protected unit of the descriptor's tenant (18 R498, R500). -/
def State.moverUnit (s : State) (m : Move) (va pa : Nat) : MRes (KeySlot × List Byte) :=
  match kvGet s.keys (s.tenantOfTeam m.team) with
  | none => .abort 0x23 va s
  | some k =>
    match s.unitPlain m.team k (pa / 256 * 256) with
    | none => .wait
    | some (none, s) => .abort 0x23 va s
    | some (some p, s) => .ok (k, p) s

/-- Read n bytes of the global side. -/
def State.moverRead (s : State) (m : Move) (va n : Nat) : MRes EBytes :=
  (s.moverCheck m va false m.d.dec).bind (fun x s =>
    if m.d.dec then (s.moverUnit m va x.2).bind (fun u s => .ok (plainCells ((u.2.drop (x.2 % 256)).take n) false) s)
    else MRes.ofOption (s.engineRead m.team x.1 x.2 n (cpolOfNat m.d.cpol)))

/-- Write bytes to the global side; a part of a protected unit is merged into it (18 R500). -/
def State.moverWrite (s : State) (m : Move) (va : Nat) (c : EBytes) : MRes Unit :=
  (s.moverCheck m va true m.d.enc).bind (fun x s =>
    if m.d.enc then
      let o := x.2 % 256
      let base := x.2 / 256 * 256
      let put (k : KeySlot) (old : List Byte) (s : State) : MRes Unit :=
        MRes.ofOption ((s.unitWrite m.team k base (old.take o ++ cellBytes c ++ old.drop (o + c.length))).map (fun s => ((), s)))
      match kvGet s.keys (s.tenantOfTeam m.team) with
      | none => .abort 0x23 va s
      | some k => if c.length = 256 then put k [] s else (s.moverUnit m va x.2).bind (fun u s => put k u.2 s)
    else MRes.ofOption ((s.engineStore m.team x.1 x.2 va c (cpolOfNat m.d.cpol)).map (fun s => ((), s))))

/-- Fill the original's log record of a kind 2 copy with bytes that the mover read (15 R411). -/
def State.fillLog (s : State) (m : Move) (pos : Nat) (bs : List Byte) : State :=
  match m.logAt with
  | none => s
  | some i =>
    let gid := (s.group m.gk).gid
    { s with sleeve := kvMod s.sleeve (s.team m.team).sameAs (fun e =>
        let log := kvGetD [] e.logs gid
        { e with logs := kvSet e.logs gid (log.take (i + 16 + pos) ++ bs ++ log.drop (i + 16 + pos + bs.length)) }) }

/-- The bytes of the source side of a piece. -/
def State.pieceRead (s : State) (m : Move) (ga sa n : Nat) : MRes EBytes :=
  if m.d.out then .ok (s.scrCells m.team (sa % 2 ^ 24) n) (s.scrEngine m.team (sa % 2 ^ 24) n)
  else if m.d.kind = 2 then
    match m.log with
    | some bs => .ok (plainCells ((bs.drop m.pos).take n) false) s
    | none =>
      let p := s.scrPlace m.team ga
      let c := s.scrCells p.tk p.off n
      .ok c ((s.scrEngine p.tk p.off n).fillLog m m.pos (cellBytes c))
  else s.moverRead m ga n

/-- Write the destination side of a piece. -/
def State.pieceWrite (s : State) (m : Move) (ga sa : Nat) (c : EBytes) : MRes Unit :=
  if m.d.out then s.moverWrite m ga c
  else
    let p := s.scrPlace m.team sa
    .ok () (if p.remote && (s.team m.team).kind ≠ .original then s else s.scrStore p.tk p.off c)

/-- The bytes of the next piece: within a row, within a line of the global side, and up to the next multiple of 64 of the box; but a protected unit
moves whole unless the descriptor is being stopped (09 R257, R261, 18 R500). -/
def Move.pieceLen (m : Move) (ga : Nat) (stop : Bool) : Nat :=
  let left := m.d.row - m.pos % m.d.row
  let box := 64 - m.pos % 64
  min left (if m.d.kind = 2 then box
    else if m.d.enc || m.d.dec then (if stop then min box (256 - ga % 256) else 256 - ga % 256)
    else min box (64 - ga % 64))

/-- Move the next piece of a descriptor: it is written, taken into the digest and counted, but for the box's last byte where a digest word is
still to come (09 R257, R259). -/
def State.movePiece (s : State) (c : Nat) (m : Move) (stop : Bool := false) : Option State :=
  let r := m.pos / m.d.row
  let o := m.pos % m.d.row
  let m := match m.d.rows with
    | some i => if o = 0 then { m with idx := Word.ofBytes (s.scrRead m.team (i % 2 ^ 24 + 4 * r) 4) } else m
    | none => m
  let (ga, sa) := m.d.rowAt r m.idx
  if m.d.rows.isSome && 2 ^ 57 < ga + m.d.row then some (s.abortMove c m 0x21 ga)
  else
    let n := m.pieceLen (ga + o) stop
    match (s.pieceRead m (ga + o) (sa + o) n).bind (fun cells s =>
        (s.pieceWrite m (ga + o) (sa + o) cells).bind (fun _ s => .ok cells s)) with
    | .wait => none
    | .fault va s => some (s.faultMove c m va)
    | .abort code va s => some (s.abortMove c m code va)
    | .ok cells s =>
      let (m', s) := s.moveEvents (m.take (cellBytes cells)) ((if m.d.out then ga else sa) + o) (cellBytes cells) (o + n == m.d.row)
      let k := if m'.pos = m.d.total && m.d.digest.isSome then n - 1 else n
      some ((s.setMove c { m' with counted := m.counted + k }).countInto m.team m.d.bar k)

/-- Finish a descriptor whose bytes are all written: the digest word, then the last byte's count (09 R259). -/
def State.finishMove (s : State) (c : Nat) (m : Move) : Option State :=
  let done (s : State) : State := (s.countInto m.team m.d.bar (m.d.total - m.counted)).endMove c m
  match m.d.digest with
  | none => some (done s)
  | some (true, a) =>
    let p := s.scrPlace m.team a
    some (done (if p.remote && (s.team m.team).kind ≠ .original then s else s.scrWrite p.tk p.off m.digestWord false))
  | some (false, a) =>
    match (s.moverCheck m a true false).bind (fun x s =>
        MRes.ofOption ((s.engineWrite m.team x.1 x.2 a m.digestWord false).map (fun s => ((), s)))) with
    | .wait => none
    | .fault va s => some (s.faultMove c m va)
    | .abort code va s => some (s.abortMove c m code va)
    | .ok _ s => some (done s)

/-- One step of a descriptor at work, if it can make one. -/
def State.moveStep (s : State) (c id : Nat) : Option State :=
  match s.move c id with
  | none => none
  | some m =>
    if m.st ≠ .working then none
    else if m.pos < m.d.total then s.movePiece c m else s.finishMove c m

/-- Run a descriptor as far as it goes. -/
def State.moveAll (c id : Nat) : Nat → State → State
  | 0, s => s
  | fuel + 1, s => match s.moveStep c id with | some s => s.moveAll c id fuel | none => s

/-! ## The mover's events (09 R257) -/

/-- Whether the mover works for a team: it stands still from the team's halt on (14 R388, R389). -/
def State.moverOn (s : State) (tk : Nat) : Bool := (s.team tk).resid == .placed

/-- MOVER_DESCRIPTOR_START: the next descriptor in issue order starts, when a working place is free and the writes that it follows
are performed (12 R348). -/
def execMoverDescriptorStart (c : Nat) (s : State) : Out :=
  let ms := (s.core c).moves
  match ms.find? (fun m => m.st == .queued && s.moverOn m.team) with
  | some m =>
    .next (if (ms.filter (fun m => m.st == .working)).length < 8 && s.writesDone m.after then s.setMove c { m with st := .working } else s)
  | none => .next s

/-- MOVER_WRITE: a descriptor at work moves its next bytes, or meets a fault or an abort. -/
def execMoverWrite (c id : Nat) (s : State) : Out :=
  match s.move c id with
  | some m => .next (if m.st = .working && m.pos < m.d.total && s.moverOn m.team then (s.movePiece c m).getD s else s)
  | none => .next s

/-- MOVER_COMPLETE: a descriptor whose bytes are written completes. -/
def execMoverComplete (c id : Nat) (s : State) : Out :=
  match s.move c id with
  | some m => .next (if m.st = .working && m.d.total ≤ m.pos && s.moverOn m.team then (s.finishMove c m).getD s else s)
  | none => .next s

/-! ## CPY, CPYG, CPYS (09 R254 to R256) -/

/-- Write the log record of a copy out of a partner's scratch, to be filled as the mover moves (15 R411): its position in the
segment. -/
def State.openLog (s : State) (gk total : Nat) : Option Nat × State :=
  let logs (s : State) : Nat := match kvGet s.sleeve (s.teamOf gk).sameAs with
    | some e => (kvGetD [] e.logs (s.group gk).gid).length
    | none => 0
  let n := logs s
  let s := s.logAppend gk 0x0B 32 total (List.replicate total 0)
  (if n < logs s then some n else none, s)

/-- Queue a checked descriptor (09 R256); its ticket. -/
def State.queueMove (s : State) (gk : Nat) (d : Desc) (log : Option (List Byte)) (logAt : Option Nat) : Nat × State :=
  let tk := (s.group gk).team
  let tm := s.team tk
  let c := tm.core
  let m : Move := { id := s.stamp, team := tk, gk := gk, d := d, st := .queued, pos := 0, counted := 0, h0 := 0, h1 := 0, carry := [], tail := [],
                    digDone := false, idx := 0, after := s.unperformed gk, log := log, logAt := logAt }
  let s := ({ s with stamp := s.stamp + 1 } : State).modTeam tk (fun tm => { tm with ticket := (tm.ticket + 1) % 2 ^ 32 })
  let far := d.out || (d.kind = 2 && (s.scrPlace tk d.saddr).remote)
  let s :=
    if d.total = 0 && d.digest.isNone then s.wakeTeam tk
    else if tm.kind ≠ .original && far then
      (s.modCore c (fun k => { k with moves := k.moves ++ [{ m with st := .working }] })).moveAll c m.id (d.total + 2)
    else s.modCore c (fun k => { k with moves := k.moves ++ [m] })
  (tm.ticket, s)

/-- Issue a descriptor: its checks, a place among the 256 in flight, its log record, its ticket. -/
def cpyIssue (k : CpyKind) (d : Opnd) (bs : List Byte) (is : Issue) (s : State) : Ran :=
  let gk := is.key
  let tk := (s.group gk).team
  let c := s.coreOf gk
  let hold (s : State) : Ran := .held (s.parkFor gk .room) is.lowest
  if s.descFails tk k bs then trapNow s is 0x30
  else
    let e := descOf k bs
    let p := s.scrPlace tk e.gaddr
    let fin (log : Option (List Byte)) (logAt : Option Nat) (s : State) : Ran :=
      let (n, s) := s.queueMove gk e log logAt
      putDone is d 1 n s
    if 256 ≤ (s.core c).moves.length then hold s
    else if e.kind = 2 && p.remote && (s.launchOf gk).checked then
      if s.isRerun gk then withRecord s is [0x0B] (fun r s => fin (some (r.payload.take r.value)) none s)
      else
        match s.scratchDep tk p.tk with
        | none => hold s
        | some s =>
          let (i, s) := s.openLog gk e.total
          fin none i s
    else fin none none s

/-- The source of a descriptor (09 R255): 16 uniform registers, or a record in the team's scratch. -/
def runCpy (f : F3) (fx : DWord) (k : CpyKind) (s : State) : Out :=
  if fx.getLsbD 0 then
    runOnceOf f.h 16 (f.d, 1) [(f.a, 1)] (fun is vs s =>
      let addr := argN vs 0
      let tk := (s.group is.key).team
      match s.scrCheck tk addr 64 1 with
      | .error 0x21 => trapAt s is 0x21 addr
      | .error _ => trapNow s is 0x30
      | .ok p =>
        if p.remote || addr % 64 ≠ 0 then trapNow s is 0x30
        else if s.scrPois p.tk p.off 64 then .done (s.killThreads is.key recPOISON is.ex)
        else cpyIssue k f.d (s.scrRead p.tk p.off 64) is s) s
  else
    runOnceOf f.h 16 (f.d, 1) [(f.a, 16)] (fun is vs s => cpyIssue k f.d (Word.toBytes 64 (argN vs 0)) is s) s

def execCpy (f : F3) (fx : DWord) (s : State) : Out := runCpy f fx .box s
def execCpyg (f : F3) (fx : DWord) (s : State) : Out := runCpy f fx .gather s
def execCpys (f : F3) (fx : DWord) (s : State) : Out := runCpy f fx .scatter s

/-! ## CPYF, CPYQ (09 R262, R263) -/

/-- The descriptors of a group in flight. -/
def State.movesOf (s : State) (gk : Nat) : List Move := (s.core (s.coreOf gk)).moves.filter (fun m => m.gk == gk)

/-- CPYF b: waits, then delivers one deferred abort. -/
def execCpyf (f : F3) (s : State) : Out :=
  runOnceOf f.h 8 noDst [(f.b, 1)] (fun is vs s =>
    let gk := is.key
    if 256 < argN vs 0 then trapNow s is 0x02
    else if argN vs 0 < (s.movesOf gk).length then .held (s.parkFor gk .room) is.lowest
    else
      let g := s.group gk
      let s := (s.passAll is).modGroup gk (fun g => { g with aborts := 0, copyAborts := (g.copyAborts.drop 1).map (fun _ => false) })
      if g.copyAborts.isEmpty then .done s
      else .trap (s.complete f.h is) { Trap.of 0x31 .deferred is is.lowest 0 with done := true }) s

/-- CPYQ d, b. -/
def execCpyq (f : F3) (s : State) : Out :=
  runOnceOf f.h 8 (f.d, 1) [] (fun is _ s =>
    loggedValue s is 0x08 (fun s =>
      let gk := is.key
      let g := s.group gk
      let ms := s.movesOf gk
      (match constVal .w f.b with
        | 0 => ms.length
        | 1 => (ms.filter (fun m => m.d.out || (m.d.kind = 2 && (s.scrPlace m.team m.d.saddr).remote))).length
        | 2 => (ms.filter (fun m => match m.st with | .faulted _ => true | _ => false)).length
        | _ => g.aborts + (g.copyAborts.filter (fun x => !x)).length, s)) (putDone is f.d 1)) s

end Sys2Proof.Machine
end

