-- ==== Sys2Proof/Machine/Matrix.lean ====
section
/-!
DEFINITION. The matrix instructions (10): their checks, what they claim and configure, and what they post.
-/
namespace Sys2Proof.Machine
open Sys2Proof

/-! ## The frame -/

/-- A deferred trap that waits for the group's next matrix instruction is delivered there, and the instruction does not execute (10
R292, 16 R438). -/
def withDeferred (k : State → Issue → Ran) (s : State) (is : Issue) : Ran :=
  match (s.group is.key).deferred with
  | c :: cs => .trap (s.modGroup is.key (fun g => { g with deferred := cs })) (Trap.of c .deferred is is.lowest 0)
  | [] => k s is

/-- A group-once matrix instruction of a destination and sources (10 R286). -/
def runMatrix (h : Hdr) (size : Nat) (d : Opnd × Nat) (srcs : List (Opnd × Nat)) (body : Issue → List Nat → State → Ran) (s : State) : Out :=
  runInstr h size
    (fun s is => if (s.group is.key).deferred.isEmpty then onceCheck s is d srcs else none)
    (withDeferred (fun s is =>
      match s.verdict (s.effClass is h.pcl .control) 32 with
      | .split => .done (s.killSplit is.key is.ex)
      | .corrected => onceBody d srcs body is (s.noteCorrected is.key 32)
      | _ => onceBody d srcs body is s)) s

/-- The team and the quad of an issue. -/
def matTeam (s : State) (is : Issue) : Nat := (s.group is.key).team
def matQuad (s : State) (is : Issue) : Nat := s.quadOfGroup is.key

/-- The checks of scratch footprints in order: address, bytes, alignment (10 R286, 2). -/
def footCheck (s : State) (tk : Nat) : List (Nat × Nat × Nat) → Option (Nat × Nat)
  | [] => none
  | (a, n, al) :: fs =>
    match s.ownCheck tk a n al with
    | .error c => some (c, a)
    | .ok _ => footCheck s tk fs

def withFoot (s : State) (is : Issue) (fs : List (Nat × Nat × Nat)) (k : State → Ran) : Ran :=
  match footCheck s (matTeam s is) fs with
  | some (c, a) => trapAt s is c a
  | none => k s

/-- The token of an engine's long-latency result: it returns when the operation completes (01 R45). -/
def State.engineTok (s : State) (gk : Nat) : Nat × State :=
  let (tok, s) := s.newTok
  (tok, s.addPend gk ⟨tok, 33, true, none, none, false, []⟩)

/-- Post an operation without, or with, a long-latency result. -/
def postDone (is : Issue) (kind : MatKind) (s : State) : Ran := .done ((s.postMat (matTeam s is) is.key none kind).passAll is)
def postLong (is : Issue) (kind : MatKind) (s : State) : Ran :=
  let (tok, s) := s.engineTok is.key
  .done ((s.postMat (matTeam s is) is.key (some tok) kind).passAll is)

/-- A team's reservation on its quad, made in the lowest free entry; with 16 held the group waits (10 R280). -/
def withReservation (s : State) (is : Issue) (k : State → Ran) : Ran :=
  let q := matQuad s is
  let tk := matTeam s is
  if ((s.quad q).resOf tk).isSome then k s
  else
    match (List.range 16).find? (fun i => (kvGet (s.quad q).res i).isNone) with
    | none => .held (s.parkFor is.key .room) is.lowest
    | some i => k (s.modQuad q (fun x => { x with res := kvSet x.res i ⟨tk, 0, []⟩ }))

/-- Change the configuration of a tile. -/
def State.cfgTile (s : State) (q t : Nat) (f : Tile → Tile) : State := s.modQuad q (fun x => x.setTile t (f (x.tile t)))

/-! ## Tile instructions (10 R287 to R289) -/

def tileOf (o : Opnd) : Nat := constVal .w o

/-- TCFG td, rows, bytes. -/
def execTcfg (f : F3) (s : State) : Out :=
  let t := tileOf f.d
  runMatrix f.h 8 noDst [(f.a, 1), (f.b, 1)] (fun is vs s =>
    let rows := argN vs 0
    let bytes := argN vs 1
    let q := matQuad s is
    let tk := matTeam s is
    let okay (x top : Nat) : Bool := 16 ≤ x && x ≤ top && x % 16 = 0
    if rows = 0 && bytes = 0 then
      if (s.quad q).tileTaken tk t then trapNow s is 0x42
      else if (s.quad q).ownsTile tk t then
        postDone is (.untile t) (s.cfgTile q t (fun x => { x with owner := none, rows := 0, bytes := 0, tag := 0 }))
      else .done (s.passAll is)
    else if !okay rows 128 || !okay bytes 256 || (s.quad q).tileTaken tk t then trapNow s is 0x42
    else
      withReservation s is (fun s =>
        postDone is (.tcfg t rows bytes) (s.cfgTile q t (fun x => { x with owner := some tk, rows := rows, bytes := bytes, tag := 0 })))) s

/-- The shape that a footprint takes from a tile: nothing for a tile that the team does not own. -/
def State.shapeOf (s : State) (is : Issue) (t : Nat) : Nat × Nat :=
  let x := (s.quad (matQuad s is)).tile t
  if (s.quad (matQuad s is)).ownsTile (matTeam s is) t then (x.rows, x.bytes) else (0, 0)

/-- Bytes from the first to the last of n rows. -/
def rowsFoot (n pitch row : Nat) : Nat := if n = 0 then 0 else (n - 1) * pitch + row

def badPitch (p : Nat) : Bool := p = 0 || p % 16 ≠ 0

/-- The bytes of a source element of a transposed load (10 R288). -/
def tagBytes (tag : Nat) : Nat := if tag = 0xA || tag = 0xB then 2 else if tag = 0x8 then 4 else 1

/-- TLD.tag[.tr] td, [a], pitch[, [c]]. -/
def execTld (f : F3) (fx : DWord) (s : State) : Out :=
  let t := tileOf f.d
  let tag := Word.bits fx.toNat 3 0
  let tr := fx.getLsbD 4
  runMatrix f.h 16 noDst [(f.a, 1), (f.b, 1), (f.c, 1)] (fun is vs s =>
    let a := argN vs 0
    let pitch := argN vs 1
    let c := argN vs 2
    let (rows, bytes) := s.shapeOf is t
    let foot := if tr then rowsFoot (if rows = 0 then 0 else tagK tag bytes) pitch (rows * tagBytes tag) else rowsFoot rows pitch bytes
    if badPitch pitch then trapNow s is 0x02
    else
      withFoot s is ((a, foot, 16) :: (if tag = 0xE then [(c, rows * (bytes / 16), 16)] else [])) (fun s =>
        if rows = 0 then trapNow s is 0x42
        else postLong is (.tld t rows bytes tag tr (a % 2 ^ 24) pitch (c % 2 ^ 24)) (s.cfgTile (matQuad s is) t (fun x => { x with tag := tag })))) s

/-- TLDQ td, [a], pitch, [c], ppitch. -/
def execTldq (f : F3) (fx : DWord) (s : State) : Out :=
  let t := tileOf f.d
  let ppitch := Word.bits fx.toNat 15 0
  runMatrix f.h 16 noDst [(f.a, 1), (f.b, 1), (f.c, 1)] (fun is vs s =>
    let a := argN vs 0
    let pitch := argN vs 1
    let c := argN vs 2
    let (rows, bytes) := s.shapeOf is t
    let k := bytes / 2
    if badPitch pitch || 8 * ppitch < k then trapNow s is 0x02
    else
      withFoot s is [(a, rowsFoot rows pitch (k / 2), 16), (c, rowsFoot rows ppitch (4 * ((k + 31) / 32)), 16)] (fun s =>
        if rows = 0 then trapNow s is 0x42
        else postLong is (.tldq t rows bytes (a % 2 ^ 24) pitch (c % 2 ^ 24) ppitch)
               (s.cfgTile (matQuad s is) t (fun x => { x with tag := 0xA })))) s

/-- TZR.tag td. -/
def execTzr (f : F3) (s : State) : Out :=
  let t := tileOf f.d
  runMatrix f.h 8 noDst [] (fun is _ s =>
    if (s.shapeOf is t).1 = 0 then trapNow s is 0x42
    else postDone is (.tzr t) (s.cfgTile (matQuad s is) t (fun x => { x with tag := constVal .w f.b }))) s

/-- TMOV td, ta. -/
def execTmov (f : F3) (s : State) : Out :=
  let t := tileOf f.d
  let a := tileOf f.a
  runMatrix f.h 8 noDst [] (fun is _ s =>
    if (s.shapeOf is t).1 = 0 || s.shapeOf is t ≠ s.shapeOf is a then trapNow s is 0x42
    else
      let tag := ((s.quad (matQuad s is)).tile a).tag
      postDone is (.tmov t a) (s.cfgTile (matQuad s is) t (fun x => { x with tag := tag }))) s

/-- MXSC td, b. -/
def execMxsc (f : F3) (s : State) : Out :=
  let t := tileOf f.d
  runMatrix f.h 8 noDst [(f.b, 1)] (fun is vs s =>
    let (rows, bytes) := s.shapeOf is t
    if rows = 0 then trapNow s is 0x42
    else if ((s.quad (matQuad s is)).tile t).tag ≠ 0xE then trapNow s is 0x40
    else postDone is (.mxsc t rows bytes (Word.toSigned 32 (argN vs 0))) s) s

/-! ## MMA and MMAS (10 R290 to R293) -/

/-- The metadata of an MMAS: its footprint from tile A, its bytes with their poison. -/
def metaFoot (s : State) (is : Issue) (ta : Nat) (reg : Region) : Nat :=
  let (rows, bytes) := s.shapeOf is ta
  if rows = 0 then 0 else reg.m * (2 * tagK ((s.quad (matQuad s is)).tile ta).tag bytes / 8)

def metaRead (s : State) (tk off n : Nat) : List (Byte × Bool) := (s.scrCells tk off n).map (fun c => (c.b, c.pois))

/-- The checks 4 to 6 of 10 R286 on an MMA or MMAS: the operation, or the trap code. -/
def mmaCheck (s : State) (is : Issue) (ta tb : Nat) (reg : Region) (md : Option Nat) (cls : Cls) : Except Nat MmaOp :=
  let sparse := md.map (fun a => metaRead s (matTeam s is) (a % 2 ^ 24) (metaFoot s is ta reg))
  match (s.quad (matQuad s is)).mmaOp (matTeam s is) ta tb reg sparse cls with
  | .error c => .error c
  | .ok o => if metaBad ((sparse.getD []).map (·.1)) then .error 0x41 else .ok o

/-- The fields that signatures compare: all but PK and the guard (10 R292). -/
def signFields (f : F3) : F3 := { f with h := { f.h with pk := false, gn := false, gp := 7 } }

/-- The checks 1 of 10 R286 on an MMAS that names a convergence register: it is not group-once, so each thread reads its own C. -/
def signCheck (s : State) (is : Issue) (c : Opnd) : Option (Nat × Nat) :=
  let r := s.roleOf is.key
  if regOut r.vregs r.sregs c 1 then some (0x08, 0) else none

/-- MMA and MMAS: posted once, or signed on cN by each thread; of the values of C in a first signature that of its lowest thread is
recorded (log 40). -/
def runMma (f : F3) (fx : DWord) (sparse : Bool) (s : State) : Out :=
  let ta := tileOf f.d
  let tb := tileOf f.a
  let reg := regionOf (Word.bits fx.toNat 7 0)
  let c : Opnd := if sparse then f.c else .z
  let srcs : List (Opnd × Nat) := if sparse then [(f.c, 1)] else []
  let foot (s : State) (is : Issue) (vs : List Nat) : List (Nat × Nat × Nat) :=
    if sparse then [(argN vs 0, metaFoot s is ta reg, 16)] else []
  let md (vs : List Nat) : Option Nat := if sparse then some (argN vs 0) else none
  if f.b = .z then
    runMatrix f.h 16 noDst srcs (fun is vs s =>
      withFoot s is (foot s is vs) (fun s =>
        match mmaCheck s is ta tb reg (md vs) (s.effClass is f.h.pcl .matrix) with
        | .error c => trapNow s is c
        | .ok o => postDone is (.mma o) s)) s
  else
    runInstr f.h 16
      (fun s is => if (s.group is.key).deferred.isEmpty then signCheck s is c else none)
      (withDeferred (fun s is =>
        let kc := s.effClass is f.h.pcl .control
        let km := s.effClass is f.h.pcl .matrix
        signBody (constVal .w f.b) c (fun r s t =>
          let vs := [(s.source is t c 0 1 .w).val]
          match r.op with
          | some (f', fx', sp, kc', o) =>
            if (f', fx', sp, kc', o.cls) = (signFields f, fx, sparse, kc, km) then .ok r.op else .error (0x43, 0)
          | none =>
            match footCheck s (matTeam s is) (foot s is vs) with
            | some e => .error e
            | none =>
              match mmaCheck s is ta tb reg (md vs) km with
              | .error code => .error (code, 0)
              | .ok o => .ok (some (signFields f, fx, sparse, kc, o))) f.h.pcl is s)) s

def execMma (f : F3) (fx : DWord) (s : State) : Out := runMma f fx false s
def execMmas (f : F3) (fx : DWord) (s : State) : Out := runMma f fx true s

/-! ## Accumulator instructions (10 R296 to R300) -/

def rbRange (row0 rows : Nat) : List Nat := (List.range (rows / 64)).map (· + row0 / 64)

/-- Claim row blocks: those that are not yet the team's take the tag in all their element blocks. -/
def claimRows (q tk : Nat) (rbs : List Nat) (tag : Nat) (s : State) : State :=
  s.modQuad q (fun x =>
    let new := rbs.filter (fun rb => kvGet x.rbs rb ≠ some tk)
    { x.setEtags (new.flatMap (fun rb => [4 * rb, 4 * rb + 1, 4 * rb + 2, 4 * rb + 3])) tag with rbs := new.foldl (fun m rb => kvSet m rb tk) x.rbs })

def rowsBad (row0 rows : Nat) : Bool := row0 % 64 ≠ 0 || rows % 64 ≠ 0 || rows < 64 || 512 < row0 + rows

/-- AZR.s32 and AZR.f32 (10 R296). -/
def execAzr (f : F3) (s : State) : Out :=
  let tag := constVal .w f.c
  runMatrix f.h 8 noDst [(f.a, 1), (f.b, 1)] (fun is vs s =>
    let q := matQuad s is
    let tk := matTeam s is
    let rbs := rbRange (argN vs 0) (argN vs 1)
    if rowsBad (argN vs 0) (argN vs 1) || rbs.any ((s.quad q).rbTaken tk) then trapNow s is 0x42
    else
      withReservation s is (fun s =>
        postDone is (.azr (argN vs 0 / 64) (argN vs 1 / 64))
          ((claimRows q tk rbs tag s).modQuad q (fun x => x.setEtags (rbs.flatMap (fun rb => [4 * rb, 4 * rb + 1, 4 * rb + 2, 4 * rb + 3])) tag)))) s

/-- AZR.none: the team's row blocks of the range are released (10 R296). -/
def execAzrRelease (f : F3) (s : State) : Out :=
  runMatrix f.h 8 noDst [(f.a, 1), (f.b, 1)] (fun is vs s =>
    let q := matQuad s is
    let tk := matTeam s is
    let rbs := (rbRange (argN vs 0) (argN vs 1)).filter (fun rb => kvGet (s.quad q).rbs rb = some tk)
    if rowsBad (argN vs 0) (argN vs 1) then trapNow s is 0x42
    else if rbs.isEmpty then .done (s.passAll is)
    else postDone is (.unrow rbs) (s.modQuad q (fun x => { x with rbs := rbs.foldl kvDel x.rbs }))) s

/-- ALD.T acc(…), [a], pitch (10 R297). -/
def execAld (f : F3) (fx : DWord) (s : State) : Out :=
  let reg := regionOf (Word.bits fx.toNat 7 0)
  let tag := Word.bits fx.toNat 11 8
  runMatrix f.h 16 noDst [(f.a, 1), (f.b, 1)] (fun is vs s =>
    let a := argN vs 0
    let pitch := argN vs 1
    let q := matQuad s is
    let tk := matTeam s is
    if badPitch pitch then trapNow s is 0x02
    else
      withFoot s is [(a, rowsFoot reg.m pitch (4 * reg.n), 16)] (fun s =>
        if !reg.inside || reg.rbs.any ((s.quad q).rbTaken tk) then trapNow s is 0x42
        else
          withReservation s is (fun s =>
            let fresh := reg.rbs.filter (fun rb => kvGet (s.quad q).rbs rb ≠ some tk)
            postLong is (.ald reg fresh (a % 2 ^ 24) pitch)
              ((claimRows q tk reg.rbs tag s).modQuad q (fun x => x.setEtags reg.blocks tag))))) s

/-- AMOV acc(dst), acc(from)[, [a]] (10 R298). -/
def execAmov (f : F3) (fx : DWord) (s : State) : Out :=
  let dst := regionOf (Word.bits fx.toNat 7 0)
  let src := regionOf (Word.bits fx.toNat 15 8)
  let scaled := f.a ≠ .z
  runMatrix f.h 16 noDst [(f.a, 1)] (fun is vs s =>
    let q := matQuad s is
    let tk := matTeam s is
    withFoot s is (if scaled then [(argN vs 0, 4 * dst.m, 16)] else []) (fun s =>
      if !(s.quad q).ownsRows tk dst || !(s.quad q).ownsRows tk src || dst.m ≠ src.m || dst.n ≠ src.n then trapNow s is 0x42
      else if scaled && !src.blocks.all (fun b => (s.quad q).etag b == 8) then trapNow s is 0x40
      else
        let tags := src.blocks.map (fun b => (s.quad q).etag b)
        postDone is (.amov dst src (if scaled then some (argN vs 0 % 2 ^ 24) else none) (s.effClass is f.h.pcl .matrix))
          (s.modQuad q (fun x => (dst.blocks.zip tags).foldl (fun x e => x.setEtags [e.1] e.2) x)))) s

/-- Bytes of an output row of a drain (10 R299). -/
def drainRow (fmt n : Nat) : Nat := match fmt with | 0 => 4 * n | 1 => 2 * n | 4 => n / 2 | _ => n

/-- Bytes from the first to the last of a drain's output. -/
def drainFoot (fmt : Nat) (reg : Region) (pitch : Nat) : Nat :=
  if fmt = 4 then reg.m * pitch + reg.m * reg.n / 32 else rowsFoot reg.m pitch (drainRow fmt reg.n)

/-- The check of a global amax word (10 R286, 3). -/
def amaxCheck (s : State) (is : Issue) (va : Nat) : Except Nat AmaxDst × State :=
  if va % 4 ≠ 0 then (.error 0x22, s) else
  match s.gCheck is.key ⟨va, 4, .dflt⟩ 4 ⟨true, true, true, true⟩ with
  | (.trap c, s) => (.error c, s)
  | (.unmapped, s) => (.error 0x20, s)
  | (.ok x pa, s) => (.ok (.global va pa x.host), s)

/-- ADRN.fmt[.sat][.zero][.gmax] [a], scale, amax, bar, acc(…), pitch (10 R299, R300). -/
def execAdrn (f : F3) (fx : DWord) (s : State) : Out :=
  let x := fx.toNat
  let reg := regionOf (Word.bits x 7 0)
  let fmt := Word.bits x 10 8
  let gmax := fx.getLsbD 12
  let pitch := Word.bits x 31 16
  let hasC := f.c ≠ .z
  runMatrix f.h 16 noDst [(f.d, 1), (f.a, 1), (f.b, 1), (f.c, if gmax then 2 else 1)] (fun is vs s =>
    let bar := argN vs 0
    let a := argN vs 1
    let c := argN vs 3
    let q := matQuad s is
    let tk := matTeam s is
    withFoot s is ((a, drainFoot fmt reg pitch, 16) :: ((if f.d ≠ .z then [(bar, 16, 16)] else [])
        ++ (if hasC && !gmax then [(c, 4, 4)] else []))) (fun s =>
      let am : Except Nat AmaxDst × State :=
        if !hasC then (.ok .none, s) else if gmax then amaxCheck s is c else (.ok (.scratch (c % 2 ^ 24)), s)
      match am with
      | (.error code, s) => trapAt s is code c
      | (.ok dst, s) =>
        if !(s.quad q).ownsRows tk reg then trapNow s is 0x42
        else
          postLong is (.adrn reg (reg.blocks.map (fun b => (s.quad q).etag b)) fmt (fx.getLsbD 11) (fx.getLsbD 13) (a % 2 ^ 24) pitch
            (argN vs 2) dst (if f.d ≠ .z then some bar else none) (s.effClass is f.h.pcl .matrix)) s)) s

/-! ## TSTAT (10 R301) -/

/-- The matrix status of a team (10 Table 10.5). -/
def Quad.status (q : Quad) (tk : Nat) : Nat :=
  match q.resOf tk with
  | some (_, r) => r.status.toNat + 2 ^ 16 * min 65535 r.ops.length
  | none => 0

/-- The configuration word of a tile (10 Table 10.6). -/
def Quad.tileWord (q : Quad) (tk t : Nat) : Nat :=
  let x := q.tile t
  (if q.ownsTile tk t then 2 ^ 31 else 0) + (if x.owner.isSome && !q.ownsTile tk t then 2 ^ 30 else 0) + x.tag * 2 ^ 20 + x.rows * 2 ^ 12 + x.bytes

/-- TSTAT d, sel[, tN]. -/
def execTstat (f : F3) (s : State) : Out :=
  let sel := constVal .w f.a
  runMatrix f.h 8 (f.d, 1) [] (fun is _ s =>
    let q := matQuad s is
    let tk := matTeam s is
    let clear (s : State) : State := if sel = 1 then s.modQuad q (fun x => x.modRes tk (fun r => { r with status := 0 })) else s
    loggedValue s is 0x08 (fun s => (if sel = 2 then (s.quad q).tileWord tk (tileOf f.b) else (s.quad q).status tk, s))
      (fun x s => putDone is f.d 1 x (clear s))) s

end Sys2Proof.Machine
end

