-- ==== Sys2Proof/Machine/EngineSteps.lean ====
section
/-!
DEFINITION. The steps of a quad's matrix engine: when a posted operation begins, what it does when it completes, the arbiter's
grants and the passes, the amax merge (10 R283, R284, R287 to R303, R546).
-/
namespace Sys2Proof.Machine
open Sys2Proof

/-! ## What an operation touches (10 R283) -/

/-- Tiles read and written, element blocks read and written. -/
structure Touch where
  rt : List Nat
  wt : List Nat
  rb : List Nat
  wb : List Nat
deriving DecidableEq, Repr

def rowBlocks (rbs : List Nat) : List Nat := rbs.flatMap (fun rb => [4 * rb, 4 * rb + 1, 4 * rb + 2, 4 * rb + 3])

def MmaOp.tiles (o : MmaOp) : List Nat := if o.reg.n = 256 then [o.ta, o.tb, o.tb + 1] else [o.ta, o.tb]

def MatKind.touch : MatKind → Touch
  | .tcfg t _ _ => ⟨[], [t], [], []⟩
  | .untile t => ⟨[], [t], [], []⟩
  | .tzr t => ⟨[], [t], [], []⟩
  | .tmov t a => ⟨[a], [t], [], []⟩
  | .mxsc t _ _ _ => ⟨[], [t], [], []⟩
  | .tld t _ _ _ _ _ _ _ => ⟨[], [t], [], []⟩
  | .tldq t _ _ _ _ _ _ => ⟨[], [t], [], []⟩
  | .mma o => ⟨o.tiles, [], [], o.reg.blocks⟩
  | .azr rb n => ⟨[], [], [], rowBlocks ((List.range n).map (· + rb))⟩
  | .unrow rbs => ⟨[], [], [], rowBlocks rbs⟩
  | .ald reg fresh _ _ => ⟨[], [], [], reg.blocks ++ rowBlocks fresh⟩
  | .amov dst src _ _ => ⟨[], [], src.blocks, dst.blocks⟩
  | .adrn reg _ _ _ zero _ _ _ _ _ _ => ⟨[], [], reg.blocks, if zero then reg.blocks else []⟩

def meets (a b : List Nat) : Bool := a.any (fun x => b.contains x)
/-- Whether two operations may not overlap. -/
def Touch.clash (a b : Touch) : Bool :=
  meets a.wt (b.rt ++ b.wt) || meets a.rt b.wt || meets a.wb (b.rb ++ b.wb) || meets a.rb b.wb

/-- The passes of an MMA: its element blocks in order (10 R291). -/
def MatOp.passes (o : MatOp) : List Nat := match o.kind with | .mma m => m.reg.blocks | _ => []

/-- What an operation still has to touch: the blocks of its passes that are not complete. -/
def MatOp.left (o : MatOp) : Touch :=
  match o.kind with
  | .mma m => { o.kind.touch with wb := (List.range m.reg.blocks.length).filterMap (fun i =>
      if o.granted ≤ i || o.inArray.contains i then m.reg.blocks[i]? else none) }
  | k => k.touch

/-- Whether an operation, touching t, is clear of the earlier-posted ones of its reservation (10 R283). -/
def Reservation.clear (r : Reservation) (id : Nat) (t : Touch) : Bool :=
  (r.ops.takeWhile (fun o => o.id ≠ id)).all (fun o => !o.left.clash t)

/-- The operation of a quad with an identity. -/
def Quad.matOp (q : Quad) (id : Nat) : Option (Reservation × MatOp) :=
  (q.res.filterMap (fun e => (e.2.ops.find? (fun o => o.id == id)).map (fun o => (e.2, o)))).head?

def Quad.modOp (q : Quad) (id : Nat) (f : MatOp → MatOp) : Quad :=
  { q with res := q.res.map (fun e => (e.1, { e.2 with ops := e.2.ops.map (fun o => if o.id = id then f o else o) })) }

/-- Record bits of the matrix status (10 Table 10.5). -/
def State.matStatus (s : State) (q tk : Nat) (fl : FFlags) (pois sdc : Bool) : State :=
  s.modQuad q (fun x => x.modRes tk (fun r =>
    { r with status := r.status ||| fl.zeroExtend 10 ||| (if pois then 256 else 0) ||| (if sdc then 512 else 0) }))

/-- An operation is complete: it leaves its reservation, its long-latency result returns, and the reservation frees if nothing is
left of it (10 R280). -/
def State.endMat (s : State) (q tk : Nat) (o : MatOp) : State :=
  let s := s.modQuad q (fun x => (x.modRes tk (fun r => { r with ops := r.ops.filter (fun p => p.id ≠ o.id) })).tidy tk)
  match o.tok with
  | none => s
  | some tok => (s.modGroup o.gk (fun g => { g with pend := g.pend.filter (fun p => p.tok ≠ tok) })).unpark o.gk

/-! ## Rows under a class (10 R303, 15 Table 15.2) -/

/-- Charge a quad's engine (15 R427): at THRESH all four cores are collared. -/
def State.chargeQuad (s : State) (q n : Nat) : State :=
  let s := s.modQuad q (fun x => { x with demerit := min 255 (x.demerit + n) })
  if s.thresh ≤ (s.quad q).demerit then
    [0, 1, 2, 3].foldl (fun s i => if (s.core (4 * q + i)).collar then s else s.collarCore (4 * q + i)) s
  else s

/-- A record about an engine's row of an operation that a group posted, with the engine's demerit. -/
def State.rowRecord (s : State) (q gk typ : Nat) : State :=
  let g := s.group gk
  s.raise (some g.team) { ErrRec.ofTeam s g.team typ 3 with gid := g.gid, thread := 32, code := deathCode typ, demerit := (s.quad q).demerit }

/-- Record what the comparison of one output row came to. -/
def State.noteRow (s : State) (q gk : Nat) (v : Verdict) : State :=
  match v with
  | .corrected => ((s.chargeQuad q 4).count 0).rowRecord q gk recCORRECTED
  | .split => ((s.chargeQuad q 16).count 1).rowRecord q gk recSDC_PIPE
  | _ => s

def State.noteRows (s : State) (q gk : Nat) (cls : Cls) (rows : Nat) : State :=
  ((List.range rows).map (fun i => s.verdict cls i)).foldl (fun s v => s.noteRow q gk v) s

/-- The bits that an upset of a plain row flips in its word j, and whether the row is poisoned. -/
def rowFlip (v : Verdict) (j : Nat) : Nat := match v with | .flipped x => x / 2 ^ (32 * j) % 2 ^ 32 | _ => 0
def rowSplit (v : Verdict) : Bool := match v with | .split => true | _ => false

/-! ## Passes (10 R291, R294, R295) -/

/-- What the arbiter compares of an offered pass. -/
structure Offer where
  id    : Nat
  age   : Nat
  prio  : Nat
  index : Nat
deriving DecidableEq, Repr

/-- The pass that a reservation offers: its earliest-posted ungranted one, if it is clear (10 R295). -/
def State.offer (s : State) (i : Nat) (r : Reservation) : Option Offer :=
  match r.ops.find? (fun o => o.granted < o.passes.length) with
  | none => none
  | some o =>
    match o.kind, o.passes[o.granted]? with
    | .mma m, some b =>
      if r.clear o.id ⟨m.tiles, [], [], [b]⟩ && s.writesDone o.after then
        some ⟨o.id, s.cycle - o.at_, (s.launch (s.team r.team).kid).r.prio, i⟩
      else none
    | _, _ => none

/-- Whether offer a wins over b: promoted ones first, the oldest first; then the higher priority, the older, the lower index. -/
def Offer.beats (a b : Offer) : Bool :=
  let pa := 512 < a.age
  let pb := 512 < b.age
  if pa ≠ pb then pa
  else if pa then b.age < a.age || (a.age = b.age && a.index < b.index)
  else if a.prio ≠ b.prio then b.prio < a.prio
  else if a.age ≠ b.age then b.age < a.age
  else a.index < b.index

def bestOffer : List Offer → Option Offer
  | [] => none
  | o :: os => match bestOffer os with | none => some o | some b => some (if b.beats o then b else o)

/-- PASS_GRANT: the arbiter grants the next pass of a quad. -/
def execPassGrant (q : Nat) (s : State) : Out :=
  match bestOffer ((s.quad q).res.filterMap (fun e => s.offer e.1 e.2)) with
  | none => .next s
  | some o => .next (s.modQuad q (fun x => x.modOp o.id (fun p => { p with inArray := p.inArray ++ [p.granted], granted := p.granted + 1 })))

/-- One row of a pass: its elements into the accumulator, the flags, whether poison was met. -/
def passRow (o : MmaOp) (qd : Quad) (v : Verdict) (ii c0 : Nat) (x : RegFile × FFlags × Bool) : RegFile × FFlags × Bool :=
  (List.range 64).foldl (fun x j =>
    let jj := c0 + j
    let key := 256 * (o.reg.row0 + ii) + o.reg.col0 + jj
    let old := kvGetD RegWord.zero qd.acc key
    let (y, fl) := o.element qd old.val.toNat ii jj
    let p := old.pois || o.poisoned qd ii jj
    (kvPut RegWord.zero x.1 key ⟨BitVec.ofNat 32 (y ^^^ rowFlip v j), p || rowSplit v⟩, x.2.1 ||| fl, x.2.2 || p)) x

/-- The results of a pass reach the accumulator (10 R291, R302, R303). -/
def State.passDone (s : State) (q tk gk : Nat) (o : MmaOp) (p : Nat) : State :=
  let qd := s.quad q
  let w := o.reg.n / 64
  let vs := (List.range 64).map (fun i => s.verdict o.cls i)
  let (acc, fl, pois) := (List.range 64).foldl (fun x i =>
    passRow o qd (s.verdict o.cls i) (64 * (p / w) + i) (64 * (p % w)) x) (qd.acc, (0 : FFlags), false)
  ((s.modQuad q (fun x => { x with acc := acc })).matStatus q tk fl pois (vs.any rowSplit)).noteRows q gk o.cls 64

/-- PASS_COMPLETE: a granted pass ends; the last one of an MMA completes it. -/
def execPassComplete (q id p : Nat) (s : State) : Out :=
  match (s.quad q).matOp id with
  | some (r, o) =>
    match o.kind with
    | .mma m =>
      if o.inArray.contains p then
        let s := (s.passDone q r.team o.gk m p).modQuad q (fun x => x.modOp id (fun o => { o with inArray := setRemove o.inArray p }))
        .next (if o.granted = o.passes.length && setRemove o.inArray p = [] then s.endMat q r.team o else s)
      else .next s
    | _ => .next s
  | none => .next s

/-! ## The other operations (10 R546) -/

/-- ENGINE_OP_BEGIN: an operation other than an MMA begins when its reads and writes are clear and the writes that it follows are
performed. -/
def execEngineOpBegin (q id : Nat) (s : State) : Out :=
  match (s.quad q).matOp id with
  | some (r, o) =>
    .next (if !o.begun && o.passes.isEmpty && r.clear id o.kind.touch && s.writesDone o.after then
             s.modQuad q (fun x => x.modOp id (fun o => { o with begun := true })) else s)
  | none => .next s

/-- The bytes that TLD puts into a tile (10 R288). -/
def State.tldCells (s : State) (tk rows bytes tag : Nat) (tr : Bool) (a pitch : Nat) : EBytes :=
  let e := tagBytes tag
  let raw := (List.range rows).flatMap (fun r =>
    if tr then (List.range (tagK tag bytes)).flatMap (fun k => s.scrCells tk (a + k * pitch + r * e) e)
    else s.scrCells tk (a + r * pitch) bytes)
  if tag = 0x8 then splitCells raw else raw

/-- The sidecar that an mx4 TLD loads: the scales of row r from byte 16r. -/
def State.tldSide (s : State) (tk rows bytes c : Nat) : EBytes :=
  let n := bytes / 16
  (List.range rows).flatMap (fun r => s.scrCells tk (c + r * n) n ++ plainCells (List.replicate (16 - n) 0) false)

/-- The bytes that TLDQ puts into a tile. -/
def State.tldqCells (s : State) (tk rows bytes a pitch c ppitch : Nat) : EBytes :=
  (List.range rows).flatMap (fun r => (List.range (bytes / 2)).flatMap (fun k =>
    let b := s.scrCells tk (a + r * pitch + k / 2) 1
    let x := (Word.ofBytes (cellBytes b)) / 2 ^ (4 * (k % 2)) % 16
    (dequant x (s.scrCells tk (c + r * ppitch + 4 * (k / 32)) 4)).map (fun y => { y with pois := y.pois || b.any (·.pois) })))

/-- Whether a file holds poison. -/
def anyPois (f : RegFile) : Bool := f.any (fun e => e.2.pois)

/-- MXSC on a sidecar (10 R289). -/
def scaleSide (rows bytes : Nat) (b : Int) (f : RegFile) : RegFile :=
  (List.range rows).foldl (fun f r => (List.range (bytes / 16)).foldl (fun f i =>
    let x := (fileByte f (16 * r + i)).toNat
    if x = 0xFF then f else fileSetByte f (16 * r + i) (BitVec.ofNat 8 (clampInt 0 0xFE (x + b)).toNat)) f) f

/-- Write a row of words into the accumulator. -/
def accPut (f : RegFile) (row col : Nat) (ws : List RegWord) : RegFile :=
  (List.range ws.length).foldl (fun f j => kvPut RegWord.zero f (256 * row + col + j) (ws.getD j RegWord.zero)) f

def accRow (f : RegFile) (row col n : Nat) : List RegWord := (List.range n).map (fun j => kvGetD RegWord.zero f (256 * row + col + j))

def clearRows (f : RegFile) (rbs : List Nat) : RegFile := f.filter (fun e => !rbs.contains (e.1 / 256 / 64))

/-- The words of bytes with poison. -/
def wordsOfCells (c : EBytes) : List RegWord :=
  (List.range (c.length / 4)).map (fun i =>
    let w := (c.drop (4 * i)).take 4
    ⟨BitVec.ofNat 32 (Word.ofBytes (cellBytes w)), w.any (·.pois)⟩)

/-- One row of AMOV (10 R298). -/
def amovRow (v : Verdict) (scale : Option RegWord) (ws : List RegWord) : List RegWord × FFlags :=
  (List.range ws.length).foldl (fun (x : List RegWord × FFlags) j =>
    let w := ws.getD j RegWord.zero
    let r : FRes := match scale with
      | some k => fused .f32 .rne [Term.mul (FVal.decode .f32 w.val.toNat) (FVal.decode .f32 k.val.toNat)]
      | none => ⟨w.val.toNat, 0⟩
    (x.1 ++ [⟨BitVec.ofNat 32 (r.bits ^^^ rowFlip v j), w.pois || (match scale with | some k => k.pois | none => false) || rowSplit v⟩],
     x.2 ||| r.flags)) ([], 0)

/-- Whether a row of AMOV is computed from poison (10 R301, R302). -/
def amovMet (scale : Option RegWord) (ws : List RegWord) : Bool := ws.any (·.pois) || (scale.toList.any (·.pois))

def State.amovDone (s : State) (q tk gk : Nat) (dst src : Region) (scale : Option Nat) (cls : Cls) : State :=
  let old := (s.quad q).acc
  let sc (i : Nat) : Option RegWord := scale.map (fun a => (wordsOfCells (s.scrCells tk (a + 4 * i) 4)).headD RegWord.zero)
  let rows := (List.range src.m).map (fun i => amovRow (s.verdict cls i) (sc i) (accRow old (src.row0 + i) src.col0 src.n))
  let acc := (List.range src.m).foldl (fun f i => accPut f (dst.row0 + i) dst.col0 ((rows.getD i ([], 0)).1)) old
  let pois := (List.range src.m).any (fun i => amovMet (sc i) (accRow old (src.row0 + i) src.col0 src.n))
  let fl := rows.foldl (fun x r => x ||| r.2) (0 : FFlags)
  ((s.modQuad q (fun x => { x with acc := acc })).matStatus q tk fl pois ((List.range src.m).any (fun i => rowSplit (s.verdict cls i)))).noteRows
    q gk cls src.m

/-! ## Drains (10 R299, R300) -/

/-- The output of one row of a drain: its bytes, its scale bytes, its flags, its largest |q| in f32 bits, whether it is poisoned, and whether
an uncorrectable word was met (10 R301). -/
structure DrainRow where
  data  : EBytes
  scl   : EBytes
  fl    : FFlags
  amax  : Nat
  pois  : Bool
  met   : Bool
deriving DecidableEq, Repr

/-- The 32-element blocks of a row, as bytes of elements and a scale: all of a block is computed from each of its elements, by way of the scale
(10 R299, R302). -/
def drainBlocks (qs : List FVal) (ps : List Bool) : EBytes × EBytes × FFlags :=
  (List.range (qs.length / 32)).foldl (fun (x : EBytes × EBytes × FFlags) b =>
    let blk := (qs.drop (32 * b)).take 32
    let sc := drainScale blk
    let es := blk.map (drainMx4 sc)
    let bad := ((ps.drop (32 * b)).take 32).any id
    let bytes := (List.range 16).map (fun j =>
      (⟨BitVec.ofNat 8 ((es.getD (2 * j) (0, 0)).1 % 16 + 16 * ((es.getD (2 * j + 1) (0, 0)).1 % 16)),
        bad, []⟩ : Seen))
    (x.1 ++ bytes, x.2.1 ++ [⟨BitVec.ofNat 8 sc, bad, []⟩], es.foldl (fun f e => f ||| e.2) x.2.2)) ([], [], 0)

def drainRowOf (fmt : Nat) (sat : Bool) (scale : Nat) (tags : List Nat) (v : Verdict) (ws : List RegWord) : DrainRow :=
  let qf := (List.range ws.length).map (fun j => drainQ (tags.getD (j / 64) 0) scale (ws.getD j RegWord.zero).val.toNat)
  let qs := qf.map (·.1)
  let ps := ws.map (fun w => w.pois || rowSplit v)
  let fl0 := qf.foldl (fun f e => f ||| e.2) (0 : FFlags)
  let amax := qs.foldl (fun m q => max m (drainAbs q)) 0
  let sz := if fmt = 0 then 4 else if fmt = 1 then 2 else 1
  let (data, scl, fl) :=
    if fmt = 4 then drainBlocks qs ps
    else
      (List.range qs.length).foldl (fun (x : EBytes × EBytes × FFlags) j =>
        let r := drainConv fmt sat (qs.getD j (.nan false))
        (x.1 ++ plainCells (Word.toBytes sz r.1) (ps.getD j false), [], x.2.2 ||| r.2)) ([], [], 0)
  let flip := match v with | .flipped x => Word.toBytes data.length x | _ => List.replicate data.length 0
  { data := (List.range data.length).map (fun i => { seenAt data i with b := (seenAt data i).b ^^^ flip.getD i 0 })
    scl := scl, fl := fl0 ||| fl, amax := amax, pois := ps.any id, met := ws.any (·.pois) }

/-- The drain of a region: its rows and scales into scratch, its status, its amax with poison. -/
def State.drainDone (s : State) (q tk gk : Nat) (reg : Region) (tags : List Nat) (fmt : Nat) (sat zero : Bool) (a pitch scale : Nat)
    (cls : Cls) : Nat × Bool × State :=
  let old := (s.quad q).acc
  let w := reg.n / 64
  let rows := (List.range reg.m).map (fun i =>
    drainRowOf fmt sat scale ((tags.drop (i / 64 * w)).take w) (s.verdict cls i) (accRow old (reg.row0 + i) reg.col0 reg.n))
  let none_ : DrainRow := ⟨[], [], 0, 0, false, false⟩
  let sdc := (List.range reg.m).any (fun i => rowSplit (s.verdict cls i))
  let s1 := (List.range reg.m).foldl (fun s i =>
    let r := rows.getD i none_
    (s.scrStore tk (a + i * pitch) r.data).scrStore tk (a + reg.m * pitch + i * (reg.n / 32)) r.scl) s
  let acc := if zero then (List.range reg.m).foldl (fun f i => accPut f (reg.row0 + i) reg.col0 (List.replicate reg.n RegWord.zero)) old else old
  let nan := rows.any (fun r => decide (0x7F800000 < r.amax))
  let amax := if nan then 0x7FC00000 else rows.foldl (fun m r => max m r.amax) 0
  let pois := rows.any (·.pois)
  (amax, pois, (((s1.modQuad q (fun x => { x with acc := acc })).matStatus q tk (rows.foldl (fun f r => f ||| r.fl) 0) (rows.any (·.met)) sdc).noteRows q gk cls reg.m))

/-- Bytes that a drain writes. -/
def drainBytes (fmt : Nat) (reg : Region) : Nat := reg.m * drainRow fmt reg.n + (if fmt = 4 then reg.m * reg.n / 32 else 0)

/-- A drain is over: what is left is counted, the team is woken (04 R156). -/
def State.endDrain (s : State) (q tk : Nat) (o : MatOp) (bar : Option Nat) (n : Nat) : State :=
  ((s.countInto tk bar n).endMat q tk o).wakeTeam tk

/-- The effect of an operation when its last write is done. -/
def State.matApply (s : State) (q tk : Nat) (o : MatOp) : State :=
  let tile (t : Nat) (f : Tile → Tile) : State := s.cfgTile q t f
  match o.kind with
  | .tcfg t _ _ | .untile t | .tzr t => (tile t (fun x => { x with data := [], side := [] })).endMat q tk o
  | .tmov t a =>
    let x := (s.quad q).tile a
    ((tile t (fun y => { y with data := x.data, side := x.side })).matStatus q tk 0 (anyPois x.data || anyPois x.side) false).endMat q tk o
  | .mxsc t rows bytes b =>
    ((tile t (fun x => { x with side := scaleSide rows bytes b x.side })).matStatus q tk 0 (anyPois ((s.quad q).tile t).side) false).endMat q tk o
  | .tld t rows bytes tag tr a pitch c =>
    let cells := s.tldCells tk rows bytes tag tr a pitch
    let side := if tag = 0xE then s.tldSide tk rows bytes c else []
    ((tile t (fun x => { x with data := fileOfCells cells, side := if tag = 0xE then fileOfCells side else x.side })).matStatus q tk 0
      (cells.any (·.pois) || side.any (·.pois)) false).endMat q tk o
  | .tldq t rows bytes a pitch c ppitch =>
    let cells := s.tldqCells tk rows bytes a pitch c ppitch
    ((tile t (fun x => { x with data := fileOfCells cells })).matStatus q tk 0 (cells.any (·.pois)) false).endMat q tk o
  | .azr rb n => (s.modQuad q (fun x => { x with acc := clearRows x.acc ((List.range n).map (· + rb)) })).endMat q tk o
  | .unrow _ => s.endMat q tk o
  | .ald reg fresh a pitch =>
    let rows := (List.range reg.m).map (fun i => wordsOfCells (s.scrCells tk (a + i * pitch) (4 * reg.n)))
    let put (f : RegFile) : RegFile := (List.range reg.m).foldl (fun f i => accPut f (reg.row0 + i) reg.col0 (rows.getD i [])) (clearRows f fresh)
    ((s.modQuad q (fun x => { x with acc := put x.acc })).matStatus q tk 0 (rows.any (fun r => r.any (·.pois))) false).endMat q tk o
  | .amov dst src scale cls => (s.amovDone q tk o.gk dst src scale cls).endMat q tk o
  | .adrn reg tags fmt sat zero a pitch scale amax bar cls =>
    let (m, p, s) := s.drainDone q tk o.gk reg tags fmt sat zero a pitch scale cls
    let n := drainBytes fmt reg
    match amax with
    | .none => s.endDrain q tk o bar n
    | _ => (s.countInto tk bar (n - 1)).modQuad q (fun x => x.modOp o.id (fun o => { o with amax := some (m, p) }))
  | .mma _ => s

/-- ENGINE_OP_COMPLETE: an operation that has begun completes; a drain with an amax waits for its merge. -/
def execEngineOpComplete (q id : Nat) (s : State) : Out :=
  match (s.quad q).matOp id with
  | some (r, o) => .next (if o.begun && o.amax.isNone then s.matApply q r.team o else s)
  | none => .next s

/-- Merge an amax into a global word by ATOMG max.n32 (10 R300, R302, R304): suppressed in a later run; none means that it waits. -/
def State.amaxGlobal (s : State) (tk va pa : Nat) (host : Bool) (m : Nat) (p : Bool) : Option State :=
  let ev (s : State) : State :=
    s.fold tk { kind := 0x09, mask := 0x000F, aux := 0, addr := BitVec.ofNat 64 va, d0 := BitVec.ofNat 64 m, d1 := 0 }
  let op : AtomOp := .rmw 0x2 .n32 m
  if (s.team tk).kind ≠ .original then some (ev s)
  else if host || isPeer pa || !s.inMap pa then some (ev (physAtomic s host pa 4 op).2.2)
  else
    if (s.launch (s.team tk).kid).checked then
      (s.heldAtomic tk (pa / 64) (pa % 64) 4 op (s.heldRead tk pa 4) (fun s bs => homeWrite s pa bs p) p).map (fun r => ev r.2.2)
    else
      let r := homeAtomic s pa 4 op
      some (ev (if p && !r.2.1 then homeWrite r.2.2 pa (Word.toBytes 4 (atomNew op 4 r.1)) true else r.2.2))

/-- AMAX_MERGE (10 R300): then the drain's last byte is counted and the drain completes. -/
def execAmaxMerge (q id : Nat) (s : State) : Out :=
  match (s.quad q).matOp id with
  | some (r, o) =>
    match o.kind, o.amax with
    | .adrn _ _ _ _ _ _ _ _ (.scratch off) bar _, some (m, p) =>
      let old := Word.ofBytes (s.scrRead r.team off 4)
      let s' := if s.scrPois r.team off 4 then s else s.scrWrite r.team off (Word.toBytes 4 (max old m)) p
      .next (s'.endDrain q r.team o bar 1)
    | .adrn _ _ _ _ _ _ _ _ (.global va pa host) bar _, some (m, p) =>
      match s.amaxGlobal r.team va pa host m p with
      | some s' => .next (s'.endDrain q r.team o bar 1)
      | none => .next s
    | _, _ => .next s
  | none => .next s

end Sys2Proof.Machine
end

