-- ==== Sys2Proof/Machine/LaunchRecs.lean ====
section
/-!
DEFINITION. Launch records: what the dispatcher reads in them, their checks and their acceptance (14 R374 to R376, R398), completion
reports (R377), and where teams fit (R379, R380).
-/
namespace Sys2Proof.Machine
open Sys2Proof

/-! ## The record (14 Table 14.2 to 14.4) -/

/-- Field of n bytes at an offset of a record. -/
def recField (bs : List Byte) (off n : Nat) : Nat := Word.ofBytes ((bs.drop off).take n)

/-- Word i of the role words, and the role that it declares. -/
def roleWord (bs : List Byte) (i : Nat) : Nat := recField bs (32 + 4 * i) 4
def roleOfWord (w : Nat) : Role :=
  { vregs := 8 * Word.bits w 31 27, sregs := 4 * Word.bits w 26 19, pocket := 16 * Word.bits w 18 14, groups := Word.bits w 13 8 }

/-- The roles up to the first absent one. -/
def rolesOf (bs : List Byte) : List Role := (((List.range 4).map (fun i => roleOfWord (roleWord bs i))).takeWhile (fun r => r.groups ≠ 0))

def gangOf (bs : List Byte) : Nat := max 1 (recField bs 56 2)
def gridOf (bs : List Byte) : Nat := recField bs 20 4 * recField bs 24 4 * recField bs 28 4
def flagOf (bs : List Byte) (i : Nat) : Bool := Word.bit (recField bs 59 1) i
def checkOf (bs : List Byte) : Nat := recField bs 60 4

def modeOfCode (n : Nat) : Mode := match n with | 1 => .speed | 2 => .verified | _ => .sentinel
def modeCode : Mode → Nat | .speed => 1 | .verified => 2 | .sentinel => 3

/-- What a mode supplies for a field left at "by mode" (14 Table 14.13). -/
def modeLevel : Mode → Level | .speed => .off | .verified => .sample 4 | .sentinel => .full
def modeHold : Mode → Hold | .speed => .none | .verified => .sampled | .sentinel => .all

def levelOf (m : Mode) (n : Nat) : Level :=
  match n with | 0 => modeLevel m | 1 => .off | 2 => .sample 8 | 3 => .sample 6 | 4 => .sample 4 | 5 => .sample 2 | 6 => .sample 1 | _ => .full
def holdOf (m : Mode) (n : Nat) : Hold := match n with | 0 => modeHold m | 1 => .all | 2 => .sampled | _ => .none

/-- The record as the dispatcher holds it (14 R374, R398). -/
def recOf (dflt : Mode) (bs : List Byte) : LaunchRec :=
  let f := recField bs
  let c := checkOf bs
  let m := if Word.bits c 8 7 = 0 then dflt else modeOfCode (Word.bits c 8 7)
  { entry := f 0 8, const := f 8 8, constLen := f 16 4, gridX := f 20 4, gridY := f 24 4, gridZ := f 28 4, roles := rolesOf bs,
    scratch := f 48 4, log := f 52 4, gang := gangOf bs, colours := f 58 1, persist := flagOf bs 0, debug := flagOf bs 1,
    repro := flagOf bs 2, deque := flagOf bs 3, preempts := flagOf bs 4, serial := flagOf bs 5,
    cls := (match Word.bits c 11 9 with | 0 => .inherit | 1 => .plain | 2 => .dup | _ => .trip), mode := m,
    release := (match Word.bits c 6 5 with | 1 => .after | 2 => .pressure | _ => .wait), hold := holdOf m (Word.bits c 4 3),
    level := levelOf m (c % 8), delay := if f 64 4 = 0 then 50 else f 64 4, relTime := f 68 4, beat := f 72 4, wall := f 76 4,
    prio := f 80 1, tenant := f 81 1, share := max 1 (f 82 1), wdpol := (match f 83 1 with | 0 => .kill | 1 => .resume | _ => .hold),
    tvec := f 88 8, done := f 96 8 }

/-- Row 1 of 14 Table 14.5: the conditions with the byte offset of their field, in order of offset. -/
def recRow1 (bs : List Byte) : List (Nat × Bool) :=
  let f := recField bs
  let c := checkOf bs
  let role (i : Nat) : Nat × Bool :=
    let w := roleWord bs i
    let r := roleOfWord w
    (32 + 4 * i, w % 256 ≠ 0 || (r.groups ≠ 0 && (r.vregs = 0 || 128 < r.vregs || 512 < r.sregs || 256 < r.pocket || 32 < r.groups)))
  [(0, 2 ^ 57 ≤ f 0 8 || f 0 8 % 8 ≠ 0), (8, 2 ^ 57 ≤ f 8 8 || f 8 8 % 16 ≠ 0), (16, 65536 < f 16 4), (20, f 20 4 = 0), (24, f 24 4 = 0),
   (28, f 28 4 = 0 || 2 ^ 32 ≤ gridOf bs), role 0, role 1, role 2, role 3,
   (48, 262144 < f 48 4 || f 48 4 % 256 ≠ 0), (52, 2 ^ 24 < f 52 4 || f 52 4 % 64 ≠ 0), (56, 96 < f 56 2), (58, 8 < f 58 1),
   (59, 64 ≤ f 59 1), (60, 2 ^ 12 ≤ c || 3 < Word.bits c 11 9 || Word.bits c 6 5 = 3), (64, 1000000 < f 64 4),
   (68, Word.bits c 6 5 = 1 && f 68 4 = 0), (72, if flagOf bs 0 then f 72 4 = 0 || 1000000 < f 72 4 else f 72 4 ≠ 0),
   (80, 15 < f 80 1), (81, 16 < f 81 1), (82, 64 < f 82 1), (83, 2 < f 83 1), (84, f 84 4 ≠ 0), (96, 2 ^ 57 ≤ f 96 8 || f 96 8 % 64 ≠ 0),
   (104, (bs.drop 104).any (· ≠ 0))]

/-- Row 2 of 14 Table 14.5. -/
def recRow2 (bs : List Byte) : List (Nat × Bool) :=
  let rs := rolesOf bs
  let later (i : Nat) : Nat × Bool := (32 + 4 * i, rs.length < i && (roleOfWord (roleWord bs i)).groups ≠ 0)
  [(32, rs.isEmpty), later 1, later 2, later 3, (32, 32 < rs.foldl (fun n r => n + r.groups) 0), (20, gridOf bs % gangOf bs ≠ 0)]

/-! ## Where a team fits (14 R379, R380; 01 Table 1.2) -/

/-- The free resources of a core: scratch, uniform bytes, and by lane vector bytes, pocket bytes, group slots. -/
structure FreeRes where
  scratch : Nat
  uniform : Nat
  lanes   : List (Nat × Nat × Nat)
deriving DecidableEq, Repr

def FreeRes.empty : FreeRes := ⟨262144, 131072, List.replicate 32 (16384, 8192, 4)⟩

/-- Take a group of a role on a lane. -/
def FreeRes.takeGroup (f : FreeRes) (lane : Nat) (r : Role) : FreeRes :=
  { f with lanes := f.lanes.modify lane (fun x => (x.1 - 128 * r.vregs, x.2.1 - 32 * r.pocket, x.2.2 - 1)) }

def uniformBytes (rs : List Role) : Nat := rs.foldl (fun n r => n + 4 * r.sregs * r.groups) 0

/-- What is free beside the teams on a core but for some (08 R221). -/
def State.freeRes (s : State) (c : Nat) (skip : List Nat) : FreeRes :=
  (s.teams.filter (fun e => e.2.core == c && !skip.contains e.1)).foldl (fun f e =>
    let tm := e.2
    if tm.resid.onCore then
      let f := { f with scratch := f.scratch - tm.scratchSize, uniform := f.uniform - uniformBytes tm.roles }
      tm.groups.foldl (fun f gk => f.takeGroup (s.group gk).lane (tm.roles.getD (s.group gk).role Role.none)) f
    else if tm.resid = .gone then { f with scratch := f.scratch - tm.scratchSize } else f) FreeRes.empty

/-- The groups of a team in the order in which they are assigned: the larger demand first (14 R379). -/
def demandOrder (rs : List Role) : List Nat :=
  let less (a b : Nat) : Bool :=
    let x := rs.getD a Role.none
    let y := rs.getD b Role.none
    y.vregs < x.vregs || (x.vregs = y.vregs && (y.pocket < x.pocket || (x.pocket = y.pocket && a < b)))
  let insert (i : Nat) (l : List Nat) : List Nat := l.takeWhile (fun j => !less i j) ++ [i] ++ l.dropWhile (fun j => !less i j)
  ((List.range rs.length).foldl (fun l i => insert i l) []).flatMap (fun i => List.replicate (rs.getD i Role.none).groups i)

/-- Assign groups to the lowest lanes where they fit: pairs of role and lane. -/
def packGroups (rs : List Role) : List Nat → FreeRes → Option (List (Nat × Nat) × FreeRes)
  | [], f => some ([], f)
  | i :: is, f =>
    let r := rs.getD i Role.none
    match (List.range 32).find? (fun l =>
        let x := f.lanes.getD l (0, 0, 0)
        128 * r.vregs ≤ x.1 && 32 * r.pocket ≤ x.2.1 && 0 < x.2.2) with
    | none => none
    | some l => (packGroups rs is (f.takeGroup l r)).map (fun p => ((i, l) :: p.1, p.2))

/-- The lanes of a team's groups in %gid order (01 R19), if it fits (14 R379), and what is then free. -/
def packTeam (rs : List Role) (scratch : Nat) (f : FreeRes) : Option (List Nat × FreeRes) :=
  if f.scratch < scratch || f.uniform < uniformBytes rs then none
  else
    (packGroups rs (demandOrder rs) f).map (fun p =>
      let lanesOf (i : Nat) : List Nat := (List.range 32).flatMap (fun l => (p.1.filter (fun e => e = (i, l))).map (·.2))
      ((List.range rs.length).flatMap lanesOf, { p.2 with scratch := f.scratch - scratch, uniform := f.uniform - uniformBytes rs }))

/-- OCCUPANCY (14 R380). -/
def occupancyGo (rs : List Role) (scratch : Nat) : Nat → FreeRes → Nat
  | 0, _ => 0
  | n + 1, f => match packTeam rs scratch f with | some (_, f) => 1 + occupancyGo rs scratch n f | none => 0
def occupancy (rs : List Role) (scratch : Nat) : Nat := if rs.isEmpty then 0 else occupancyGo rs scratch 128 FreeRes.empty

/-- Whether a core can be scheduled: not collared, not retired, not in an unused spare quad, its cluster not fenced (14 R379, 15 R428,
17 R474). -/
def State.schedulable (s : State) (c : Nat) : Bool :=
  let k := s.core c
  let cl := s.cluster (Config.clusterOf c)
  !k.collar && !k.retired && (cl.spareUsed || Config.quadOf c ≠ cl.spareQuad) && cl.fenced.isNone

/-- Valid slot-table entries that a core gives a tenant (14 R383). -/
def Core.entriesOf (k : Core) (tenant : Nat) : Nat := k.slotsOn.countP (fun e => e.toNat = 128 + tenant || (128 ≤ e.toNat && e.toNat % 32 = tenant))

def State.coreServes (s : State) (c tenant share : Nat) : Bool := s.schedulable c && share ≤ (s.core c).entriesOf tenant

def coresOfCluster (cl : Nat) : List Nat := (List.range 100).map (· + 100 * cl)

/-! ## The checks (14 R375) -/

/-- The settings of the bank in force. -/
def State.settings (s : State) : Settings := (s.store.getD s.inForce (Bank.shipped 0)).set

/-- What the checks of a record come to: acceptance, or a status and DETAIL. -/
def State.recordCheck (s : State) (bs : List Byte) (pois : Option Nat) (tenant : Nat) (byTeam : Bool) : Option (Nat × Nat) :=
  let r := recOf s.devMode bs
  match (match pois with | some o => some o | none => ((recRow1 bs).find? (fun (e : Nat × Bool) => e.2)).map (fun (e : Nat × Bool) => e.1)) with
  | some o => some (1, o)
  | none =>
    match (recRow2 bs).find? (fun (e : Nat × Bool) => e.2) with
    | some (o, _) => some (1, o)
    | none =>
      if r.tenant ≠ tenant || (r.debug && ((1 ≤ tenant && !(Settings.debug s.settings).contains tenant) || s.confid)) then some (2, 0)
      else if !Word.bit (kvGetD 7 s.settings.modes tenant) (modeCode r.mode - 1)
        || (r.cls ≠ Cls.inherit && !Word.bit (kvGetD 7 s.settings.classes tenant) (match r.cls with | .plain => 0 | .dup => 1 | _ => 2)) then some (1, 60)
      else
        let occ := occupancy r.roles r.scratch
        if r.deque && 96 < r.gang * occ then some (1, 59)
        else if occ = 0 || !(List.range Config.clusters).any (fun cl =>
            r.gang ≤ (coresOfCluster cl).countP (fun c => s.coreServes c tenant r.share)) then some (3, 0)
        else if byTeam && 1024 ≤ s.launches.length then some (4, 0)
        else none

/-! ## Completion reports (14 R377) -/

/-- The 64 bytes of a completion report (14 Table 14.6). -/
def reportBytes (l : Launch) (kid status detail : Nat) (clk : DWord) : List Byte :=
  let b := Word.toBytes
  b 4 kid ++ b 2 status ++ b 2 0 ++ b 8 clk.toNat ++ b 4 l.ended ++ b 4 l.killed ++ b 4 l.lostSt ++ b 4 l.unchecked ++ b 4 l.votes
    ++ b 4 l.unstable ++ b 8 l.conflict ++ b 4 detail ++ b 12 0

/-- Write a report at DONE: a release at system scope, then the completion vector; a page that cannot take it gives a RING record. -/
def State.report (s : State) (l : Launch) (kid status detail : Nat) : State :=
  let tenant := l.r.tenant
  let s := s.bumpClock 4
  let lost (s : State) : State := s.raiseDispatcher recRING (fun r => { r with kid := kid, addr := l.r.done, tenant := tenant })
  let s := match translateUnit s tenant l.r.done with
    | (.ok x _, s) =>
      if x.w && x.attr ≠ PAttr.prot then (physWrite s x.host (x.phys l.r.done) (reportBytes l kid status detail s.clk) false).2 else lost s
    | (.unmapped _, s) => lost s
  s.emit (.msix tenant)

/-! ## Acceptance (14 R376) -/

/-- The next identifier: 0 and those of launches still held are passed over. -/
def kidFrom (held : List (Nat × Launch)) : Nat → Nat → Nat
  | 0, k => k
  | fuel + 1, k => if k = 0 || (kvGet held k).isSome then kidFrom held fuel ((k + 1) % 2 ^ 32) else k

/-- The lowest launch slot that no held launch has. -/
def freeSlot (held : List (Nat × Launch)) : Nat := ((List.range 1024).find? (fun i => held.all (fun e => e.2.slot ≠ i))).getD 0

/-- The launch that the dispatcher accepted last from a source (14 R373: the same ring, the same issuing team), if it has not completed. -/
def State.lastFrom (s : State) (src : RecSrc) : Option Nat :=
  (match src with
    | .ring r _ => (kvGetD Ring.reset s.rings r).last
    | .team tk => (s.team tk).lastKid).filter (fun kid => (kvGet s.launches kid).isSome)

/-- Note a launch as the last of its source. -/
def State.noteLast (s : State) (src : RecSrc) (kid : Nat) : State :=
  match src with
  | .ring r _ => { s with rings := kvPut Ring.reset s.rings r { kvGetD Ring.reset s.rings r with last := some kid } }
  | .team tk => s.modTeam tk (fun tm => { tm with lastKid := some kid })

/-- The constants that the L1s keep of a launch are gone when a launch of its identifier starts (12 Table 12.1). -/
def State.dropConst (s : State) (kid : Nat) : State :=
  { s with cores := s.cores.map (fun e => (e.1, { e.2 with l1 := e.2.l1.filter (fun l => l.view ≠ .const kid) })) }

/-- Take a record that has been copied into the device (14 R375 to R377): the identifier, or 0 when it is rejected. -/
def State.submit (s : State) (bs : List Byte) (pois : Option Nat) (tenant : Nat) (src : RecSrc) (heldBy : Option Nat) : Nat × State :=
  let r := recOf s.devMode bs
  let byTeam := match src with | .team _ => true | _ => false
  let l := { Launch.none with r := r, src := src }
  match s.recordCheck bs pois tenant byTeam with
  | some (st, detail) =>
    let at_ (l : Launch) (s : State) : State :=
      if 2 ^ 57 ≤ r.done || r.done % 64 ≠ 0 then
        s.raiseDispatcher recREJECT (fun e => { e with tenant := tenant, detail := match src with | .ring n k => n + 2 ^ 8 * k | .team _ => 0 })
      else s.report l 0 st detail
    (0, at_ { l with r := { r with tenant := if r.tenant ≤ 16 then r.tenant else tenant } } s)
  | none =>
    let kid := kidFrom s.launches 1025 s.nextKid
    let (base, s) := s.free
    let l := { l with kid := kid, key := Config.launchKey s.fresh, slot := freeSlot s.launches, logBase := base, seq := s.stamp,
                      waitsFor := if r.serial then s.lastFrom src else none, heldBy := heldBy }
    (kid, (({ s with launches := kvSet s.launches kid l, nextKid := (kid + 1) % 2 ^ 32, stamp := s.stamp + 1, fresh := s.fresh + 1 } : State).noteLast src kid).dropConst kid)

end Sys2Proof.Machine
end

