-- ==== Sys2Proof/Machine/Placement.lean ====
section
/-!
DEFINITION. Placement (14 R373, R378 to R381, R387; 15 R414, R415): which launch or run is served next, where it fits, the start of a
team, and the pre-emption of lower-priority teams.
-/
namespace Sys2Proof.Machine
open Sys2Proof

/-! ## Where a team fits -/

/-- Whether a team's lanes are on its core. -/
def State.onCore (s : State) (tk : Nat) : Bool := match kvGet s.teams tk with | some tm => tm.resid.onCore | none => false

/-- Colours of a cluster that resident gangs hold (14 R378), but for those of some teams. -/
def State.coloursUsed (s : State) (cl : Nat) (skip : List Nat) : Nat :=
  (s.gangs.filter (fun e => e.2.cluster == cl && e.2.members.any (fun tk => s.onCore tk && !skip.contains tk))).foldl
    (fun n e => n + e.2.colours.length) 0

/-- Whether a core's deque is free for a launch (14 R381), once some teams have left. -/
def State.dequeFree (s : State) (c kid : Nat) (skip : List Nat) : Bool :=
  match (s.core c).deque with
  | none => true
  | some d => d.kid == kid || s.teams.all (fun e => e.2.core ≠ c || e.2.kid ≠ d.kid || !e.2.resid.onCore || skip.contains e.1)

/-- The lanes that a team of a launch would take on a core (14 R379); `skip` are teams taken as gone. -/
def State.fitOn (s : State) (l : Launch) (skip : List Nat) (c : Nat) : Option (List Nat) :=
  if !s.coreServes c l.r.tenant l.r.share then none
  else (packTeam l.r.roles l.r.scratch (s.freeRes c skip)).map (·.1)

/-- The first n places found along a list of cores. -/
def takeFits (f : Nat → Option (List Nat)) : Nat → List Nat → List (Nat × List Nat)
  | 0, _ => []
  | _, [] => []
  | n + 1, c :: cs => match f c with | some x => (c, x) :: takeFits f n cs | none => takeFits f (n + 1) cs

/-- The cores and lanes that a launch's next gang is to have, by rank (14 R378): on the lowest cluster whose cores can take it. -/
def State.gangCores (s : State) (l : Launch) (skip : List Nat) : Option (Nat × List (Nat × List Nat)) :=
  (List.range Config.clusters).findSome? (fun cl =>
    let got := takeFits (s.fitOn l skip) l.r.gang (coresOfCluster cl)
    if got.length = l.r.gang then some (cl, got) else none)

/-- Where a launch's next gang can be placed now: it waits there for colours (14 R378) and for deques that another launch holds (R381). -/
def State.gangPlace (s : State) (l : Launch) (skip : List Nat) : Option (List (Nat × List Nat)) :=
  match s.gangCores l skip with
  | some (cl, got) =>
    if 8 < s.coloursUsed cl skip + l.r.colours || (l.r.deque && !got.all (fun p => s.dequeFree p.1 l.kid skip)) then none else some got
  | none => none

/-- Whether a run of a team may use a core's quad (15 R415): never the original's, for an authoritative run never the replay's. -/
def SleeveEntry.allows (e : SleeveEntry) (k : RunKind) (c : Nat) : Bool :=
  Config.quadOf c ≠ Config.quadOf e.coreO
    && !(k == .auth && (match e.coreR with | some r => Config.quadOf c == Config.quadOf r | none => false))

/-- Whether a cluster held none of the team's runs so far. -/
def SleeveEntry.freshCluster (e : SleeveEntry) (c : Nat) : Bool :=
  ([some e.coreO, e.coreR, e.coreA].filterMap id).all (fun k => Config.clusterOf k ≠ Config.clusterOf c)

/-- The place of a run (15 R415). -/
def State.runPlace (s : State) (l : Launch) (e : SleeveEntry) (k : RunKind) : Option (Nat × List Nat) :=
  let try_ (p : Nat → Bool) : Option (Nat × List Nat) :=
    (takeFits (s.fitOn l []) 1 ((List.range Config.cores).filter (fun c => e.allows k c && p c))).head?
  match try_ e.freshCluster with
  | some x => some x
  | none => try_ (fun c => !e.freshCluster c)

/-! ## What waits, and in what order (14 R373) -/

/-- What the dispatcher may place: a launch's next gang, or the run that a Sleeve entry waits for. -/
inductive Unit_ where
  | gang (kid : Nat)
  | run (entry : Nat) (kind : RunKind)
deriving DecidableEq, Repr

/-- Whether a launch's next gang waits for nothing but room (14 R373, 11 R313, 15 R414). -/
def State.launchWaits (s : State) (l : Launch) : Bool :=
  l.next < l.r.gridX * l.r.gridY * l.r.gridZ && l.waitsFor.isNone
    && (match l.heldBy with | some e => !s.apron.any (fun v => v.entry == e) | none => true)
    && (!l.checked || s.sleeve.length + l.r.gang ≤ 65536)

/-- The waiting units. -/
def State.waitingUnits (s : State) : List Unit_ :=
  s.sleeve.filterMap (fun e => match e.2.wants with
    | some k => if e.2.run.isNone && e.2.notBefore ≤ s.clk.toNat then some (.run e.1 k) else none
    | none => none)
  ++ (s.launches.filter (fun e => s.launchWaits e.2)).map (fun e => .gang e.1)

def State.unitLaunch (s : State) : Unit_ → Launch
  | .gang kid => s.launch kid
  | .run e _ => s.launch ((kvGet s.sleeve e).map (·.kid) |>.getD 0)

/-- The position of a launch in the round (14 R373): its ring, or 64 for those of LAUNCH. -/
def Launch.pos (l : Launch) : Nat := match l.src with | .ring r _ => r | .team _ => 64

/-- The order of service: the higher priority; a record whose service has begun; the next position after the one served last; the order
of arrival; a launch's runs before its own teams (15 R415). -/
def State.unitKey (s : State) (u : Unit_) : List Nat :=
  let l := s.unitLaunch u
  [15 - l.r.prio, if l.next = 0 then 1 else 0, (l.pos + 65 + 64 - s.lastPos) % 65, l.seq, match u with | .run _ _ => 0 | .gang _ => 1]

def lexLt : List Nat → List Nat → Bool
  | a :: as, b :: bs => a < b || (a = b && lexLt as bs)
  | _, _ => false

/-- Insert into a list ordered by keys, after its equals. -/
def insertKey {α : Type} (key : α → List Nat) (u : α) : List α → List α
  | [] => [u]
  | x :: xs => if lexLt (key u) (key x) then u :: x :: xs else x :: insertKey key u xs

def State.serviceOrder (s : State) : List Unit_ := s.waitingUnits.foldl (fun l u => insertKey s.unitKey u l) []

/-- Where a unit can be placed now. -/
def State.unitPlace (s : State) : Unit_ → Option (List (Nat × List Nat))
  | .gang kid => s.gangPlace (s.launch kid) []
  | .run e k => (kvGet s.sleeve e).bind (fun x => (s.runPlace (s.launch x.kid) x k).map (fun p => [p]))

/-! ## Pre-emption for a launch with PREEMPTS (14 R387) -/

/-- The teams on cores that launches of lower priority hold: the lowest priority first, then the most recently placed. -/
def State.evictOrder (s : State) (prio : Nat) : List Nat :=
  let key (tk : Nat) : List Nat := [(s.launch (s.team tk).kid).r.prio, s.stamp - (s.team tk).placedAt]
  (s.teams.filter (fun e => e.2.resid.onCore && (s.launch e.2.kid).r.prio < prio)).foldl (fun l e => insertKey key e.1 l) []

/-- Take teams with their gangs until the gang of a launch would fit. -/
def State.evictGo (s : State) (l : Launch) (skip : List Nat) : List Nat → Option (List Nat)
  | [] => none
  | tk :: tks =>
    let skip := skip ++ (s.teams.filter (fun e => e.1 = tk || e.2.gang = (s.team tk).gang)).map (·.1)
    if (s.gangPlace l skip).isSome then some skip else s.evictGo l skip tks

/-- The teams that a launch that waits may have pre-empted. -/
def State.evictFor (s : State) (u : Unit_) : Option (List Nat) :=
  match u with
  | .gang kid =>
    let l := s.launch kid
    if l.r.preempts then s.evictGo l [] (s.evictOrder l.r.prio) else none
  | .run _ _ => none

/-- What the dispatcher does next: it places a unit, or asks lower-priority teams to leave. -/
inductive Next where
  | place (u : Unit_) (p : List (Nat × List Nat))
  | evict (tks : List Nat)
deriving DecidableEq, Repr

/-- The first unit that can be placed, or for which others can be made to leave. -/
def State.nextUnit (s : State) : Option Next :=
  s.serviceOrder.findSome? (fun u =>
    match s.unitPlace u with
    | some p => some (.place u p)
    | none => (s.evictFor u).map .evict)

/-! ## The start of a team (01 Table 1.3) -/

/-- The role of each %gid (01 R19). -/
def gidRoles (rs : List Role) : List Nat := (List.range rs.length).flatMap (fun i => List.replicate (rs.getD i Role.none).groups i)

/-- A group at team start. -/
def startGroup (l : Launch) (tk gid role lane : Nat) : Group :=
  let r := l.r.roles.getD role Role.none
  let th := { (Thread.fresh.enter l.r.entry) with psp := BitVec.ofNat 16 r.pocket }
  { Group.fresh with team := tk, gid := gid, role := role, lane := lane, threads := List.replicate Config.threads th,
                     tvec := BitVec.ofNat 64 l.r.tvec }

/-- Start a run of a team on a core: its groups on their lanes, everything else as 01 Table 1.3 gives.  The first team of a launch that
came from LAUNCH acquires at device scope (11 R313). -/
def State.startTeam (s : State) (l : Launch) (kind : RunKind) (tid grank : Nat) (gang same : Option Nat) (core : Nat)
    (lanes : List Nat) : Nat × State :=
  let tk := s.stamp
  let roles := gidRoles l.r.roles
  let n := roles.length
  let gks := (List.range n).map (fun i => tk + 1 + i)
  let tm : Team :=
    { Team.none with
      kid := l.kid, tid := tid, gang := gang.getD tk, grank := grank, core := core, kind := kind, roles := l.r.roles, groups := gks,
      scratchSize := l.r.scratch, chk := { Checked.fresh with sampled := sampledTest l.r.level l.key tid },
      startCycle := s.cycle, startThr := (s.core core).thr, startClk := s.clk.toNat, beatAt := s.clk.toNat, placedAt := tk, sameAs := same.getD tk }
  let s := { s with stamp := tk + 1 + n, teams := kvSet s.teams tk tm
                    groups := (List.range n).foldl (fun m i =>
                      kvSet m (tk + 1 + i) (startGroup l tk i (roles.getD i 0) (lanes.getD i 0))) s.groups }
  (tk, match l.src with
    | .team _ =>
      if (s.core core).sweeps.any (fun e => e.1 == 2) then gks.foldl (fun s gk => s.modGroup gk (fun g => { g with run := .acquire 2 })) s
      else s.modCore core (fun k => k.advance 2 s.cycle)
    | .ring _ _ => s)

/-- The Sleeve entry that a team of a checked kernel takes at its placement (15 R414). -/
def SleeveEntry.start (kid tid core : Nat) : SleeveEntry :=
  { kid := kid, tid := tid, sigO := 0, sigR := 0, sigA := 0, coreO := core, coreR := none, coreA := none, st := .run, tainted := false,
    scratchDep := false, replayTainted := false, replayBad := false, second := false, doomed := false, notBefore := 0, wants := none,
    run := none, logs := [], overs := [], endTrap := none }

/-- STATE of a Sleeve entry: the states in the order of 15 Table 15.7 (log 14). -/
def stCode : CheckSt → Nat
  | .run => 0 | .sleeve => 1 | .replay => 2 | .auth => 3 | .rerun => 4 | .checked => 5 | .repaired => 6 | .unstable => 7 | .unchk => 8

/-- The 64 bytes of a Sleeve entry (15 Table 15.6); the core of a run that has not been placed is 0 (log 14). -/
def SleeveEntry.bytes (e : SleeveEntry) (l : Launch) : List Byte :=
  let b := Word.toBytes
  let bit (c : Bool) (i : Nat) : Nat := if c then 2 ^ i else 0
  b 4 e.kid ++ b 4 e.tid ++ b 8 e.sigO.toNat ++ b 8 e.sigR.toNat ++ b 8 e.sigA.toNat ++ b 2 e.coreO ++ b 2 (e.coreR.getD 0) ++ b 2 (e.coreA.getD 0)
    ++ b 1 (stCode e.st) ++ b 1 (bit e.tainted 0 + bit e.scratchDep 1 + bit e.replayTainted 2 + bit e.second 3) ++ b 8 e.notBefore
    ++ b 8 (l.logOf e.tid) ++ b 8 0

/-- A core's deque for a launch that asks for deques (14 R381). -/
def State.giveDeque (s : State) (l : Launch) (c : Nat) : State :=
  if l.r.deque && (s.core c).deque.isNone then s.modCore c (fun k => { k with deque := some ⟨l.kid, []⟩ }) else s

/-- Place the next gang of a launch (14 R378). -/
def State.placeGang (s : State) (kid : Nat) (places : List (Nat × List Nat)) : State :=
  let l := s.launch kid
  let cl := Config.clusterOf ((places.headD (0, [])).1)
  let r := places.foldl (fun (x : Option Nat × List Nat × State) p =>
    let (first, ms, s) := x
    let rank := ms.length
    let (tk, s) := s.startTeam l .original (l.next + rank) rank first none p.1 p.2
    let s := if l.checked then { s with sleeve := kvSet s.sleeve tk (SleeveEntry.start kid (l.next + rank) p.1) } else s
    (some (first.getD tk), ms ++ [tk], s.giveDeque l p.1)) (none, [], s)
  let gang : Gang := { kid := kid, members := r.2.1, cluster := cl, colours := List.replicate l.r.colours Colour.reset }
  let s := r.2.2
  { s with gangs := kvSet s.gangs (r.1.getD 0) gang, lastPos := if l.next = 0 then l.pos else s.lastPos }.modLaunch kid (fun l =>
    { l with next := l.next + l.r.gang })

/-- Place a replay or an authoritative run, as a gang of one (15 R415). -/
def State.placeRun (s : State) (entry : Nat) (kind : RunKind) (place : Nat × List Nat) : State :=
  match kvGet s.sleeve entry with
  | none => s
  | some e =>
    let o := s.team entry
    let l := s.launch e.kid
    let (tk, s) := s.startTeam { l with src := .ring 0 0 } kind e.tid o.grank none (some entry) place.1 place.2
    let gang : Gang := { kid := e.kid, members := [tk], cluster := Config.clusterOf place.1, colours := [] }
    let e' : SleeveEntry :=
      { e with wants := none, run := some tk, st := if e.st = .rerun then .rerun else (if kind = .auth then .auth else .replay)
               coreR := if kind = .auth then e.coreR else some place.1, coreA := if kind = .auth then some place.1 else e.coreA }
    { s with gangs := kvSet s.gangs tk gang, sleeve := kvSet s.sleeve entry e' }

/-! ## The events -/

/-- TEAM_PLACE (14 R378, R387): the next unit, when it is a gang; or lower-priority teams are pre-empted for it. -/
def execTeamPlace (s : State) : Out :=
  .next (if !s.ready then s
    else
      match s.nextUnit with
      | some (.place (.gang kid) places) => s.placeGang kid places
      | some (.evict tks) => tks.foldl State.preemptTeam s
      | _ => s)

/-- The next unit, when it is a run of a kind (15 R415). -/
def State.placeNextRun (s : State) (k : RunKind) : State :=
  if !s.ready then s
  else
    match s.nextUnit with
    | some (.place (.run e k') (p :: _)) => if k = k' then s.placeRun e k p else s
    | _ => s

/-- REPLAY_PLACE. -/
def execReplayPlace (s : State) : Out := .next (s.placeNextRun .replay)
/-- AUTH_RUN_PLACE. -/
def execAuthRunPlace (s : State) : Out := .next (s.placeNextRun .auth)

end Sys2Proof.Machine
end

