-- ==== Sys2Proof/Machine/Checks.lean ====
section
/-!
DEFINITION. The ends of teams and what checked execution makes of them (14 R381; 15 R414, R418 to R427; Tables 15.7, 15.8, 15.11): the
resources that a team gives up, the vote, repair and its dependents, commitment and release of versions, demerits.
-/
namespace Sys2Proof.Machine
open Sys2Proof

/-! ## What a team gives up -/

/-- A quad without what a team owns there (10 R284; 09 R274). -/
def Quad.dropTeam (q : Quad) (tk : Nat) : Quad :=
  let mine := q.rowsOf tk
  { q with tiles := q.tiles.filter (fun e => !(q.tilesOf tk).contains e.1), acc := clearRows q.acc mine, rbs := q.rbs.filter (fun e => e.2 ≠ tk),
           etags := q.etags.filter (fun e => !mine.contains (e.1 / 4)), res := q.res.filter (fun e => e.2.team ≠ tk),
           conv := q.conv.filter (fun e => e.2.owner ≠ tk) }

/-- Whether a team is the last of its launch on its core (14 R381). -/
def State.lastOnCore (s : State) (tk : Nat) : Bool :=
  let tm := s.team tk
  s.teams.all (fun e => e.1 = tk || e.2.core ≠ tm.core || e.2.kid ≠ tm.kid || e.2.kind ≠ .original || !e.2.resid.onCore)

/-- A core without what a team has there: its descriptors, its side-log entries, its queue registers (09 R272), and the deque with the
launch's last team. -/
def Core.dropTeam (k : Core) (tk : Nat) (last : Option Nat) : Core :=
  { k with moves := k.moves.filter (fun m => m.team ≠ tk), slog := k.slog.filter (fun e => e.team ≠ tk),
           queues := k.queues.filter (fun e => e.2.owner ≠ tk)
           deque := match k.deque with | some d => if last = some d.kid then none else some d | none => none }

/-- A team leaves its core and its quad. -/
def State.leaveCore (s : State) (tk : Nat) : State :=
  let tm := s.team tk
  let last := if tm.kind = .original && s.lastOnCore tk then some tm.kid else none
  (s.modCore tm.core (fun k => k.dropTeam tk last)).modQuad (Config.quadOf tm.core) (fun q => q.dropTeam tk)

/-- A team has ended: it leaves, and its groups with their registers and pocket are gone (08 R221). -/
def State.freeTeam (s : State) (tk : Nat) : State :=
  let s := s.leaveCore tk
  { s with groups := s.groups.filter (fun e => e.2.team ≠ tk) }.modTeam tk (fun tm => { tm with groups := [], regq := none, image := none })

/-- The scratch of a gang whose teams have all ended is free, and its colours return to the cluster (08 R221, 09 R270). -/
def State.gangOver (s : State) (gang : Nat) : State :=
  let ms := (s.gang gang).members
  if ms.all (fun tk => match (s.team tk).resid with | .gone | .goneSaved => true | _ => false) then
    ms.foldl (fun s tk => s.modTeam tk (fun tm => { tm with scratch := [], scratchSize := 0 })) { s with gangs := kvDel s.gangs gang }
  else s

/-- Remove a later run, with its overlay. -/
def State.dropRun (s : State) (tk : Nat) : State :=
  let gang := (s.team tk).gang
  let s := s.freeTeam tk
  { s with teams := kvDel s.teams tk, gangs := kvDel s.gangs gang, apron := s.apron.filter (fun v => v.owner ≠ tk) }

/-! ## When a team's end is reached (01 R17, 04 R152, 10 R284, 16 R437) -/

/-- Whether every access, descriptor, engine operation and side-log entry of a team is complete. -/
def State.quiet (s : State) (tk : Nat) : Bool :=
  let tm := s.team tk
  tm.groups.all (fun gk => (s.group gk).pend.isEmpty && (s.group gk).unacked.isEmpty && (s.group gk).unapplied.isEmpty)
    && !(s.core tm.core).moves.any (fun m => m.team == tk) && !(s.core tm.core).slog.any (fun e => e.team == tk)
    && (match (s.quad (Config.quadOf tm.core)).resOf tk with | some (_, r) => r.ops.isEmpty | none => true)

/-- A team ended by trap has its fault-queued descriptors aborted (16 R437). -/
def State.abortFaulted (s : State) (tk : Nat) : State :=
  let c := (s.team tk).core
  if (s.team tk).ended.isNone then s
  else
    ((s.core c).moves.filter (fun m => m.team == tk)).foldl (fun s m =>
      match m.st with
      | .faulted va => s.abortMove c m 0x20 va
      | _ => s) s

/-- Apply what can now be applied of a team's side-log entries (08 R244). -/
def State.drainLog (s : State) (tk : Nat) : State :=
  let tm := s.team tk
  if tm.ended.isSome || tm.groups.all (fun gk => (s.group gk).run == .ended) then
    ((s.core tm.core).slog.filter (fun e => e.team == tk)).foldl (fun s e => s.applyPage tm.core (s.tenantOfTeam tk) e.va) s
  else s

/-- Whether a team on its core can end now. -/
def State.canEnd (s : State) (tk : Nat) : Bool :=
  let tm := s.team tk
  (match kvGet s.teams tk with | some tm => tm.resid == .placed || tm.resid == .preempting | none => false)
    && (tm.ended.isSome || tm.groups.all (fun gk => (s.group gk).run == .ended)) && s.quiet tk

/-- The team-end event (15 Table 15.3). -/
def State.foldEnd (s : State) (tk : Nat) : State :=
  let tm := s.team tk
  s.fold tk { kind := 0x0C, mask := 0, aux := 0, addr := 0, d0 := BitVec.ofNat 64 (tm.ended.getD 0), d1 := BitVec.ofNat 64 tm.exits }

/-! ## Resolution -/

def State.modSleeve (s : State) (k : Nat) (f : SleeveEntry → SleeveEntry) : State := { s with sleeve := kvMod s.sleeve k f }

/-- The entry of a resolved team is freed (15 R414). -/
def State.freeEntry (s : State) (k : Nat) : State := { s with sleeve := kvDel s.sleeve k }

/-- A record with the three signatures (16 R440), written where the original's core is. -/
def State.sigRecord (s : State) (k typ : Nat) (e : SleeveEntry) : State :=
  s.raise (some k) { ErrRec.ofTeam s k typ 2 with addr := e.sigO.toNat, desc := e.sigR.toNat, extra := e.sigA.toNat }

/-- A team becomes UNSTABLE (15 R420). -/
def State.declareUnstable (s : State) (k : Nat) (e : SleeveEntry) : State :=
  (((s.count 4).modLaunch e.kid (fun l => { l with unstable := l.unstable + 1 })).sigRecord k recUNSTABLE e).freeEntry k

/-- Queue an entry's next run (15 R414, R415). -/
def SleeveEntry.ask (e : SleeveEntry) (k : RunKind) (t : Nat) : SleeveEntry := { e with wants := some k, notBefore := t, run := none }

/-- What a repair means to a team that has the repaired team among its producers (15 R425). -/
def State.dependent (s : State) (k d : Nat) : State :=
  let tm := s.team d
  let running : Bool := match kvGet s.sleeve d with | some e => e.st == .run || (e.st == .rerun && e.wants.isNone && e.run.isNone) | none => false
  match kvGet s.sleeve d with
  | none => s
  | some e =>
    if tm.chk.scratchDeps.contains k then
      if running then s.modSleeve d (fun e => { e with doomed := true }) else s.declareUnstable d e
    else if running then s.modSleeve d (fun e => { e with st := .rerun, second := false })
    else s.modSleeve d (fun e => { e.ask .auth s.clk.toNat with st := .rerun, second := false })

def State.dependents (s : State) (k : Nat) : List Nat :=
  (s.sleeve.filter (fun e => e.1 ≠ k && (s.team e.1).chk.producers.contains k)).map (·.1)

/-! ## Repair (15 R425) -/

/-- An overlay's version as a version of the original: its bytes, and its held contributions. -/
def Version.adopt (v : Version) (k : Nat) : List Version :=
  (if v.bytes.isEmpty then [] else [{ v with kind := .original, owner := k, parts := [] }])
    ++ (if v.parts.isEmpty then [] else [{ v with kind := .partialV, owner := k, bytes := [], pois := [] }])

/-- Put versions in the place of others in a chain, or at its end. -/
def spliceGo (mine : Version → Bool) (new : List Version) : List Version → List Version
  | [] => new
  | v :: vs => if mine v then new ++ vs.filter (fun x => !mine x) else v :: spliceGo mine new vs

/-- Whether some of what a team wrote is not, or no longer, held (15 R425, R426). -/
def State.partlyHeld (s : State) (k : Nat) : Bool := !s.holds k || (s.team k).chk.unheld || (s.team k).chk.released

/-- One line of a repair: the team's version of the line is replaced; where it has none, the authoritative bytes are added to what it holds, or,
if it does not hold all that it wrote, they are ordinary stores. -/
def State.repairLine (s : State) (k run line : Nat) : State :=
  let new := s.apron.filter (fun v => v.owner == run && v.line == line)
  let rest := s.apron.filter (fun v => !(v.owner == run && v.line == line))
  let mine (v : Version) : Bool := v.owner == k && v.line == line
  if rest.any mine || !s.partlyHeld k then { s with apron := spliceGo mine (new.flatMap (fun v => v.adopt k)) rest }
  else new.foldl (fun s v => s.writeVersion { v with parts := [] }) { s with apron := rest }

/-- REPAIRED: the authoritative overlay becomes the team's version, and its dependents are run again. -/
def State.repair (s : State) (k run : Nat) : State :=
  let lines := (s.apron.filter (fun v => v.owner == k || v.owner == run)).foldl (fun l v => setInsert l v.line) []
  let partly := s.partlyHeld k
  let more := (s.team run).chk.producers
  let s := lines.foldl (fun s l => s.repairLine k run l) s
  let s := s.modTeam k (fun tm => { tm with chk := { tm.chk with producers := more.foldl (fun l p => if l.contains p then l else l ++ [p]) tm.chk.producers } })
  let s := if partly then s.raise (some k) (ErrRec.ofTeam s k recNOHOLD_REPAIR 2) else s
  (s.dependents k).foldl (fun s d => s.dependent k d) (s.freeEntry k)

/-! ## The vote (15 R419, Table 15.8) -/

inductive VoteOut where
  | checked | repaired | unstable | again
deriving DecidableEq, Repr

/-- The outcome when an authoritative run has ended, and the core that is charged. -/
def voteOut (e : SleeveEntry) (bad : Bool) : VoteOut × Option Nat :=
  if bad then (if e.second then .unstable else .again, none)
  else
    match e.coreR with
    | none => (.repaired, none)
    | some r =>
      if e.st = .rerun then (.repaired, none)
      else if e.replayBad then (if e.sigA = e.sigO then .checked else .unstable, none)
      else if e.sigA = e.sigO then (.checked, some r)
      else if e.sigA = e.sigR then (.repaired, some e.coreO)
      else (.unstable, none)

/-- Whether a vote is one of signatures, and whether they disagree. -/
def voteDiffers (e : SleeveEntry) : Bool := e.coreR.isSome && e.st ≠ .rerun && !(e.sigO == e.sigR && e.sigO == e.sigA)

/-- The end of an authoritative run: the vote, or the end of a rerun (15 R418, R419, R425). -/
def State.authOver (s : State) (k run : Nat) (e : SleeveEntry) (bad : Bool) : State :=
  let (out, lost) := voteOut e bad
  if out = .again then s.modSleeve k (fun _ => { e.ask .auth s.clk.toNat with second := true })
  else
    let s := if e.st = .rerun then s else s.count 2
    let s := match lost with | some c => (s.count 3).charge c 32 | none => s
    let s := if voteDiffers e then (s.modLaunch e.kid (fun l => { l with votes := l.votes + 1 })).sigRecord k recVOTE e else s
    match out with
    | .repaired => s.repair k run
    | .unstable => s.declareUnstable k e
    | _ => s.freeEntry k

/-- RUN_END (15 R418): a replay or authoritative run has ended; a run that was overtaken is dropped. -/
def execRunEnd (tk : Nat) (s : State) : Out :=
  let s' := (s.abortFaulted tk).drainLog tk
  let tm := s'.team tk
  if tm.kind = .original || !s'.canEnd tk then .next s'
  else
    let s := s'.foldEnd tk
    let chk := (s.team tk).chk
    let bad := chk.tainted || chk.diverged || chk.logBad
    match kvGet s.sleeve tm.sameAs with
    | some e =>
      if e.run ≠ some tk then .next (s.dropRun tk)
      else if tm.kind = .replay then
        let e := { e with sigR := chk.sig, replayBad := bad, run := none }
        if !bad && chk.sig = e.sigO then .next ((s.dropRun tk).freeEntry tm.sameAs)
        else .next ((s.dropRun tk).modSleeve tm.sameAs (fun _ => e.ask .auth s.clk.toNat))
      else
        let e := { e with sigA := chk.sig, run := none }
        .next ((({ s with sleeve := kvSet s.sleeve tm.sameAs e } : State).authOver tm.sameAs tk e bad).dropRun tk)
    | none => .next (s.dropRun tk)

/-! ## The end of an original (15 Table 15.7) -/

/-- What the Sleeve makes of an original that has ended. -/
def State.originalOver (s : State) (tk : Nat) : State :=
  let tm := s.team tk
  let l := s.launch tm.kid
  match kvGet s.sleeve tk with
  | none => s
  | some e =>
    let e := { e with sigO := tm.chk.sig, coreO := tm.core }
    let s := { s with sleeve := kvSet s.sleeve tk e }
    let now := s.clk.toNat
    if tm.chk.unreplay then
      (s.modLaunch tm.kid (fun l => { l with unchecked := if tm.chk.released then l.unchecked else l.unchecked + 1 })).freeEntry tk
    else if e.doomed then s.declareUnstable tk e
    else if e.st = .rerun then s.modSleeve tk (fun e => e.ask .auth now)
    else if tm.chk.tainted then s.modSleeve tk (fun e => { e.ask .auth now with st := .sleeve })
    else if tm.chk.sampled then s.modSleeve tk (fun e => { e.ask .replay (max now (tm.startClk + 1000 * l.r.delay)) with st := .sleeve })
    else s.freeEntry tk

/-- TEAM_END (01 R17, 04 R152): the original of a team ends. -/
def execTeamEnd (tk : Nat) (s : State) : Out :=
  let s := (s.abortFaulted tk).drainLog tk
  let tm := s.team tk
  if tm.kind ≠ .original || !s.canEnd tk then .next s
  else
    let s := (s.foldEnd tk).originalOver tk
    let s := (s.freeTeam tk).modTeam tk (fun tm => { tm with resid := .gone, held := false, endClk := s.clk.toNat })
    .next ((s.modLaunch tm.kid (fun l => { l with ended := l.ended + 1 })).gangOver tm.gang)

/-! ## Versions leave the Apron (15 R424, R426) -/

/-- Whether a version is nobody's overlay. -/
def Version.based (v : Version) : Bool := v.kind == .original || v.kind == .partialV

/-- The oldest version of a line's chain. -/
def State.chainHead (s : State) (line : Nat) : Option Version :=
  s.apron.find? (fun v => v.line == line && v.based)

/-- Whether the team of a version and its producers are resolved (15 R424). -/
def State.mayCommit (s : State) (v : Version) : Bool := s.resolved v.entry && (s.team v.owner).chk.producers.all s.resolved

/-- Whether the commitment of a version brings another with it: an older one of its chain; if it holds a release, what it orders, that is all
that its team and the team's producers hold (12 R352, 15 R424; log 38). -/
def State.brings (s : State) (v w : Version) : Bool :=
  (w.line = v.line && (s.apron.takeWhile (· ≠ v)).contains w)
    || (v.rel && (w.owner = v.owner || (s.team v.owner).chk.producers.contains w.entry))

/-- The versions that are committed together with some. -/
def State.commitSet (s : State) : Nat → List Version → List Version
  | 0, vs => vs
  | n + 1, vs =>
    let more := s.apron.filter (fun w => w.based && (vs.contains w || vs.any (fun v => s.brings v w)))
    if more.length = vs.length then vs else s.commitSet n more

/-- VERSION_COMMIT (15 R424; 13 R370): the oldest version of a line, with all that its commitment brings, when the teams of all of them and
their producers are resolved. -/
def execVersionCommit (line : Nat) (s : State) : Out :=
  match s.chainHead line with
  | some v =>
    let vs := s.commitSet s.apron.length [v]
    .next (if vs.all s.mayCommit then vs.foldl (fun s v => (s.dropVersion v).writeVersion v) s else s)
  | none => .next s

/-- APRON_FORCED (15 Table 15.11): after 100 µs of continuous fullness with a store that waits. -/
def execApronForced (slice : Nat) (s : State) : Out :=
  match kvGet s.fullAt slice with
  | some t =>
    if t + 100000 ≤ s.clk.toNat && s.groups.any (fun e => e.2.run == .room && (s.launchOf e.1).checked) then
      match s.apron.find? (fun v => !isOutLine v.line && homeSlice (64 * v.line) = slice && v.based) with
      | some v => .next (({ s with fullAt := kvDel s.fullAt slice } : State).releaseUnchecked v)
      | none => .next s
    else .next s
  | none => .next s

/-- RELEASE_AFTER_EXPIRY (15 Table 15.11): a version is released unchecked t µs after its team's end. -/
def execReleaseAfterExpiry (line entry : Nat) (s : State) : Out :=
  let tm := s.team entry
  let l := s.launch tm.kid
  let isOver := match tm.resid with | .gone | .goneSaved => true | _ => false
  if l.r.release = .after && isOver && tm.endClk + 1000 * l.r.relTime ≤ s.clk.toNat then
    match s.apron.find? (fun v => v.line == line && v.entry == entry && v.based) with
    | some v => .next (s.releaseUnchecked v)
    | none => .next s
  else .next s

/-! ## Demerits (15 R403, R427, R429) -/

/-- DEMERIT_DECAY: at every %clk multiple of 2^20 × 1000 each counter that is not 0 falls by 1. -/
def execDemeritDecay (s : State) : Out :=
  if s.decayed < s.clk.toNat / (2 ^ 20 * 1000) then
    .next { s with decayed := s.decayed + 1
                   cores := s.cores.map (fun e => (e.1, { e.2 with demerit := e.2.demerit - 1 }))
                   quads := s.quads.map (fun e => (e.1, { e.2 with demerit := e.2.demerit - 1 })) }
  else .next s

/-- SCOREBOARD_MISMATCH (15 R403): the instructions that have not reached write-back are issued again; nothing that the program sees
changes. -/
def execScoreboardMismatch (gk : Nat) (s : State) : Out :=
  .next (if (kvGet s.groups gk).isSome && s.onCore (s.group gk).team then (s.noteCorrected gk 32).count 8 else s)

/-- CHKCTL_WRITE (15 Table 15.14). -/
def execChkctlWrite (fn val : Nat) (s : State) : Out :=
  .next (if s.hostOpen && fn = 0 && !s.locked then { s with thresh := max 32 (val % 256) } else s)

end Sys2Proof.Machine
end

