-- ==== Sys2Proof/Machine/CopyEngine.lean ====
section
/-!
DEFINITION. XCPY and the package copy engines (09 R264, R278; 16 R463).
-/
namespace Sys2Proof.Machine
open Sys2Proof

/-! ## The engines' work -/

def State.engine (s : State) (e : Nat) : CopyEngine := (kvGet s.engines e).getD ⟨[], none⟩
def State.setEngine (s : State) (e : Nat) (c : CopyEngine) : State := { s with engines := kvSet s.engines e c }

/-- Where a copy command's address lies: by translation for its tenant, or by physical address (16 R451, R463). -/
def State.copyXlat (s : State) (c : CopyCmd) (va : Nat) (write : Bool) : Option (Xlat × Nat) × State :=
  if c.phys then (some (⟨0, 2 ^ 57, 0, false, .wb, true, true, false⟩, va % 2 ^ 57), s)
  else if 2 ^ 57 ≤ va then (none, s)
  else
    match translateUnit s c.tenant va with
    | (.ok x _, s) => (if (if write then x.w else x.r) && x.attr ≠ .prot then some (x, x.phys va) else none, s)
    | (.unmapped _, s) => (none, s)

/-- Read bytes by physical address, 16-byte chunk by chunk, with their poison. -/
def physCells (host : Bool) (pa : Nat) : List (Nat × Nat) → State → EBytes × State
  | [], s => ([], s)
  | g :: gs, s =>
    let (rd, s) := physRead s host (pa + g.1) g.2
    let (rest, s) := physCells host pa gs s
    (plainCells rd.bytes rd.pois ++ rest, s)

/-- Write bytes by physical address, chunk by chunk; whether a peer refused one. -/
def physPut (host : Bool) (pa : Nat) (c : EBytes) : List (Nat × Nat) → State → Bool × State
  | [], s => (false, s)
  | g :: gs, s =>
    let part := (c.drop g.1).take g.2
    let (bad, s) := physWrite s host (pa + g.1) (cellBytes part) (part.any (·.pois))
    let (bad', s) := physPut host pa c gs s
    (bad || bad', s)

/-- Write for an engine at an address; false if it could not. -/
def State.copyPut (s : State) (c : CopyCmd) (va : Nat) (bs : EBytes) : Bool × State :=
  match s.copyXlat c va true with
  | (some (x, pa), s) =>
    let (bad, s) := physPut x.host pa bs (grains 16 pa bs.length) s
    (!bad, s)
  | (none, s) => (false, s)

/-- Copy piece by piece in ascending order (09 R264); the bytes copied, or none on failure.  Of two overlapping ranges each piece is
read as it was before the command or as it now stands, by free choice (log 8). -/
def copyGo (c : CopyCmd) (s0 : State) (pick : Nat) : Nat → Nat → List Byte → State → Option (List Byte) × State
  | 0, _, acc, s => (some acc, s)
  | fuel + 1, pos, acc, s =>
    if c.len ≤ pos then (some acc, s)
    else
      let src := c.src + pos
      let dst := c.dst + pos
      let n := min (c.len - pos) (min (16 - src % 16) (16 - dst % 16))
      match s.copyXlat c src false with
      | (none, s) => (none, s)
      | (some (x, pa), s) =>
        let old := pick.testBit pos && !outside x pa
        let (cells, s) := if old then ((physCells x.host pa (grains 16 pa n) s0).1, s) else physCells x.host pa (grains 16 pa n) s
        match s.copyPut c dst cells with
        | (false, s) => (none, s)
        | (true, s) => copyGo c s0 pick fuel (pos + n) (acc ++ cellBytes cells) s

/-- The digest of 09 R259 over bytes. -/
def digestGo : Nat → Nat → DWord → DWord → List Byte → DWord × DWord
  | 0, _, h0, h1, _ => (h0, h1)
  | fuel + 1, n, h0, h1, bs =>
    let half (o : Nat) : DWord := BitVec.ofNat 64 (Word.ofBytes ((bs.drop o).take 8))
    digestGo fuel (n + 1) (h0 + mix64 (half 0 ^^^ BitVec.ofNat 64 (2 * n))) (h1 + mix64 (half 8 ^^^ BitVec.ofNat 64 (2 * n + 1))) (bs.drop 16)

def digestOf (bs : List Byte) : List Byte :=
  let h := digestGo ((bs.length + 15) / 16) 0 0 0 bs
  Word.toBytes 8 (h.1 ^^^ BitVec.ofNat 64 bs.length).toNat ++ Word.toBytes 8 h.2.toNat

/-- An error record of an engine. -/
def State.engineRecord (s : State) (e : Nat) (c : CopyCmd) (addr : Nat) : State :=
  s.raise c.team { ErrRec.device s recCOPY_ABORT 10 4 with
    index := e, addr := addr, tenant := c.tenant,
    kid := (match c.team with | some t => (s.team t).kid | none => 0), team := (match c.team with | some t => (s.team t).tid | none => 0) }

/-- Carry a command out: the copy, the digest, the completion word as a release at system scope, the wake event (04 R156). -/
def State.runCopy (s : State) (e : Nat) (c : CopyCmd) : State :=
  let (pick, s) := if c.src < c.dst + c.len && c.dst < c.src + c.len && 0 < c.len then s.free else (0, s)
  let (r, s) := copyGo c s pick c.len 0 [] s
  let (ok, s) := match r with
    | none => (false, s.engineRecord e c c.src)
    | some bs => if c.dig = 0 then (true, s) else s.copyPut c c.dig (plainCells (digestOf bs) false)
  let s := s.bumpClock 4
  let (ok', s) := match c.doneAt with
    | none => (true, s)
    | some a => s.copyPut c a (plainCells (Word.toBytes 8 (if ok then c.doneVal else c.doneVal ^^^ 2 ^ 63)) false)
  let s := if ok' then s else s.engineRecord e c (c.doneAt.getD 0)
  match c.team with
  | some t => s.wakeTeam t
  | none => s

/-- COPY_ENGINE_START: an idle engine takes the next command of its ring, once the writes that it follows are performed (12 R348). -/
def execCopyEngineStart (e : Nat) (s : State) : Out :=
  let x := s.engine e
  match x.busy, x.ring with
  | none, c :: rest => .next (if s.writesDone c.after then s.setEngine e ⟨rest, some c⟩ else s)
  | _, _ => .next s

/-- COPY_ENGINE_COMPLETE: its reads and writes are taken together here (log 4). -/
def execCopyEngineComplete (e : Nat) (s : State) : Out :=
  let x := s.engine e
  match x.busy with
  | some c => .next ((s.runCopy e c).setEngine e { x with busy := none })
  | none => .next s

/-! ## XCPY -/

/-- Translate every page of a range for the group (09 R264): the trap code and address of the first that fails. -/
def rangeCheck (gk : Nat) (nd : Need) (stop : Nat) : Nat → Nat → State → Option (Nat × Nat) × State
  | 0, _, s => (none, s)
  | fuel + 1, va, s =>
    if stop ≤ va then (none, s)
    else if 2 ^ 57 ≤ va then (some (0x21, va), s)
    else
      match translate s (s.coreOf gk) (s.tenantOf gk) va 1 with
      | (.unmapped _, s) => (some (0x20, va), s)
      | (.ok x _, s) =>
        match pageCheck nd x (x.phys va) with
        | some c => (some (c, va), s)
        | none => rangeCheck gk nd stop fuel (x.base + x.size) s

/-- The engine that ENG names; 63 is a free choice among those with a free entry (log 8). -/
def State.pickEngine (s : State) (eng : Nat) : Option Nat × State :=
  let room (e : Nat) : Bool := (s.engine e).ring.length < 64
  if eng = 63 then
    let es := (List.range 32).filter room
    let (n, s) := s.free
    (es[n % max 1 es.length]?, s)
  else (if room eng then some eng else none, s)

/-! ## Records that an instruction reads -/

/-- Check and translate the parts of a record, line by line, so that each page of it is met (08 R224, R242): its parts by physical address, or the
trap code and the address of the first that fails. -/
def sourceCheck (gk align : Nat) : List (Nat × Nat) → State → Except (Nat × Nat) (List (Xlat × Nat × Nat)) × State
  | [], s => (.ok [], s)
  | p :: ps, s =>
    match s.gCheck gk ⟨p.1, p.2, .dflt⟩ align ⟨true, false, false, false⟩ with
    | (.trap c, s) => (.error (c, p.1), s)
    | (.unmapped, s) => (.error (0x20, p.1), s)
    | (.ok x pa, s) =>
      match sourceCheck gk align ps s with
      | (.ok r, s) => (.ok ((x, pa, p.2) :: r), s)
      | r => r

/-- The lines of a record of n bytes. -/
def sourceParts (a n : Nat) : List (Nat × Nat) := (grains 64 a n).map (fun g => (a + g.1, g.2))

/-- Read the parts of a record; none means that it waits. -/
def State.sourceRead (s : State) (gk : Nat) : List (Xlat × Nat × Nat) → Option (List RegWord × State)
  | [] => some ([], s)
  | p :: ps => (s.readNow gk p.1 p.2.1 p.2.2).bind (fun r => (State.sourceRead r.2 gk ps).map (fun q => (r.1 ++ q.1, q.2)))

/-- XCPY [a] (09 R264): in a later run it is suppressed after the same checks. -/
def execXcpy (f : F3) (fx : DWord) (s : State) : Out :=
  let eng := Word.bits fx.toNat 5 0
  runOnceOf f.h 16 noDst [(f.a, 2)] (fun is vs s =>
    let gk := is.key
    let tk := (s.group gk).team
    let a := argN vs 0
    if a % 64 ≠ 0 then trapNow s is 0x30
    else
      match sourceCheck gk 1 (sourceParts a 64) s with
      | (.error e, s) => trapAt s is e.1 e.2
      | (.ok ps, s) =>
        match s.sourceRead gk ps with
        | none => .held (s.parkFor gk .room) is.lowest
        | some (ws, s) =>
          let bs := ws.flatMap (fun w => Word.toBytes 4 w.val.toNat)
          let g (i : Nat) : Nat := descField bs 0 8 i
          let len := g 2
          if g 3 % 8 ≠ 0 || g 5 % 16 ≠ 0 || 2 ^ 40 < len || (bs.drop 48).any (· ≠ 0) then trapNow s is 0x30
          else
            match rangeCheck gk ⟨true, false, false, false⟩ (g 0 + len) (len / 4096 + 2) (g 0) s with
            | (some (c, va), s) => trapAt s is c va
            | (none, s) =>
              match rangeCheck gk ⟨false, true, false, false⟩ (g 1 + len) (len / 4096 + 2) (g 1) s with
              | (some (c, va), s) => trapAt s is c va
              | (none, s) =>
                let ev (s : State) : State :=
                  (s.fold tk { kind := 0x05, mask := 0, aux := 0, addr := BitVec.ofNat 64 (g 1), d0 := BitVec.ofNat 64 (g 0), d1 := BitVec.ofNat 64 len }).fold tk
                    { kind := 0x06, mask := 0, aux := 0, addr := BitVec.ofNat 64 (g 3), d0 := BitVec.ofNat 64 (g 4), d1 := BitVec.ofNat 64 (g 5) }
                let cmd : CopyCmd := {
                  src := g 0, dst := g 1, len := len, doneAt := some (g 3), doneVal := g 4, dig := g 5, tenant := s.tenantOf gk,
                  phys := false, team := some tk, gk := gk, id := s.stamp, after := s.unperformed gk }
                if s.isRerun gk then .done ((ev s).passAll is)
                else if len = 0 then
                  if s.writesDone cmd.after then .done (((ev s).runCopy (eng % 32) cmd).passAll is)
                  else .held (s.parkFor gk .room) is.lowest
                else
                  match s.pickEngine eng with
                  | (none, s) => .held (s.parkFor gk .room) is.lowest
                  | (some e, s) =>
                    let x := s.engine e
                    .done (((ev { s with stamp := s.stamp + 1 }).setEngine e { x with ring := x.ring ++ [cmd] }).passAll is)) s

end Sys2Proof.Machine
end

