-- ==== Sys2Proof/Machine/Image.lean ====
section
/-!
DEFINITION. The bytes of a context image (14 R391, Table 14.10; 01 R39; 16 R450): its eleven sections in order, each with its CRC-32.
Where the spec gives a layout (PC-vector entries, side-log entries, queue and convergence registers, colours) the bytes have it; the rest are
the fields of Table 14.10 in its order, little-endian (log 41).
-/
namespace Sys2Proof.Machine
open Sys2Proof

/-! ## CRC-32 (IEEE 802.3) -/

def crc32Bit (c : Nat) : Nat := if c % 2 = 1 then (c / 2) ^^^ 0xEDB88320 else c / 2
def crc32Byte (c b : Nat) : Nat := crc32Bit (crc32Bit (crc32Bit (crc32Bit (crc32Bit (crc32Bit (crc32Bit (crc32Bit (c ^^^ b))))))))
def crc32 (bs : List Byte) : Nat := bs.foldl (fun c b => crc32Byte c b.toNat) 0xFFFFFFFF ^^^ 0xFFFFFFFF

/-! ## Fields as bytes -/

def natBytes (n : Nat) (xs : List Nat) : List Byte := xs.flatMap (Word.toBytes n)
def boolBytes (b : Bool) : List Byte := Word.toBytes 1 (if b then 1 else 0)
def optBytes (o : Option (List Byte)) : List Byte := match o with | some bs => boolBytes true ++ bs | none => boolBytes false
/-- A list with its length before it. -/
def countBytes (xs : List (List Byte)) : List Byte := Word.toBytes 4 xs.length ++ xs.flatten
/-- The listed words of a file, each with its number. -/
def fileBytes (f : RegFile) : List Byte := countBytes (f.map (fun e => Word.toBytes 4 e.1 ++ Word.toBytes 4 e.2.val.toNat))

def StopAt.bytes (x : StopAt) : List Byte := Word.toBytes 4 (maskOf x.ex) ++ Word.toBytes 1 x.ridx
def LoopReg.bytes (l : LoopReg) : List Byte := boolBytes l.active ++ natBytes 8 [l.rem, l.max, l.body.toNat, l.len]

/-- 1 Header. -/
def Team.headerBytes (tm : Team) : List Byte :=
  natBytes 4 [tm.kid, tm.tid, tm.grank] ++ countBytes (tm.roles.map (fun r => natBytes 2 [r.vregs, r.sregs, r.pocket, r.groups]))
    ++ optBytes (tm.regq.map (fun q => natBytes 4 [q.src, q.dst, q.n] ++ countBytes (q.arrived.map (Word.toBytes 8))))

/-- 2 Per group: the PC vector first. -/
def Group.stateBytes (g : Group) : List Byte :=
  natBytes 8 (g.threads.map (fun th => th.pcEntry.toNat)) ++ Word.toBytes 1 g.lane
    ++ natBytes 4 [g.gstat.toNat, g.gclass.toNat] ++ natBytes 8 [g.tvec.toNat] ++ natBytes 4 [g.tcause.toNat, g.texec.toNat]
    ++ natBytes 8 (g.taddr.toNat :: (List.range 32).map (fun i => (g.tpc.getD i 0).toNat)) ++ g.loops.flatMap LoopReg.bytes ++ boolBytes g.wake
    ++ optBytes (g.hbarTok.map (Word.toBytes 1)) ++ optBytes (g.resume.map StopAt.bytes) ++ optBytes (g.stopAt.map StopAt.bytes)

/-- 3 Per thread. -/
def Thread.stateBytes (th : Thread) : List Byte :=
  Word.toBytes 1 th.p.toNat ++ (List.range 4).map (fun i => kvGetD 0 th.x i) ++ Word.toBytes 2 th.psp.toNat ++ fileBytes th.v

/-- Where a load that is issued again goes. -/
def LoadDst.bytes : LoadDst → List Byte
  | .vreg t n => natBytes 2 [1, t, n]
  | .sreg n => natBytes 2 [2, 0, n]
  | .none => natBytes 2 [0, 0, 0]
def Again.bytes : Again → List Byte
  | .glob va n _ ds => natBytes 8 [0, va, n] ++ countBytes (ds.map LoadDst.bytes)
  | .scr a n ds => natBytes 8 [1, a, n] ++ countBytes (ds.map LoadDst.bytes)

/-- 8 Engines: a descriptor with its progress. -/
def Move.bytes (m : Move) : List Byte :=
  natBytes 8 ([m.id, m.gk, m.d.kind, m.d.rows.getD 0, if m.d.scatter then 1 else 0, m.d.gaddr, m.d.saddr, m.d.bar.getD 0, m.d.cpol, m.d.esize, m.d.ndim]
      ++ m.d.ext ++ m.d.gstr ++ m.d.sstr ++ [m.pos, m.counted, m.h0.toNat, m.h1.toNat, m.idx])
    ++ countBytes [m.carry, m.tail]

/-- A queue register (09 Table 9.9). -/
def QueueReg.word (r : QueueReg) : Nat :=
  2 ^ 63 + r.head * 2 ^ 42 + r.tail * 2 ^ 36 + r.full * 2 ^ 29 + r.ssize * 2 ^ 27 + r.slots * 2 ^ 20 + r.base
/-- A convergence register (09 Table 9.10). -/
def ConvReg.word (c : ConvReg) : Nat :=
  2 ^ 63 + (if c.op.isSome then 2 ^ 54 else 0) + c.expect * 2 ^ 43 + c.signed.length * 2 ^ 32 + c.members
/-- A colour (09 Table 9.8). -/
def Colour.word (c : Colour) : Nat := (if c.cfg then 2 ^ 31 else 0) + (if c.phase then 2 ^ 30 else 0) + c.expect * 2 ^ 12 + c.pending

/-- 10 Matrix: the reservation's status, how many operations it has, tiles, row blocks, element-block tags and accumulator words. -/
def Image.matrixBytes (im : Image) : List Byte :=
  optBytes (im.res.map (fun r => Word.toBytes 2 r.status.toNat ++ countBytes (r.ops.map (fun o => natBytes 8 [o.id, o.gk, o.granted]))))
    ++ countBytes (im.tiles.map (fun e => natBytes 2 [e.1, e.2.rows, e.2.bytes, e.2.tag] ++ fileBytes e.2.data ++ fileBytes e.2.side))
    ++ countBytes (im.rbs.map (Word.toBytes 1)) ++ countBytes (im.etags.map (fun e => natBytes 1 [e.1, e.2])) ++ fileBytes im.acc

/-- The sections of a team's image (14 Table 14.10), in order, from 1 on. -/
def State.sectionBytes (s : State) (tk : Nat) (im : Image) : List (List Byte) :=
  let tm := s.team tk
  let gs := tm.groups.map s.group
  let pocket (g : Group) : List Byte := g.threads.flatMap (fun th => fileRead th.pocket 0 ((tm.roles.getD g.role Role.none).pocket))
  let body : List (List Byte) :=
    [gs.flatMap Group.stateBytes, gs.flatMap (fun g => g.threads.flatMap Thread.stateBytes), gs.flatMap (fun g => fileBytes g.s), gs.flatMap pocket,
     fileRead tm.scratch 0 tm.scratchSize, im.slog.flatMap (fun e => Word.toBytes 32 (s.sideBits e).toNat),
     countBytes (im.moves.map Move.bytes) ++ countBytes (gs.map (fun g => countBytes (g.pend.filterMap (fun p => p.again.map Again.bytes)))),
     countBytes (im.queues.map (fun e => natBytes 8 [e.1, e.2.word])) ++ countBytes (im.conv.map (fun e => natBytes 8 [e.1, e.2.word]))
       ++ optBytes (im.deque.map (fun es => countBytes (es.map (fun e => Word.toBytes 8 e.1.toNat)))),
     im.matrixBytes,
     if tm.grank = 0 then natBytes 4 (((kvGet s.gangs tm.gang).map (·.colours)).getD [] |>.map Colour.word) else []]
  (tm.headerBytes ++ natBytes 4 (body.map List.length)) :: body

/-- An image with its sections as the save writes them. -/
def State.sealImage (s : State) (tk : Nat) (im : Image) : Image :=
  { im with sections := (s.sectionBytes tk im).map (fun bs => ⟨bs, crc32 bs⟩) }

/-- Whether a PC-vector entry of the per-group section has ST = 0b11 (01 R39): group i's vector stands at its start. -/
def pcVectorBad (groups : Nat) (bs : List Byte) : Bool :=
  (List.range groups).any (fun i => (List.range 32).any (fun t =>
    Word.bits (Word.ofBytes ((bs.drop (bs.length / groups * i + 8 * t)).take 8)) 63 62 = 3))

/-- The first section of an image that a restore finds corrupt (14 R391, 16 R450): its CRC-32 fails, or an entry of its PC vectors is never
written. -/
def Image.badSection (im : Image) (groups : Nat) : Option Nat :=
  ((List.range im.sections.length).find? (fun i =>
    match im.sections[i]? with
    | some x => decide (crc32 x.bytes ≠ x.crc) || (i == 1 && pcVectorBad groups x.bytes)
    | none => false)).map (· + 1)

/-- Change a byte of a section of an image in the save area, and its CRC. -/
def Image.alter (im : Image) (sect off flip crc : Nat) : Image :=
  { im with sections := im.sections.modify (sect - 1) (fun x => ⟨x.bytes.modify off (fun b => b ^^^ BitVec.ofNat 8 flip), x.crc ^^^ crc⟩) }

end Sys2Proof.Machine
end

