-- ==== Sys2Proof/Machine/Launches.lean ====
section
/-!
DEFINITION. Launches (11 R313; 14 R372, R373, R376, R377, R394 to R397): the LAUNCH instruction, the launch rings, completion, killing,
the host's launch commands and the watchdog.
-/
namespace Sys2Proof.Machine
open Sys2Proof

/-! ## LAUNCH (11 R313) -/

/-- The bytes of words, and the offset of the first poisoned one. -/
def wordsBytes (ws : List RegWord) : List Byte := ws.flatMap (fun w => Word.toBytes 4 w.val.toNat)
def firstPois (ws : List RegWord) : Option Nat := (ws.findIdx? (·.pois)).map (· * 4)

/-- LAUNCH d, [a]: a release at device scope; the record is read and checked at once; a later run takes the identifier from its log. -/
def execLaunch (f : F2) (s : State) : Out :=
  runOnceOf f.h 8 (f.d, 1) [(f.a, 2)] (fun is vs s =>
    let gk := is.key
    let tk := (s.group gk).team
    let a := argN vs 0
    let finish (kid : Nat) (s : State) : Ran :=
      putDone is f.d 1 kid (s.fold tk { kind := 0x0A, mask := 0, aux := 0, addr := BitVec.ofNat 64 a, d0 := BitVec.ofNat 64 kid, d1 := 0 })
    match sourceCheck gk 64 (sourceParts a 128) s with
    | (.error e, s) => trapAt s is e.1 e.2
    | (.ok ps, s) =>
      if s.isRerun gk then withRecord s is [0x09] (fun r s => finish r.value s)
      else
        releasing s is .device (fun v =>
          match v.sourceRead gk ps with
          | none => .held (s.parkFor gk .room) is.lowest
          | some (ws, s) =>
            let heldBy := if (s.launchOf gk).checked then some (s.teamOf gk).sameAs else none
            let (kid, s) := s.submit (wordsBytes ws) (firstPois ws) (s.tenantOf gk) (.team tk) heldBy
            finish kid (s.logAppend gk 0x09 32 kid []))) s

/-! ## Rings (14 R372, R373) -/

def State.ring (s : State) (r : Nat) : Ring := kvGetD Ring.reset s.rings r
def State.setRing (s : State) (r : Nat) (x : Ring) : State := { s with rings := kvPut Ring.reset s.rings r x }

/-- Entries of a ring. -/
def Ring.size (x : Ring) : Nat := 2 ^ (if 4 ≤ x.logsize && x.logsize ≤ 12 then x.logsize else 4)
/-- Records between HEAD and TAIL. -/
def Ring.waiting (x : Ring) : Nat := (x.tail + 65536 - x.head) % 65536

/-- Whether a function reaches a ring: the physical function any, a virtual function the rings of its tenant. -/
def Ring.reaches (x : Ring) (fn : Nat) : Bool := fn = 0 || x.tenant = fn

/-- Take a ring out of use with a record (14 R372). -/
def State.ringStop (s : State) (r slot : Nat) : State :=
  let x := s.ring r
  (s.setRing r { x with en := false }).raiseDispatcher recRING (fun e => { e with tenant := x.tenant, detail := r + 2 ^ 8 * slot })

/-- RING_DOORBELL: a write of TAIL; an overrun stops the ring. -/
def execRingDoorbell (fn r val : Nat) (s : State) : Out :=
  let x := s.ring r
  if !s.hostOpen || 64 ≤ r || !x.reaches fn then .next s
  else
    let x := { x with tail := val % 65536 }
    let s := s.setRing r x
    .next (if x.size < x.waiting then s.ringStop r (x.head % x.size) else s)

/-- LQCTL_WRITE: EN, LOGSIZE, and from the physical function TENANT; after a failed restore EN stays 0 (17 R488). -/
def execLqctlWrite (fn r val : Nat) (s : State) : Out :=
  let x := s.ring r
  if !s.hostOpen || 64 ≤ r || !x.reaches fn then .next s
  else
    .next (s.setRing r { x with en := Word.bit val 31 && !s.ringsShut
                                logsize := if 4 ≤ Word.bits val 23 20 && Word.bits val 23 20 ≤ 12 then Word.bits val 23 20 else 4
                                tenant := if fn = 0 then Word.bits val 12 8 else x.tenant })

/-- RECORD_FETCH (14 R373): the head record of a ring is copied into the device, HEAD advances, and the record is checked. -/
def execRecordFetch (r : Nat) (s : State) : Out :=
  let x := s.ring r
  if !s.ready || 64 ≤ r || !x.en || 16 < x.tenant || x.waiting = 0 || 1024 ≤ s.launches.length then .next s
  else
    let slot := x.head % x.size
    if x.size < x.waiting then .next (s.ringStop r slot)
    else
      let va := (x.base + 128 * slot) % 2 ^ 57
      match translateUnit s x.tenant va with
      | (.unmapped _, s) => .next (s.ringStop r slot)
      | (.ok m _, s) =>
        if !m.r || m.attr = .prot then .next (s.ringStop r slot)
        else
          let (cells, s) := physCells m.host (m.phys va) (grains 16 (m.phys va) 128) s
          let s := s.setRing r { x with head := (x.head + 1) % 65536 }
          .next (s.submit (cellBytes cells) (cells.findIdx? (·.pois)) x.tenant (.ring r slot) none).2

/-! ## The end of a launch (01 R17, 14 R377) -/

/-- Forget a launch: its teams but for those of copy commands that are still to run, its groups and gangs; those that waited for it
wait no more (14 R373). -/
def State.forgetLaunch (s : State) (kid : Nat) : State :=
  let named (tk : Nat) : Bool := s.engines.any (fun e => (e.2.ring ++ e.2.busy.toList).any (fun c => c.team == some tk))
  { s with teams := s.teams.filter (fun e => e.2.kid ≠ kid || named e.1)
           groups := s.groups.filter (fun e => (s.team e.2.team).kid ≠ kid)
           gangs := s.gangs.filter (fun e => e.2.kid ≠ kid)
           launches := (kvDel s.launches kid).map (fun e => (e.1, { e.2 with waitsFor := if e.2.waitsFor = some kid then none else e.2.waitsFor })) }

/-- Whether a launch is complete: its teams have ended, its checks are resolved, its versions are gone, no run is left. -/
def State.complete_ (s : State) (kid : Nat) : Bool :=
  match kvGet s.launches kid with
  | none => false
  | some l =>
    let n := l.r.gridX * l.r.gridY * l.r.gridZ
    l.next = n && l.ended = n && s.sleeve.all (fun e => e.2.kid ≠ kid) && s.apron.all (fun v => v.kid ≠ kid)
      && s.teams.all (fun e => e.2.kid ≠ kid || e.2.kind = .original)

/-- LAUNCH_COMPLETE. -/
def execLaunchComplete (kid : Nat) (s : State) : Out :=
  .next (if s.complete_ kid then (s.report (s.launch kid) kid 0 0).forgetLaunch kid else s)

/-- The teams of a launch. -/
def State.teamsOf (s : State) (kid : Nat) : List Nat := (s.teams.filter (fun e => e.2.kid == kid)).map (·.1)

/-- End every team of a launch where it stands; versions, partials and Sleeve entries are dropped (14 Table 14.12). -/
def State.wipeLaunch (s : State) (kid : Nat) : State :=
  let s := (s.teamsOf kid).foldl (fun s tk =>
    (if (s.team tk).resid.onCore then s.freeTeam tk else s).modTeam tk (fun tm => { tm with resid := .gone, scratchSize := 0, scratch := [] })) s
  { s with apron := s.apron.filter (fun v => v.kid ≠ kid), sleeve := s.sleeve.filter (fun e => e.2.kid ≠ kid) }

/-- Kill a launch with a status (14 Table 14.12). -/
def State.killLaunch (s : State) (kid status : Nat) : State :=
  let s := s.wipeLaunch kid
  (s.report (s.launch kid) kid status 0).forgetLaunch kid

/-! ## Launch commands (14 R394) -/

/-- The launch that a function may name, if the device holds it. -/
def State.mayName (s : State) (fn kid : Nat) : Bool :=
  match kvGet s.launches kid with | some l => fn = 0 || l.r.tenant = fn | none => false

/-- An ignored command is counted in the error log. -/
def State.lcmdIgnored (s : State) (fn kid : Nat) : State := s.raiseDispatcher recRING (fun r => { r with kid := kid, tenant := fn })

/-- Pre-empt every resident team of a launch. -/
def State.preemptLaunch (s : State) (kid : Nat) : State := (s.teamsOf kid).foldl State.preemptTeam s

/-- Hold teams of a launch: none of them is restored until a command says so. -/
def State.holdTeams (s : State) (kid : Nat) (p : Team → Bool) : State :=
  { s with teams := s.teams.map (fun e => if e.2.kid = kid && p e.2 then (e.1, { e.2 with held := true }) else e) }

/-- LCMD_PREEMPT, CMD 1. -/
def execLcmdPreempt (fn kid : Nat) (s : State) : Out :=
  .next (if !s.hostOpen then s
    else if s.mayName fn kid then (s.holdTeams kid (·.resid.onCore)).preemptLaunch kid
    else s.lcmdIgnored fn kid)

/-- LCMD_RESUME, CMD 2. -/
def execLcmdResume (fn kid : Nat) (s : State) : Out :=
  .next (if !s.hostOpen then s
    else if s.mayName fn kid && s.teams.any (fun e => e.2.kid == kid && e.2.held) then
      { s with teams := s.teams.map (fun e => if e.2.kid = kid then (e.1, { e.2 with held := false }) else e) }
    else s.lcmdIgnored fn kid)

/-- LCMD_KILL, CMD 3. -/
def execLcmdKill (fn kid : Nat) (s : State) : Out :=
  .next (if !s.hostOpen then s else if s.mayName fn kid then s.killLaunch kid 6 else s.lcmdIgnored fn kid)

/-! ## The watchdog (14 R395 to R397) -/

/-- The watchdog fires for a launch, or for one of its teams. -/
def State.watchdog (s : State) (kid : Nat) (tk : Option Nat) : State :=
  let l := s.launch kid
  let s := (s.preemptLaunch kid).modLaunch kid (fun l => { l with firings := l.firings + 1, wallUsed := 0, fired := true })
  let s := s.raise tk { ErrRec.device s recWATCHDOG 11 4 with
    code := 0x60, kid := kid, tenant := l.r.tenant
    team := match tk with | some t => (s.team t).tid | none => 0
    run := match tk with | some t => runCode (s.team t).kind | none => 3 }
  match l.r.wdpol with
  | .kill => s.killLaunch kid 5
  | .resume => if 4 ≤ l.firings + 1 then s.killLaunch kid 5 else s
  | .hold => s.holdTeams kid (fun tm => tm.resid ≠ .gone)

/-- The wall-clock limit of a launch in ns, if it has one. -/
def State.wallLimit (s : State) (l : Launch) : Option Nat :=
  if l.r.wall ≠ 0 then some (l.r.wall * 1000000) else if l.r.persist then none else some (s.settings.wall * 1000000)

/-- WALL_CLOCK_EXPIRY. -/
def execWallClockExpiry (kid : Nat) (s : State) : Out :=
  match kvGet s.launches kid with
  | some l =>
    .next (match s.wallLimit l with
      | some t => if t < l.wallUsed && s.teams.any (fun e => e.2.kid == kid && e.2.resid.onCore) then s.watchdog kid none else s
      | none => s)
  | none => .next s

/-- Whether a group of a team is halted at a BKPT. -/
def State.bkptHalted (s : State) (tk : Nat) : Bool :=
  (s.team tk).groups.any (fun gk => match (s.group gk).run with | .halted _ => true | _ => false)

/-- HEARTBEAT_EXPIRY. -/
def execHeartbeatExpiry (tk : Nat) (s : State) : Out :=
  match kvGet s.teams tk with
  | some tm =>
    let l := s.launch tm.kid
    .next (if l.r.persist && tm.resid == .placed && !s.bkptHalted tk && tm.beatAt + 1000 * l.r.beat ≤ s.clk.toNat then s.watchdog tm.kid (some tk) else s)
  | none => .next s

end Sys2Proof.Machine
end

