-- ==== Sys2Proof/Machine/Preempt.lean ====
section
/-!
DEFINITION. Slot tables (14 R382, R383) and pre-emption (14 R388 to R393; 01 R58; 08 R246; 09 R261; 10 R284; 16 R450): the halt, the save
of a team's context image, and the restore of a gang.
-/
namespace Sys2Proof.Machine
open Sys2Proof

/-! ## Slot tables (14 R382, R383) -/

/-- Write 8 entries of a slot table, from entry 8i; bits [6:5] of an entry are reserved. -/
def slotWrite (t : List Byte) (i val : Nat) : List Byte :=
  (List.range 8).foldl (fun t j => t.set (8 * i + j) (BitVec.ofNat 8 (val / 2 ^ (8 * j)) &&& 0x9F)) t

/-- SLOT_TABLE_WRITE: the physical function writes a word of a core's table, or its control word. -/
def execSlotTableWrite (fn core off val : Nat) (s : State) : Out :=
  .next (if !s.hostOpen || fn ≠ 0 || Config.cores ≤ core then s
    else if off = 0x40 then s.modCore core (fun k => { k with lend := Word.bit val 0 })
    else if off % 8 = 0 && off < 0x40 then s.modCore core (fun k => { k with slots := slotWrite k.slots (off / 8) val })
    else s)

/-- SLOT_TABLE_APPLY: at a cycle c with c mod 64 = 0 what was written takes effect; teams whose launch no longer has its SHARE on the
core are pre-empted. -/
def execSlotTableApply (core : Nat) (s : State) : Out :=
  let k := s.core core
  if s.cycle % 64 ≠ 0 || (k.slots = k.slotsOn && k.lend = k.lendOn) then .next s
  else
    let s := s.modCore core (fun k => { k with slotsOn := k.slots, lendOn := k.lend })
    .next ((s.teams.filter (fun e => e.2.core == core && e.2.resid == .placed)).foldl (fun s e =>
      let l := s.launch e.2.kid
      if (s.core core).entriesOf l.r.tenant < l.r.share then s.preemptTeam e.1 else s) s)

/-! ## The halt (14 R388 to R390) -/

def State.gangTeams (s : State) (gang : Nat) : List Nat := (s.gang gang).members

/-- Whether a team's reservation has a pass in the array. -/
def State.passesRun (s : State) (tk : Nat) : Bool :=
  match (s.quad (Config.quadOf (s.team tk).core)).resOf tk with
  | some (_, r) => r.ops.any (fun o => !o.inArray.isEmpty)
  | none => false

/-- A descriptor goes on to a 64-byte boundary of its box order (09 R261). -/
def moveToBoundary (c id : Nat) : Nat → State → State
  | 0, s => s
  | fuel + 1, s =>
    match s.move c id with
    | some m =>
      if m.st = .working && m.pos % 64 ≠ 0 && m.pos < m.d.total then
        match s.movePiece c m true with
        | some s => moveToBoundary c id fuel s
        | none => s
      else s
    | none => s

/-- The mover brings a team's descriptors to a boundary (14 R388). -/
def State.stopMoves (s : State) (tk : Nat) : State :=
  let c := (s.team tk).core
  ((s.core c).moves.filter (fun m => m.team == tk)).foldl (fun s m => moveToBoundary c m.id 64 s) s

/-- CORE_HALTED: the members of a gang that were asked to halt have halted; no pass of theirs is in the array, and their movers stand at a
boundary. -/
def execCoreHalted (gang : Nat) (s : State) : Out :=
  let ms := (s.gangTeams gang).filter (fun tk => (s.team tk).resid == .preempting)
  .next (if ms.any s.passesRun then s
    else ms.foldl (fun s tk => s.modTeam tk (fun tm => { tm with resid := .halted })) (ms.foldl State.stopMoves s))

/-! ## The save (14 R391) -/

/-- The registers of a thread that a save keeps (01 R58). -/
def Thread.keep (th : Thread) : Thread :=
  match th.ent with
  | some e => { th with v := th.v.filter (fun x => x.1 < e.vlive || th.vw.contains x.1) }
  | none => th

/-- What the save and the restore make of a group's wait: a blocking wait is executed again, a WAITEV ends true, a SLEEP ends; what
has stopped or ended the group stays (14 R388, 04 R156, 11 R315). -/
def RunSt.saved : RunSt → RunSt
  | .regq => .regq
  | .acquire i => .acquire i
  | .stopped => .stopped
  | .halted t => .halted t
  | .ended => .ended
  | _ => .running

/-- The uniform registers that a save keeps (01 R58): those below SLIVE of the block that the issuing set is in, and those written since
the first of its threads entered it; all, while that block is not checked. -/
def Group.keepS (g : Group) : RegFile :=
  match (g.thread (g.issuing.headD 0)).ent with
  | some e =>
    let since := g.issuing.foldl (fun n t => min n (g.thread t).entAt) g.entries
    g.s.filter (fun x => x.1 < 4 * e.slive || since ≤ kvGetD 0 g.sw x.1)
  | none => g.s

/-- An outstanding load is recorded by its address, to be issued again (14 R388). -/
def Pending.keep (p : Pending) : Pending := if p.again.isSome then { p with ready := false, req := none, due := true, words := [] } else { p with req := none }

/-- A group as its context image keeps it. -/
def Group.keep (g : Group) : Group :=
  { g with pend := g.pend.map Pending.keep, served := false, threads := g.threads.map Thread.keep, s := g.keepS, loops := g.loops.map (fun l => { l with buf := [] })
           run := g.run.saved, begun := false, yieldUntil := 0 }

/-- Whether everything that a save waits for has ended: operations that the matrix engine has begun, passes that were granted, and
atomics whose value is not fixed (14 R388; 10 R284). -/
def State.maySave (s : State) (tk : Nat) : Bool :=
  let tm := s.team tk
  (match (s.quad (Config.quadOf tm.core)).resOf tk with
    | some (_, r) => r.ops.all (fun o => !o.begun && o.inArray.isEmpty)
    | none => true)
  && tm.groups.all (fun gk => (s.group gk).pend.all (fun p => p.ready || p.again.isSome))

/-- The state that a team owns outside its groups (14 Table 14.10). -/
def State.imageOf (s : State) (tk : Nat) : Image :=
  let tm := s.team tk
  let k := s.core tm.core
  let q := s.quad (Config.quadOf tm.core)
  let rbs := (q.rbs.filter (fun e => e.2 == tk)).map (·.1)
  { res := (q.resOf tk).map (·.2), tiles := q.tiles.filter (fun e => (q.tilesOf tk).contains e.1), rbs := rbs
    acc := q.acc.filter (fun e => (q.rowsOf tk).contains (e.1 / 256 / 64)), etags := q.etags.filter (fun e => rbs.contains (e.1 / 4))
    queues := k.queues.filter (fun e => e.2.owner == tk), conv := q.conv.filter (fun e => e.2.owner == tk)
    deque := (match k.deque with | some d => if d.kid = tm.kid && tm.kind = .original && s.lastOnCore tk then some d.entries else none | none => none)
    moves := k.moves.filter (fun m => m.team == tk), slog := k.slog.filter (fun e => e.team == tk), sections := [] }

/-- The ended members of a gang that has no member left on a core are saved with it (08 R221). -/
def State.saveEnded (s : State) (gang : Nat) : State :=
  let ms := s.gangTeams gang
  if ms.any s.onCore then s
  else ms.foldl (fun s tk => s.modTeam tk (fun tm => { tm with resid := if tm.resid = .gone then .goneSaved else tm.resid })) s

/-- CONTEXT_SAVE: the image of a halted team is written to the save area, and the team leaves its core. -/
def execContextSave (tk : Nat) (s : State) : Out :=
  if (match kvGet s.teams tk with | some tm => tm.resid ≠ .halted | none => true) || !s.maySave tk then .next s
  else
    let ws := (s.team tk).groups.filter (fun gk => match (s.group gk).run with | .event _ _ _ => true | _ => false)
    let s := ws.foldl (fun s gk => s.endWait gk true) s
    let s := (s.team tk).groups.foldl (fun s gk => s.modGroup gk Group.keep) s
    let im := s.sealImage tk (s.imageOf tk)
    let s := (s.leaveCore tk).modTeam tk (fun tm => { tm with resid := .saved, image := some im })
    .next (s.saveEnded (s.team tk).gang)

/-! ## The restore (14 R392, R393; 15 R415, R431) -/

/-- Whether a core has room for a saved team with each group on its lane. -/
def FreeRes.holdsTeam (f : FreeRes) (scratch : Nat) (rs : List Role) (gs : List (Nat × Nat)) : Bool :=
  scratch ≤ f.scratch && uniformBytes rs ≤ f.uniform
    && (gs.foldl (fun (x : Bool × FreeRes) g =>
        let r := rs.getD g.2 Role.none
        let l := x.2.lanes.getD g.1 (0, 0, 0)
        (x.1 && 128 * r.vregs ≤ l.1 && 32 * r.pocket ≤ l.2.1 && 0 < l.2.2, x.2.takeGroup g.1 r)) (true, f)).1

/-- The tiles and row blocks that an image's posted operations release. -/
def Image.releases (im : Image) : List Nat × List Nat :=
  let ops := (im.res.toList.flatMap (·.ops)).map (·.kind)
  (ops.filterMap (fun k => match k with | .untile t => some t | _ => none), ops.flatMap (fun k => match k with | .unrow l => l | _ => []))

/-- Whether a team's matrix state can be installed on a quad: an unused reservation entry, and no tile or row block of it, those that it has
still to release included, owned. -/
def Quad.takes (q : Quad) (tk : Nat) (im : Image) : Bool :=
  (im.res.isNone || (q.res.length < 16 && (im.tiles.map (·.1) ++ im.releases.1).all (fun t => !q.tileTaken tk t)
      && (im.rbs ++ im.releases.2).all (fun rb => !q.rbTaken tk rb)))
    && im.conv.all (fun e => (kvGet q.conv e.1).isNone)

/-- Whether a core is one on which a saved team can be restored. -/
def State.restoreFits (s : State) (tk c : Nat) : Bool :=
  let tm := s.team tk
  let l := s.launch tm.kid
  let runOk := tm.kind = .original || (match kvGet s.sleeve tm.sameAs with | some e => e.allows tm.kind c | none => true)
  if !s.coreServes c l.r.tenant l.r.share || !runOk then false
  else if tm.resid = .goneSaved then tm.scratchSize ≤ (s.freeRes c []).scratch
  else
    let k := s.core c
    (s.freeRes c []).holdsTeam tm.scratchSize tm.roles (tm.groups.map (fun gk => ((s.group gk).lane, (s.group gk).role)))
      && (match tm.image with
        | some im =>
          (s.quad (Config.quadOf c)).takes tk im && im.queues.all (fun e => (kvGet k.queues e.1).isNone)
            && ((im.deque.isNone && !(l.r.deque && tm.kind == .original)) || s.dequeFree c tm.kid [])
        | none => true)

/-- A saved reservation as a restore posts it again, in its order and now (10 R284, R294). -/
def Reservation.again (r : Reservation) (cycle : Nat) : Reservation := { r with ops := r.ops.map (fun o => { o with at_ := cycle }) }

/-- Put an image's state onto a core and its quad (08 R246, 09 R261, 10 R284).  Its side-log entries all come in, also beside so many others that the
log holds more than 128 for a while (log 43). -/
def State.install (s : State) (kid c : Nat) (im : Image) : State :=
  let all {α : Type} (m new : List (Nat × α)) : List (Nat × α) := new.foldl (fun m e => kvSet m e.1 e.2) m
  let s := s.modCore c (fun k =>
    { k with moves := k.moves ++ im.moves.map (fun m => if m.st = .working then { m with st := .queued } else m), slog := k.slog ++ im.slog, queues := all k.queues im.queues, l1 := []
             deque := match im.deque with
               | some es => some ⟨kid, (match k.deque with | some d => d.entries | none => []) ++ es⟩
               | none => k.deque })
  s.modQuad (Config.quadOf c) (fun q =>
    { q with tiles := all q.tiles im.tiles, acc := all q.acc im.acc, etags := all q.etags im.etags, conv := all q.conv im.conv
             res := (match im.res with
               | some r => kvSet q.res (((List.range 16).find? (fun i => (kvGet q.res i).isNone)).getD 0) (r.again s.cycle)
               | none => q.res)
             rbs := (match im.res with
               | some r => im.rbs.foldl (fun m rb => kvSet m rb r.team) q.rbs
               | none => q.rbs) })

/-- The core of a run, as its Sleeve entry keeps it (15 Table 15.6). -/
def SleeveEntry.moved (e : SleeveEntry) (k : RunKind) (c : Nat) : SleeveEntry :=
  match k with
  | .original => { e with coreO := c }
  | .replay => { e with coreR := some c }
  | .auth => { e with coreA := some c }

/-- Restore one team on a core. -/
def State.restoreTeam (s : State) (tk c : Nat) : State :=
  let tm := s.team tk
  let im := tm.image.getD ⟨none, [], [], [], [], [], [], none, [], [], []⟩
  let thr := (s.core tm.core).thr + 2 ^ 32 - tm.startThr % 2 ^ 32
  let s := if tm.kind = .original && tm.resid ≠ .goneSaved then s.giveDeque (s.launch tm.kid) c else s
  let s := (s.install tm.kid c im).modTeam tk (fun tm =>
    { tm with core := c, image := none, resid := if tm.resid = .goneSaved then .gone else .placed, beatAt := s.clk.toNat
              placedAt := s.stamp, startThr := ((s.core c).thr + 2 ^ 33 - thr) % 2 ^ 32 })
  let s := ({ s with stamp := s.stamp + 1 } : State).modSleeve tm.sameAs (fun e => e.moved tm.kind c)
  tm.groups.foldl (fun s gk =>
    match (s.group gk).run with
    | .acquire i => (s.modGroup gk (fun g => { g with run := .running })).acquireAt gk i
    | _ => s) s

/-- The team of a corrupt image (16 R450): every thread that was live dies with an IMAGE record that names the section. -/
def State.restoreBad (s : State) (tk c sect : Nat) : State :=
  let gks := (s.team tk).groups
  let s := s.modTeam tk (fun tm => { tm with core := c, image := none, resid := .placed, scratch := [], regq := none })
  gks.foldl (fun s gk =>
    let s := s.modGroup gk (fun g => { g with run := .running, pend := [], deferred := [], copyAborts := [] })
    (s.group gk).live.foldl (fun s t =>
      let s := s.raiseThread gk t recIMAGE (fun r => { r with detail := sect })
      let s := s.modThread gk t (fun th => { th with st := .dead })
      let s := if (s.teamOf gk).kind = .original then s.modLaunch (s.teamOf gk).kid (fun l => { l with killed := l.killed + 1 }) else s
      s.taint tk) s |>.groupLeft gk) s

/-- The section by which a team's image fails its checks (14 R391, 01 R39): as the save area holds it, or as it is read this time. -/
def State.imageBad (s : State) (bad : List (Nat × Nat)) (tk : Nat) : Option Nat :=
  match (s.team tk).image.bind (fun im => im.badSection (s.team tk).groups.length) with
  | some i => some i
  | none => kvGet bad tk

/-- Restore the members of a gang on the cores of a cluster, rank by rank on ascending cores; none if one finds no core. -/
def restoreGo (bad : List (Nat × Nat)) : List Nat → List Nat → State → Option State
  | [], _, s => some s
  | _, [], _ => none
  | tk :: tks, c :: cs, s =>
    if s.restoreFits tk c then
      restoreGo bad tks cs (match s.imageBad bad tk with | some sect => s.restoreBad tk c sect | none => s.restoreTeam tk c)
    else restoreGo bad (tk :: tks) cs s

/-- Whether a gang is saved and may be restored: no member is held, and no launch of higher priority with PREEMPTS waits for room that
others have to leave (14 R387, R394). -/
def State.mayRestore (s : State) (gang : Nat) : Bool :=
  let ms := s.gangTeams gang
  let prio := (s.launch (s.gang gang).kid).r.prio
  ms.any (fun tk => (s.team tk).resid == .saved)
    && ms.all (fun tk => match (s.team tk).resid with | .saved | .goneSaved => !(s.team tk).held | _ => false)
    && s.serviceOrder.all (fun u => match u with | .gang kid => !((s.launch kid).r.preempts && prio < (s.launch kid).r.prio) | _ => true)

/-- CONTEXT_RESTORE: a saved gang is restored on the lowest cluster whose cores can take it, once there are colours for it; its outstanding
loads are issued again when every member is there (14 R392).  `bad` are teams whose image is read with an error this time, with the section
(16 R450). -/
def execContextRestore (gang : Nat) (bad : List (Nat × Nat)) (s : State) : Out :=
  if !s.mayRestore gang then .next s
  else
    let g := s.gang gang
    let l := s.launch g.kid
    match (List.range Config.clusters).findSome? (fun cl => (restoreGo bad g.members (coresOfCluster cl) s).map (fun r => (cl, r))) with
    | some (cl, r) =>
      if 8 < s.coloursUsed cl [] + g.colours.length then .next s
      else
      let s := r.modGang gang (fun g => { g with cluster := cl })
      let s := (g.members.flatMap (fun tk => (s.team tk).groups)).foldl State.reissueAll s
      .next (if l.fired then s.modLaunch g.kid (fun l => { l with fired := false, wallUsed := 0 }) else s)
    | none => .next s

end Sys2Proof.Machine
end

