-- ==== Sys2Proof/Machine/Queues.lean ====
section
/-!
DEFINITION. Queues and work deques (09 R272, R273, R276, R278).
-/
namespace Sys2Proof.Machine
open Sys2Proof

/-! ## Queues -/

/-- A queue register of a core. -/
def State.queue (s : State) (c q : Nat) : Option QueueReg := kvGet (s.core c).queues q
def State.setQueue (s : State) (c q : Nat) (r : QueueReg) : State := s.modCore c (fun k => { k with queues := kvSet k.queues q r })

/-- Registers of one slot (09 Table 9.9). -/
def QueueReg.words (r : QueueReg) : Nat := 2 ^ r.ssize

/-- Push the words of a value (09 R273); the queue has a free slot. -/
def State.qPush (s : State) (c q : Nat) (r : QueueReg) (ws : List Word) : State :=
  let bs := ws.flatMap (fun w => Word.toBytes 4 w.toNat)
  (s.scrWrite r.owner (r.base + 4 * r.words * r.tail) bs false).setQueue c q { r with tail := (r.tail + 1) % r.slots, full := r.full + 1 }

/-- Pop a value with the poison of its words; the queue has a filled slot. -/
def State.qPop (s : State) (c q : Nat) (r : QueueReg) : List RegWord × State :=
  let o := r.base + 4 * r.words * r.head
  (loadWords o (s.scrRead r.owner o (4 * r.words)) (fun a => s.scrPois r.owner a 1),
   s.setQueue c q { r with head := (r.head + 1) % r.slots, full := r.full - 1 })

/-- Write words to a destination once, or in the given threads that live (09 R251). -/
def State.putWordsIn (s : State) (gk : Nat) (ex : List Nat) (d : Opnd) (ws : List RegWord) : State :=
  if opIsUniform d then s.putWords gk 0 d ws
  else ex.foldl (fun s t => if ((s.group gk).thread t).st = .live then s.putWords gk t d ws else s) s

/-- The next waiting group that a queue can serve, and its service: the longest waiting of the owner's groups (09 R273).  A push is
a release at team scope, so a group pushes once its release may be performed (12 R338). -/
def State.qServeOne (s : State) (c q : Nat) (r : QueueReg) : Option State :=
  let waits (p : RunSt → Bool) : List Nat := s.waiting (fun g => g.team == r.owner && p g.run)
  let popper := if r.full = 0 then none else (waits (fun x => match x with | .qpop q' _ _ _ _ => q' == q | _ => false)).head?
  let pusher :=
    if r.slots ≤ r.full then none
    else (waits (fun x => match x with | .qpush q' _ _ _ _ => q' == q | _ => false)).find? (fun gk => s.releaseReady gk .team)
  match popper, pusher with
  | some gk, _ =>
    match (s.group gk).run with
    | .qpop _ d _ ex _ =>
      let (ws, s) := s.qPop c q r
      some ((((s.putWordsIn gk ex d ws).endTrue gk).acquire gk .team).wakeCore c)
    | _ => none
  | none, some gk =>
    match (s.group gk).run with
    | .qpush _ ws _ _ _ => some ((((s.release gk .team).qPush c q r ws).endTrue gk).wakeCore c)
    | _ => none
  | none, none => none

/-- Whether the queue that a parked push waits for has a free slot. -/
def State.pushFits (s : State) (gk : Nat) : Bool :=
  match (s.group gk).run with
  | .qpush q _ _ _ _ => (match s.queue (s.coreOf gk) q with | some r => r.full < r.slots | none => false)
  | _ => false

/-- Serve the groups that wait on a queue as far as it lets them. -/
def State.qServe (c q : Nat) : Nat → State → State
  | 0, s => s
  | fuel + 1, s =>
    match s.queue c q with
    | none => s
    | some r =>
      match s.qServeOne c q r with
      | some s => s.qServe c q fuel
      | none => s

/-- QINI a, b, c (09 R272).  Bit 7 of C, which belongs to no field, has to be 0 like the bits above 9 (log 43). -/
def execQini (f : F3) (s : State) : Out :=
  let q := constVal .w f.a
  runOnceOf f.h 8 noDst [(f.b, 1), (f.c, 1)] (fun is vs s =>
    let base := argN vs 0
    let cfg := argN vs 1
    let slots := cfg % 128
    let ss := Word.bits cfg 9 8
    let tk := (s.group is.key).team
    let c := s.coreOf is.key
    let taken := match s.queue c q with | some r => r.owner ≠ tk | none => false
    if 1024 ≤ cfg || Word.bit cfg 7 || slots = 0 || 64 < slots || ss = 3 || base % (4 * 2 ^ ss) ≠ 0
        || (s.team tk).scratchSize < base + slots * (4 * 2 ^ ss) || taken then trapNow s is 0x34
    else
      let s := s.setQueue c q { owner := tk, head := 0, tail := 0, full := 0, ssize := ss, slots := slots, base := base }
      .done ((s.passAll is).qServe c q 64)) s

/-- The queue that an instruction names, if it is set up and the team owns it. -/
def State.ownQueue (s : State) (gk q : Nat) : Option QueueReg :=
  (s.queue (s.coreOf gk) q).filter (fun r => r.owner == (s.group gk).team)

/-- The words of a slot as the operand checks take them. -/
def slotWords (s : State) (gk q : Nat) : Nat := match s.ownQueue gk q with | some r => r.words | none => 1

/-- A register whose number does not fit a slot of n registers (09 R273, 03 R109). -/
def slotMisfit (o : Opnd) (n : Nat) : Bool :=
  match o with
  | .v r => r.val % n ≠ 0
  | .s r => r.val % n ≠ 0
  | _ => false

/-- A queue instruction: ILLEGAL_FIELD and the operand checks of a value register of a slot's size, then QUEUE. -/
def runQueue (h : Hdr) (q : Nat) (d : Nat → Opnd × Nat) (srcs : Nat → List (Opnd × Nat)) (val : Opnd)
    (body : QueueReg → Issue → List Nat → State → Ran) (s : State) : Out :=
  runOnce h 8
    (fun s is =>
      let n := slotWords s is.key q
      if slotMisfit val n then some (0x02, 0)
      else
        match onceCheck s is (d n) (srcs n) with
        | some r => some r
        | none => if (s.ownQueue is.key q).isNone then some (0x34, 0) else none)
    (fun is s =>
      match s.ownQueue is.key q with
      | none => trapNow s is 0x34
      | some r => onceBody (d r.words) (srcs r.words) (body r) is s) s

/-- What QPUSH and QPOP do with their outcome: at once where the queue lets them (through `gate`, the release of a push), else after a
wait; a later run whose outcome is true waits without a timeout, one whose outcome is false does not wait (09 R278). -/
def queueBody (pd timeout : Nat) (ready : Bool) (gate : State → (State → Ran) → Ran) (park : Nat → State → Ran) (act : State → State)
    (is : Issue) (s : State) : Ran :=
  let fin (s : State) : Ran := .done ((((act s).beat is.key).putPreds is.key pd is.ex true).passAll is)
  if s.isRerun is.key then
    withRecord s is [0x05] (fun r s1 =>
      if r.value % 2 = 0 then predDone is pd false s1
      else if ready then gate s (fun s => fin (s.takeOutcome is.key))
      else park 0 s)
  else if ready then gate s (fun s => fin (s.logOutcome is.key true))
  else if timeout = 0 then outcomeFalse is pd s
  else park (s.cycle + timeout) s

def wordList (ws : List RegWord) : List Word := ws.map (·.val)

/-- QPUSH pd, a, b, c (09 R273): a push is a release at team scope; one that fails is none. -/
def execQpush (f : F3) (s : State) : Out :=
  let q := constVal .w f.a
  let pd := opNum f.d
  runQueue f.h q (fun _ => noDst) (fun n => [(f.b, n), (f.c, 1)]) f.b
    (fun r is vs s =>
      let c := s.coreOf is.key
      let ws := wordList (wordsOf r.words (argN vs 0))
      match queueBody pd (argN vs 1) (r.full < r.slots) (fun s k => releasing s is .team k)
          (fun d s => .held (s.parkIn f.h is.key is.ex (.qpush q ws pd is.ex d)) is.lowest)
          (fun s => s.qPush c q r ws) is s with
      | .done s' => .done (if ((s'.core c).queues == (s.core c).queues) then s' else (s'.qServe c q 64).wakeCore c)
      | x => x) s

/-- QPOP d, a, pb, c (09 R273); the pop is an acquire at team scope. -/
def execQpop (f : F3) (s : State) : Out :=
  let q := constVal .w f.a
  let pd := opNum f.b
  runQueue f.h q (fun n => (f.d, n)) (fun _ => [(f.c, 1)]) f.d
    (fun r is vs s =>
      let c := s.coreOf is.key
      match queueBody pd (argN vs 0) (0 < r.full) (fun s k => k s)
          (fun d s => .held (s.parkIn f.h is.key is.ex (.qpop q f.d pd is.ex d)) is.lowest)
          (fun s =>
            let (ws, s) := s.qPop c q r
            s.putWordsIn is.key is.ex f.d ws) is s with
      | .done s' => .done (if ((s'.core c).queues == (s.core c).queues) then s' else ((s'.acquire is.key .team).qServe c q 64).wakeCore c)
      | x => x) s

/-- QTRY d, a (09 R273). -/
def execQtry (f : F3) (s : State) : Out :=
  let q := constVal .w f.a
  runQueue f.h q (fun _ => (f.d, 1)) (fun _ => []) .z
    (fun r is _ s => loggedValue s is 0x08 (fun s => (r.full + 2 ^ 16 * (r.slots - r.full), s)) (putDone is f.d 1)) s

/-! ## Deques (09 R276) -/

/-- The deque of a core, if a launch holds it. -/
def State.dequeOf (s : State) (c kid : Nat) : Option Deque := ((s.core c).deque).filter (fun d => d.kid == kid)
def State.setDeque (s : State) (c : Nat) (d : Deque) : State := s.modCore c (fun k => { k with deque := some d })

/-- The words of an entry. -/
def entryWords (e : DWord × Bool) : List RegWord := (wordsOf 2 e.1.toNat).map (fun w => { w with pois := e.2 })

/-- A taken entry enters the log of the original (15 Table 15.5). -/
def State.logEntry (s : State) (gk : Nat) (e : DWord × Bool) : State := s.logAppend gk 0x06 32 e.1.toNat []

/-- Give bottom entries to the groups that wait for one, the longest waiting first (09 R276). -/
def State.dqServe (c : Nat) : Nat → State → State
  | 0, s => s
  | fuel + 1, s =>
    match (s.core c).deque with
    | none => s
    | some d =>
      match d.entries.getLast?, (s.waiting (fun g => (s.team g.team).core == c && (match g.run with | .dqpop _ _ _ _ => true | _ => false))).head? with
      | some e, some gk =>
        match (s.group gk).run with
        | .dqpop dst pd ex _ =>
          let s := (s.setDeque c { d with entries := d.entries.dropLast }).logEntry gk e
          let s := (((s.putWordsIn gk ex dst (entryWords e)).putPreds gk pd ex true).beat gk).leaveWait gk ex
          (s.acquire gk .gang).dqServe c fuel
        | _ => s
      | _, _ => s

/-- A launch without deques traps ACCESS (09 R276). -/
def withDeque (s : State) (is : Issue) (k : Nat → Deque → State → Ran) : Ran :=
  let c := s.coreOf is.key
  match s.dequeOf c (s.teamOf is.key).kid with
  | none => trapNow s is 0x21
  | some d => k c d s

/-- The event of a DQPUSH (15 Table 15.3). -/
def pushEvent (x : Nat) : SigEvent := { kind := 0x08, mask := 0, aux := 0, addr := 0, d0 := BitVec.ofNat 64 x, d1 := 0 }

/-- DQPUSH pd, b: at the bottom, a release at gang scope; a full deque gives false without a wait. -/
def execDqpush (f : F3) (s : State) : Out :=
  let pd := opNum f.d
  runOnceOf f.h 8 noDst [(f.b, 2)] (fun is vs s =>
    let gk := is.key
    let tk := (s.group gk).team
    let x := argN vs 0
    if s.isRerun gk then
      if !(s.launchOf gk).r.deque then trapNow s is 0x21
      else
        withRecord s is [0x05] (fun r s =>
          if r.value % 2 = 1 then predDone is pd true (s.fold tk (pushEvent x)) else predDone is pd false s)
    else
      withDeque s is (fun c d s =>
        if 256 ≤ d.entries.length then outcomeFalse is pd s
        else
          releasing s is .gang (fun s =>
            let s := (s.setDeque c { d with entries := d.entries ++ [(BitVec.ofNat 64 x, false)] }).fold tk (pushEvent x)
            let s := (((s.logOutcome gk true).putPreds gk pd is.ex true).passAll is).dqServe c 256
            .done (s.wakeCore c)))) s

/-- A take in a later run comes from the log (09 Table 9.11). -/
def loggedTake (d : Opnd) (pd : Nat) (beats : Bool) (is : Issue) (s : State) : Ran :=
  withRecord s is [0x06, 0x07] (fun r s =>
    if r.kind = 0x06 then
      let s := s.putWordsIn is.key is.ex d (wordsOf 2 r.value)
      let s := if beats then s.beat is.key else s
      .done (((s.putPreds is.key pd is.ex true).passAll is).acquire is.key .gang)
    else predDone is pd false s)

/-- Take an entry: the destination, the predicate, the log, the acquire. -/
def takeEntry (d : Opnd) (pd : Nat) (e : DWord × Bool) (is : Issue) (s : State) : State :=
  ((((s.logEntry is.key e).putWordsIn is.key is.ex d (entryWords e)).putPreds is.key pd is.ex true).passAll is).acquire is.key .gang

/-- DQPOP d, pb, c: the bottom entry. -/
def execDqpop (f : F3) (s : State) : Out :=
  let pd := opNum f.b
  runOnceOf f.h 8 (f.d, 2) [(f.c, 1)] (fun is vs s =>
    let gk := is.key
    if s.isRerun gk then
      if !(s.launchOf gk).r.deque then trapNow s is 0x21 else loggedTake f.d pd true is s
    else
      withDeque s is (fun c d s =>
        match d.entries.getLast? with
        | some e => .done (takeEntry f.d pd e is ((s.setDeque c { d with entries := d.entries.dropLast }).beat gk))
        | none =>
          if argN vs 0 = 0 then predDone is pd false (s.logAppend gk 0x07 32 0 [])
          else .held (s.parkIn f.h gk is.ex (.dqpop f.d pd is.ex (s.cycle + argN vs 0))) is.lowest)) s

/-- DQSTL d, a, pb: the top entry of the deque of a gang member's core. -/
def execDqstl (f : F3) (s : State) : Out :=
  let pd := opNum f.b
  runOnceOf f.h 8 (f.d, 2) [(f.a, 1)] (fun is vs s =>
    let gk := is.key
    let tm := s.teamOf gk
    let rank := argN vs 0
    let steal (s : State) : Ran :=
      let c := (s.team ((s.gang tm.gang).members.getD rank 0)).core
      match s.dequeOf c tm.kid with
      | some ⟨k, e :: es⟩ => .done ((takeEntry f.d pd e is (s.setDeque c ⟨k, es⟩)).wakeCore c)
      | _ => predDone is pd false (s.logAppend gk 0x07 32 0 [])
    if s.isRerun gk then
      if !(s.launchOf gk).r.deque then trapNow s is 0x21
      else if (s.launchOf gk).r.gang ≤ rank then trapNow s is 0x24 else loggedTake f.d pd false is s
    else withDeque s is (fun _ _ s => if (s.launchOf gk).r.gang ≤ rank then trapNow s is 0x24 else steal s)) s

end Sys2Proof.Machine
end

