-- ==== Sys2Proof/Machine/Returns.lean ====
section
/-!
DEFINITION. The events of a core that complete what groups wait for (01 R45, R59; 04 R154; 08 R229; 09 R269, R271, R278; 12 R325, R328,
R329), the messages of the protocols between cores, merge units and homes (13 R361 to R371), and unassigned opcodes (03 R122).
-/
namespace Sys2Proof.Machine
open Sys2Proof

/-! ## Data returns (08 R229, 12 R329) -/

/-- Write one returned word (08 R229), unless its register is gone (11 R312) or its thread has ended (01 R49).  A group that has not
parked for it goes on reading what the register held before (01 R45). -/
def State.landWord (s : State) (gk : Nat) (d : LoadDst) (w : RegWord) : State :=
  match d with
  | .vreg t n =>
    if ((s.group gk).thread t).st ≠ .live || (s.roleOf gk).vregs ≤ n then s
    else if (s.group gk).parked then s.modThread gk t (fun th => th.setV n [w])
    else s.modThread gk t (fun th => { th with late := kvSet th.late n w })
  | .sreg n =>
    if (s.group gk).parked then s.modGroup gk (fun g => g.setS n [w]) else s.modGroup gk (fun g => { g with lateS := kvSet g.lateS n w })
  | .none => s

/-- LOAD_DATA_RETURN: a value that is fixed reaches its registers; the group may go on (01 R45).  A load that a restore could not issue again
yet, since its page was not mapped, is issued (14 R392; log 40). -/
def execLoadDataReturn (gk tok : Nat) (s : State) : Out :=
  let g := s.group gk
  match g.pend.find? (fun p => p.tok == tok) with
  | some p =>
    if p.due && s.onCore g.team then .next ((s.reissue gk p).getD s)
    else if !p.ready || 32 < p.t || !s.onCore g.team then .next s
    else
      let s := p.words.foldl (fun s w => s.landWord gk w.1 w.2) s
      .next ((s.modGroup gk (fun g => { g with pend := g.pend.filter (fun p => p.tok ≠ tok) })).unpark gk)
  | none => .next s

/-- WRITE_ACK: the acknowledgement of a performed write reaches the core. -/
def execWriteAck (gk tok : Nat) (s : State) : Out :=
  .next (s.modGroup gk (fun g => { g with unacked := setRemove g.unacked tok }))

/-- SCRATCH_REQUEST_SERVE (12 R325): in the cycle that serves it a request that was held over goes on. -/
def execScratchRequestServe (gk : Nat) (s : State) : Out :=
  match (s.group gk).run with
  | .bank c => .next (if c ≤ s.cycle then s.modGroup gk (fun g => { g with run := .running, served := true }) else s)
  | _ => .next s

/-! ## Waits (01 R59) -/

/-- Whether a later run's team stands still: no descriptor, no engine operation, and every group has ended or waits for one another, none at a
phase that the team's own contributions have completed (09 R278; log 42). -/
def State.ownDone (s : State) (gk : Nat) : Bool :=
  let tk := (s.group gk).team
  let tm := s.team tk
  !(s.core tm.core).moves.any (fun m => m.team == tk)
    && (match (s.quad (Config.quadOf tm.core)).resOf tk with | some (_, r) => r.ops.isEmpty | none => true)
    && tm.groups.all (fun k => k = gk || (match (s.group k).run with
        | .ended | .regq | .qpop _ _ _ _ _ => true
        | .barrier off _ _ _ _ true => !s.ownFull k off
        | .qpush _ _ _ _ _ => !s.pushFits k
        | _ => false))

/-- WAIT_TIMEOUT: a wait ends with false at its deadline; the wait of a later run on a phase that the run's own contributions have completed
ends as its log says (09 R278).  A push that has found its slot goes on as soon as its release may be performed. -/
def execWaitTimeout (gk : Nat) (s : State) : Out :=
  let g := s.group gk
  if (s.team g.team).resid ≠ .placed then .next s
  else
    match g.run with
    | .barrier off _ _ _ _ true => .next (if s.ownFull gk off || s.ownDone gk then s.forceFlip g.team off else s)
    | .qpush q _ _ _ d =>
      .next (if s.pushFits gk then s.qServe (s.coreOf gk) q 64 else if d ≠ 0 && d ≤ s.cycle then s.endWait gk false else s)
    | r =>
      match r.info with
      | some w => .next (if w.deadline ≠ 0 && w.deadline ≤ s.cycle then s.endWait gk false else s)
      | none => .next s

/-- SLEEP_EXPIRY (11 R315). -/
def execSleepExpiry (gk : Nat) (s : State) : Out :=
  match (s.group gk).run with
  | .sleep d => .next (if d ≤ s.cycle then s.modGroup gk (fun g => { g with run := .running }) else s)
  | _ => .next s

/-- EPOCH_SWEEP_END (12 R328): the lines with the next tag are gone; the acquire that has waited longest is performed. -/
def execEpochSweepEnd (core i : Nat) (s : State) : Out :=
  let k := s.core core
  match k.sweeps.find? (fun e => e.1 == i) with
  | some (_, t) =>
    if s.cycle < t then .next s
    else
      let next := ((k.epochs.getD i 0) + 1) % 16
      let tagOf (l : L1Line) : Nat := match i with | 0 => l.et | 1 => l.eg | _ => l.ed
      let s := s.modCore core (fun k => { k with sweeps := k.sweeps.filter (fun e => e.1 ≠ i), l1 := k.l1.filter (fun l => tagOf l ≠ next) })
      match s.waiting (fun g => g.run == .acquire i && (s.team g.team).core == core && s.onCore g.team) with
      | gk :: _ => .next ((s.modGroup gk (fun g => { g with run := .running })).acquireAt gk i)
      | [] => .next s
  | none => .next s

/-- COLOUR_FLIP (09 R271): the flip of a colour reaches the waiters. -/
def execColourFlip (gang k : Nat) (s : State) : Out :=
  match (s.colour gang k).flips with
  | t :: _ => .next (if t ≤ s.cycle then s.colourSeen gang k else s)
  | [] => .next s

/-- HOST_DEBUG_RESUME (04 R154): the host resumes a halted group of a launch that it may name. -/
def execHostDebugResume (fn gk : Nat) (s : State) : Out :=
  match (s.group gk).run with
  | .halted _ => .next (if s.hostOpen && (fn = 0 || s.tenantOf gk = fn) then s.modGroup gk (fun g => { g with run := .running }) else s)
  | _ => .next s

/-! ## Protocol messages (13 R361, R365) -/

/-- Deliver the oldest deliverable message about a line that fits. -/
def deliverTo (dst : Node) (line : Nat) (p : MsgBody → Bool) (s : State) : Out :=
  .next ((s.deliverFirst (fun m => m.dst == dst && m.line == line && p m.body)).getD s)

def execHomeRd (line : Nat) (s : State) : Out := deliverTo .home line (fun b => match b with | .acc (.rd _ _ _ _ _ _) => true | _ => false) s
def execHomeWr (line : Nat) (s : State) : Out := deliverTo .home line (fun b => match b with | .acc (.wr _ _ _ _ _) => true | _ => false) s
def execHomeAt (line : Nat) (s : State) : Out := deliverTo .home line (fun b => match b with | .acc (.at _ _ _ _ _ _ _) => true | _ => false) s
def execHomeReg (line : Nat) (s : State) : Out := deliverTo .home line (fun b => match b with | .reg _ => true | _ => false) s
def execHomeFlush (line : Nat) (s : State) : Out := deliverTo .home line (fun b => match b with | .flush _ _ _ => true | _ => false) s
def execHomeMpart (line : Nat) (s : State) : Out := deliverTo .home line (fun b => match b with | .mpart _ _ _ => true | _ => false) s
/-- HOME_LOST: a cluster that was reset has no part (13 R369). -/
def execHomeLost (line cl : Nat) (s : State) : Out := deliverTo .home line (fun b => match b with | .lost c => c == cl | _ => false) s
/-- HOME_BASE: the base, or the spill record, has been read. -/
def execHomeBase (line : Nat) (s : State) : Out := .next (s.homeBase line)
/-- HOME_MOVE_COMPLETE: the base has moved from L2 into the merge buffer. -/
def execHomeMoveComplete (line : Nat) (s : State) : Out := .next (s.homeMoved line)
def execMergeUnitReg (cl line : Nat) (s : State) : Out := deliverTo (.unit cl) line (fun b => match b with | .reg _ => true | _ => false) s
def execMergeUnitFlush (cl line : Nat) (s : State) : Out := deliverTo (.unit cl) line (fun b => match b with | .flush _ _ _ => true | _ => false) s
/-- MERGE_UNIT_MREQ: a merge request of the home, or a core's part of one. -/
def execMergeUnitMreq (cl line : Nat) (s : State) : Out :=
  deliverTo (.unit cl) line (fun b => match b with | .mreq _ _ => true | .mpart _ _ _ => true | _ => false) s
def execMergeUnitRack (cl line : Nat) (s : State) : Out := deliverTo (.unit cl) line (fun b => match b with | .rack _ => true | _ => false) s
def execCoreRack (core line : Nat) (s : State) : Out := deliverTo (.core core) line (fun b => match b with | .rack _ => true | _ => false) s
def execCoreMreq (core line : Nat) (s : State) : Out := deliverTo (.core core) line (fun b => match b with | .mreq _ _ => true | _ => false) s

/-! ## Unassigned opcodes (03 R122) -/

/-- UNASSIGNED_OPCODE: ILLEGAL_OP, if a thread would execute it. -/
def execUnassignedOpcode (h : Hdr) (_op : Fin 512) (_low : BitVec 48) (s : State) : Out :=
  runInstr h 8 (fun _ _ => some (0x01, 0)) (fun s _ => .left s) s

end Sys2Proof.Machine
end

