-- ==== Sys2Proof/Machine/Software.lean ====
section
/-!
DEFINITION. What system software does to the machine from outside a launch: the page and group commands of TCMD (16 R435, R461), TLB
invalidation (R458), the migration fence and the page copy that follows it (R462, R463), the error ring's enable (R441), the patrol
scrub (R443), device-level errors and the containment reset of a cluster (R439; 17 R474, R475).
-/
namespace Sys2Proof.Machine
open Sys2Proof

/-! ## TCMD: pages (16 R435, R461; 08 R245) -/

/-- An ignored TCMD write is counted. -/
def State.tcmdIgnored (s : State) (t : Nat) : State := s.modCtx t (fun c => { c with tcmderr := (c.tcmderr + 1) % 2 ^ 32 })

/-- Whether a function reaches the register block of a context (16 Table 16.6). -/
def reachesCtx (fn t : Nat) : Bool := t ≤ 16 && (fn = 0 || fn = t)

/-- A page command: from the physical function only, for a launch that the device holds. -/
def State.pageCommand (s : State) (fn t kid : Nat) (f : Nat → Nat → State → State) : State :=
  if !s.hostOpen || !reachesCtx fn t then s
  else if fn ≠ 0 || !s.mayName fn kid then s.tcmdIgnored t
  else f (s.launch kid).r.tenant (s.ctx t).tcarg s

/-- The groups of a tenant that are stopped on a page fault in the page of an address. -/
def State.faultedGroups (s : State) (tenant va : Nat) : List Nat :=
  (s.groups.filter (fun e => e.2.run == .stopped && e.2.stopCode = 0x20 && pageOf e.2.stopVa == pageOf va && s.tenantOf e.1 == tenant)).map (·.1)

/-- Whether a descriptor waits in the fault queue for the page. -/
def Move.waitsFor (s : State) (tenant va : Nat) (m : Move) : Bool :=
  match m.st with
  | .faulted a => pageOf a == pageOf va && s.tenantOfTeam m.team == tenant
  | _ => false

def Move.at_ (m : Move) : Nat := match m.st with | .faulted a => a | _ => 0

def State.mapped (s : State) (tenant va : Nat) : Bool := match (translateUnit s tenant va).1 with | .ok _ _ => true | .unmapped _ => false

/-- What of the page is still held and unmapped: the team and the address of the first such access. -/
def State.stillHeld (s : State) (tenant va : Nat) : Option (Nat × Nat) :=
  let open_ (a : Nat) : Bool := !s.mapped tenant a
  let gs := (s.faultedGroups tenant va).map (fun gk => ((s.group gk).team, (s.group gk).stopVa))
  let es := s.cores.flatMap (fun k => (k.2.slog.filter (s.sameUnit tenant va)).map (fun e => (e.team, e.va)))
  let ms := s.cores.flatMap (fun k => (k.2.moves.filter (Move.waitsFor s tenant va)).map (fun m => (m.team, m.at_)))
  (gs ++ es ++ ms).find? (fun x => open_ x.2)

/-- A stopped group goes on at its resume index (16 R461, 01 R52). -/
def Group.goOn (g : Group) : Group := { g with run := .running, resume := g.stopAt, stopAt := none }

/-- RETRY for a page: each address that is mapped proceeds; for those that are not, one FAULT record is written. -/
def State.retryPage (s : State) (tenant va : Nat) : State :=
  let held := s.stillHeld tenant va
  let s := (s.faultedGroups tenant va).foldl (fun s gk =>
    if s.mapped tenant (s.group gk).stopVa then s.modGroup gk Group.goOn else s) s
  let s := (s.cores.map (·.1)).foldl (fun s c => s.applyPage c tenant va) s
  let go (s : State) (m : Move) : Move := if Move.waitsFor s tenant va m && s.mapped tenant m.at_ then { m with st := .queued } else m
  let s := (s.cores.map (·.1)).foldl (fun s c => s.modCore c (fun k => { k with moves := k.moves.map (go s) })) s
  let s := { s with teams := s.teams.map (fun e => (e.1, { e.2 with image := e.2.image.map (fun im => { im with moves := im.moves.map (go s) }) })) }
  match held with
  | some (tk, a) =>
    let fd := s.faultDetail (Config.dieOf (s.team tk).core) tenant a
    s.raise (some tk) { ErrRec.ofTeam s tk recFAULT 15 with code := 0x20, addr := a, extra := fd.entry, detail := fd.level, poison := fd.pois }
  | none => s

/-- TCMD_RETRY. -/
def execTcmdRetry (fn t kid : Nat) (s : State) : Out := .next (s.pageCommand fn t kid (fun tenant va s => s.retryPage tenant va))

/-- DENY for a page: its side-log entries are discarded, its fault-queued descriptors aborted; those of saved teams too. -/
def State.denyPage (s : State) (tenant va : Nat) : State :=
  let s := (s.cores.map (·.1)).foldl (fun s c => s.discardPage c tenant va 0x20) s
  let s := (s.cores.map (·.1)).foldl (fun s c =>
    ((s.core c).moves.filter (Move.waitsFor s tenant va)).foldl (fun s m => s.abortMove c m 0x20 m.at_) s) s
  (s.teams.map (·.1)).foldl (fun s tk =>
    match (s.team tk).image with
    | none => s
    | some im =>
      let out := im.slog.filter (s.sameUnit tenant va)
      let off := im.moves.filter (Move.waitsFor s tenant va)
      let s := s.modTeam tk (fun tm => { tm with image := some { im with
        slog := im.slog.filter (fun e => !out.contains e), moves := im.moves.filter (fun m => !off.contains m) } })
      let s := out.foldl (fun s e => (s.lostStore e.team e.va 0x20).performed e.gk e.tok) s
      off.foldl (fun s m => s.abortMove (s.team tk).core m 0x20 m.at_) s) s

/-- TCMD_DENY. -/
def execTcmdDeny (fn t kid : Nat) (s : State) : Out := .next (s.pageCommand fn t kid (fun tenant va s => s.denyPage tenant va))

/-! ## TCMD: groups and teams (16 R435, R437) -/

/-- The runs of a team of a launch that are on the device, the original first. -/
def State.runsOf (s : State) (kid tid : Nat) : List Nat :=
  let es := s.teams.filter (fun e => e.2.kid == kid && e.2.tid == tid && (match e.2.resid with | .gone | .goneSaved => false | _ => true))
  ((es.filter (fun e => e.2.kind == .original)) ++ es.filter (fun e => e.2.kind ≠ .original)).map (·.1)

/-- The stopped group that an argument names: %team and %gid. -/
def State.stoppedGroup (s : State) (kid arg : Nat) : Option Nat :=
  ((s.runsOf kid (Word.bits arg 31 0)).flatMap (fun tk => (s.team tk).groups)).find? (fun gk =>
    (s.group gk).gid = Word.bits arg 36 32 && (s.group gk).run == .stopped)

/-- A command on a stopped group. -/
def State.groupCommand (s : State) (fn t kid : Nat) (f : Group → Group) : State :=
  if !s.hostOpen || !reachesCtx fn t then s
  else if !s.mayName fn kid then s.tcmdIgnored t
  else
    match s.stoppedGroup kid (s.ctx t).tcarg with
    | some gk => (s.modGroup gk f).groupLeft gk
    | none => s.tcmdIgnored t

/-- RESUME: as TRET.resume; inside a handler, the handler's instruction for the threads of the stop state. -/
def Group.resumeStop (g : Group) : Group :=
  if g.inHandler || g.stopAt.isNone then g.goOn else { g.leaveHandler false with run := .running, stopAt := none }

/-- SKIP: as TRET.skip; inside a handler, past the handler's instruction. -/
def Group.skipStop (g : Group) : Group :=
  match g.stopAt with
  | none => g.goOn
  | some st =>
    if g.inHandler then
      st.ex.foldl (fun (g : Group) t => if st.ridx ≤ t && (g.thread t).st == .live then g.modThread t (fun th => th.advance g.stopSize) else g)
        { g with run := .running, stopAt := none, resume := none }
    else { g.leaveHandler true with run := .running, stopAt := none }

/-- TCMD_RESUME. -/
def execTcmdResume (fn t kid : Nat) (s : State) : Out := .next (s.groupCommand fn t kid Group.resumeStop)
/-- TCMD_SKIP. -/
def execTcmdSkip (fn t kid : Nat) (s : State) : Out := .next (s.groupCommand fn t kid Group.skipStop)

/-- The ending status that END gives a team: the code of its stopped group with the lowest %gid, or 0. -/
def State.stopStatus (s : State) (tk : Nat) : Nat :=
  match (s.team tk).groups.find? (fun gk => (s.group gk).run == .stopped) with
  | some gk => (s.group gk).stopCode
  | none => 0

/-- TCMD_END. -/
def execTcmdEnd (fn t kid : Nat) (s : State) : Out :=
  .next (if !s.hostOpen || !reachesCtx fn t then s
    else if !s.mayName fn kid then s.tcmdIgnored t
    else
      match s.runsOf kid (Word.bits (s.ctx t).tcarg 31 0) with
      | tk :: _ => s.endByTrap tk (s.stopStatus tk)
      | [] => s.tcmdIgnored t)

/-! ## TLB invalidation and walks (16 R452, R457 to R459) -/

/-- The bytes that ISIZE names. -/
def isizeBytes (n : Nat) : Option Nat :=
  match n with | 0 => some (2 ^ 12) | 1 => some (2 ^ 16) | 2 => some (2 ^ 21) | 3 => some (2 ^ 30) | 15 => some (2 ^ 57) | _ => none

/-- Whether an entry of a context meets a range. -/
def TlbEntry.meets (e : TlbEntry) (t base size : Nat) : Bool := e.tenant = t && e.xl.base < base + size && base < e.xl.base + e.xl.size

/-- Whether a cached table pointer of a context meets a range. -/
def WalkPtr.meets (p : WalkPtr) (t base size : Nat) : Bool := p.tenant = t && p.base < base + size && base < p.base + tableSpan p.level

/-- Remove a context's entries and cached table pointers of a range, with the entries' counts (16 R458, R459). -/
def State.invalidate (s : State) (t base size : Nat) : State :=
  let s := { s with walkPtrs := s.walkPtrs.filter (fun p => !p.meets t base size) }
  let s := (s.cores.map (·.1)).foldl (fun s c =>
    let es := (s.core c).tlb.filter (fun e => e.meets t base size)
    es.foldl (fun s e => l1Retire s c e) (s.modCore c (fun k => { k with tlb := k.tlb.filter (fun e => !e.meets t base size) }))) s
  (s.clusters.map (·.1)).foldl (fun s cl =>
    let es := (s.cluster cl).tlb.filter (fun e => e.meets t base size)
    es.foldl shadowAdd (s.modCluster cl (fun k => { k with tlb := k.tlb.filter (fun e => !e.meets t base size) }))) s

/-- TLBINV: a write of the word that holds IVA, ISIZE and IGO. -/
def execTlbinv (fn t val : Nat) (s : State) : Out :=
  if !s.hostOpen || 16 < t || fn ≠ 0 then .next s
  else
    let go := Word.bit val 0 && (s.ctx t).idone
    let s := s.modCtx t (fun c => { c with iva := Word.bits val 56 12 * 2 ^ 12, isize := Word.bits val 11 8 })
    .next (match (if go then isizeBytes (Word.bits val 11 8) else none) with
      | some n => (s.modCtx t (fun c => { c with idone := false })).invalidate t (Word.bits val 56 12 * 2 ^ 12 / n * n) n
      | none => s)

/-- TLBINV_DONE: every access of the context that was translated before is performed at device scope. -/
def execTlbinvDone (t : Nat) (s : State) : Out :=
  let waits := s.groups.any (fun e => s.tenantOf e.1 == t && (!e.2.unapplied.isEmpty || e.2.pend.any (fun p => !p.ready && p.t ≤ 32)))
  .next (if (s.ctx t).idone || waits then s else s.modCtx t (fun c => { c with idone := true }))

/-- TLB_WALK: a walk for a page of a context at a core that a team of the context is on. -/
def execTlbWalk (core t va : Nat) (s : State) : Out :=
  .next (if va < 2 ^ 57 && s.teams.any (fun e => e.2.core == core && e.2.resid.onCore && s.tenantOfTeam e.1 == t) then (translate s core t va 0).2 else s)

/-! ## The migration fence (16 R462, R463) -/

/-- The bytes that MSIZE names. -/
def msizeBytes (n : Nat) : Option Nat := match n with | 1 => some (2 ^ 16) | 2 => some (2 ^ 21) | _ => none

def inRange (base size pa : Nat) : Bool := base ≤ pa && pa < base + size

/-- MIGRATION_FENCE: a write of the word that holds MPA, MSIZE and MGO. -/
def execMigrationFence (fn t val : Nat) (s : State) : Out :=
  if !s.hostOpen || 16 < t || fn ≠ 0 then .next s
  else
    let go := Word.bit val 0 && (s.ctx t).mdone
    let s := s.modCtx t (fun c => { c with mpa := Word.bits val 56 12 * 2 ^ 12, msize := Word.bits val 11 8 })
    if !go then .next s
    else
      match msizeBytes (Word.bits val 11 8) with
      | none => .next (s.modCtx t (fun c => { c with mbusy := true }))
      | some n =>
        let base := (s.ctx t).mpa / n * n
        .next (if s.apron.any (fun v => inRange base n (64 * v.line)) then s.modCtx t (fun c => { c with mbusy := true })
          else s.modCtx t (fun c => { c with mdone := false, mbusy := false }))

/-- Step 2 of R462 over a range: lines in the update-only state are merged, dirty lines are written to memory, every copy is dropped. -/
def State.flushRange (s : State) (base n : Nat) : State :=
  let open_ := (s.homes.map (·.1)) ++ s.net.map (·.line) ++ s.homeQ.map (·.1)
  let s := (open_.filter (fun l => inRange base n (64 * l))).foldl State.settle s
  { s with l2 := s.l2.filter (fun e => !inRange base n (64 * e.1))
           cores := s.cores.map (fun e => (e.1, { e.2 with l1 := e.2.l1.filter (fun l => !inRange base n (64 * l.line)) })) }

/-- MIGRATION_FENCE_DONE. -/
def execMigrationFenceDone (t : Nat) (s : State) : Out :=
  let c := s.ctx t
  .next (if c.mdone then s
    else
      match msizeBytes c.msize with
      | some n => (s.flushRange (c.mpa / n * n) n).modCtx t (fun c => { c with mdone := true, mbusy := false })
      | none => s.modCtx t (fun c => { c with mdone := true }))

/-- MANAGEMENT_CORE_COPY (16 R463): the management core gives a package copy engine a copy by physical address. -/
def execManagementCoreCopy (e src dst len : Nat) (s : State) : Out :=
  let x := s.engine e
  .next (if !s.ready || 32 ≤ e || 64 ≤ x.ring.length then s
    else
      let c : CopyCmd := { src := src, dst := dst, len := len, doneAt := none, doneVal := 0, dig := 0, tenant := 0, phys := true, team := none,
                           gk := 0, id := s.stamp, after := [] }
      ({ s with stamp := s.stamp + 1 } : State).setEngine e { x with ring := x.ring ++ [c] })

/-! ## The error ring's enable (16 Table 16.6), the patrol scrub (16 R443) -/

/-- EREN_WRITE: a write of the word that holds EREN and ERLOG; writing 1 to EREN clears ERDROP. -/
def execErenWrite (fn t val : Nat) (s : State) : Out :=
  .next (if !s.hostOpen || !reachesCtx fn t then s
    else s.modCtx t (fun c => { c with eren := Word.bit val 31, erlog := max 6 (Word.bits val 23 20), erdrop := if Word.bit val 31 then 0 else c.erdrop }))

/-- PATROL_SCRUB reads a line and writes it back corrected: what it holds is what it held. -/
def execPatrolScrub (_pa : Nat) (s : State) : Out := .next s

/-! ## Device-level errors (16 R439; 18 R494) -/

/-- Stop the device: every launch is killed, READY falls, FAIL and FCODE stand, and a DEVICE record says why. -/
def State.stopDevice (s : State) (fcode unit die : Nat) (f : ErrRec → ErrRec) : State :=
  let s := s.raise none (f (ErrRec.device s recDEVICE unit die))
  let s := (s.launches.map (·.1)).foldl (fun s kid => (s.wipeLaunch kid).forgetLaunch kid) s
  { s with ready := false, fail := true, fcode := fcode }

/-- DEVICE_FATAL_ERROR. -/
def execDeviceFatalError (unit die : Nat) (s : State) : Out := .next (if s.ready then s.stopDevice 8 unit die id else s)

/-! ## Containment (17 R474, R475) -/

/-- The links of the fabric (log 13): die-to-die port p of die d is link 16·d + p, device link k is 64 + k, port i of the leaf that
serves cluster c is 80 + 8·c + i, up-port u of leaf i of die d is 176 + 128·d + 8·i + u.  A direction of link k is port 2·k (out of the
die, the device, the cluster, the leaf) or 2·k + 1. -/
def clusterPorts (cl : Nat) : List Nat := (List.range 16).map (· + 2 * (80 + 8 * cl))

/-- Whether a protocol message is cut off by a cluster's fence: those between its own cores and its merge unit, and those to it. -/
def NetMsg.cut (cl : Nat) (m : NetMsg) : Bool :=
  match m.src, m.dst with
  | _, .unit c => c = cl
  | _, .core c => Config.clusterOf c = cl
  | .core _, .home => false
  | _, _ => false

/-- A cluster's cores, quads and shared units after the reset; what other chapters keep there stays. -/
def Core.scrubbed (k : Core) : Core :=
  { k with l1 := [], sweeps := [], red := [], regs := [], slog := [], moves := [], queues := [], deque := none, icache := [], tlb := [] }

def State.scrubCluster (s : State) (cl : Nat) : State :=
  ({ s with cores := s.cores.map (fun e => if Config.clusterOf e.1 = cl then (e.1, e.2.scrubbed) else e)
            quads := s.quads.map (fun e => if Config.clusterOfQuad e.1 = cl then (e.1, { Quad.reset with demerit := e.2.demerit }) else e) } : State).modCluster cl
    (fun k => { k with tlb := [], mus := [], muRegs := [] })

/-- A resident team of a reset cluster: its threads are killed, its side-log entries lost, its outstanding work gone. -/
def State.containTeam (s : State) (tk : Nat) : State :=
  let tm := s.team tk
  let s := tm.groups.foldl (fun s gk => s.killThreads gk recKILL (s.group gk).live) s
  let es := (s.core tm.core).slog.filter (fun e => e.team == tk)
  let s := es.foldl (fun s e => s.lostStore tk e.va 0x20) s
  let s := tm.groups.foldl (fun s gk => s.modGroup gk (fun g => { g with pend := [], unacked := [], unapplied := [], run := .ended })) s
  s.modTeam tk (fun tm => { tm with resid := if tm.resid.onCore then .placed else tm.resid })

/-- The flits that a leaf has sent to a cluster and that are not acknowledged are recorded as dropped, by channel (17 R474; log 13). -/
def State.recordUnacked (s : State) (cl : Nat) (p : Port) : State :=
  p.vcs.foldl (fun s c =>
    let n := (c.2.sent + 65536 - c.2.accepted) % 65536
    if n = 0 then s
    else s.raise none { ErrRec.device s recFABRIC 13 (Config.dieOfCluster cl) with sev := 2, cluster := cl, detail := c.1, extra := n }) s

/-- CONTAINMENT_RESET: the ports are fenced, packets under way are cut off and recorded at their destinations, the teams are killed,
what the cluster held is gone, and every home that counts on it is told LOST. -/
def execContainmentReset (cl : Nat) (s : State) : Out :=
  if !s.ready || Config.clusters ≤ cl || (s.cluster cl).fenced.isSome then .next s
  else
    let die := Config.dieOfCluster cl
    let s := s.raise none { ErrRec.device s recDEVICE 14 die with cluster := cl }
    let s := (s.ports.filter (fun e => (clusterPorts cl).contains e.1 && e.1 % 2 = 1)).foldl (fun s e => s.recordUnacked cl e.2) s
    let open_ := (s.ports.filter (fun e => (clusterPorts cl).contains e.1 && e.1 % 2 = 0)).flatMap (fun e => e.2.vcs.filterMap (fun c => c.2.header))
    let s := open_.foldl (fun s h => s.raise none { ErrRec.device s recFABRIC 13 die with sev := 2, cluster := cl, detail := (h.getD 31 0).toNat }) s
    let s := (s.teams.filter (fun e => e.2.resid.onCore && Config.clusterOf e.2.core = cl)).foldl (fun s e => s.containTeam e.1) s
    let s : State := (s.scrubCluster cl).modCluster cl (fun k => { k with fenced := some s.clk.toNat })
    let s := { s with net := s.net.filter (fun m => !m.cut cl), ports := s.ports.filter (fun e => !(clusterPorts cl).contains e.1) }
    let lines := ((s.net.filter (fun m => m.src == .unit cl)).map (·.line) ++ s.homeQ.map (·.1)).foldl setInsert (s.homes.map (·.1))
    .next (lines.foldl (fun s l => s.send (.unit cl) .home l (.lost cl)) s)

/-- CLUSTER_UNFENCE: the reset and the scrub are done, no team of before is left; S, A and the credits start over. -/
def execClusterUnfence (cl : Nat) (s : State) : Out :=
  .next (if (s.cluster cl).fenced.isNone || s.teams.any (fun e => e.2.resid.onCore && Config.clusterOf e.2.core = cl)
      || s.net.any (fun m => m.body == .lost cl) then s
    else ({ s with ports := s.ports.filter (fun e => !(clusterPorts cl).contains e.1), net := s.net.filter (fun m => !m.cut cl) } : State).modCluster cl (fun k => { k with fenced := none }))

end Sys2Proof.Machine
end

