-- ==== Sys2Proof/Machine/FabricSteps.lean ====
section
/-!
DEFINITION. The package fabric and what lies beyond it (17): flits and their resends (R466, R477), virtual channels, credits and audits
(R469 to R473), spines (R470), die-to-die bundles (R476, R477), device links and peer packets (R481 to R484), the fabric commands (R486
to R488), BAR2 (R479), function resets (R480) and IDE (R478).  Links are numbered as Machine/Software.lean says (log 13).
-/
namespace Sys2Proof.Machine
open Sys2Proof

/-! ## Ports and channels -/

/-- Buffer depths (17 Table 17.4); die-to-die and device links have four times these. -/
def vcDepth (port vc : Nat) : Nat := ([16, 16, 8, 8, 4, 4].getD vc 0) * (if port / 2 < 80 then 4 else 1)

def Channel.idle (d : Nat) : Channel := ⟨0, d, false, 0, d, none, false⟩

def State.port (s : State) (p : Nat) : Port := kvGetD Port.reset s.ports p
def State.setPort (s : State) (p : Nat) (x : Port) : State := { s with ports := kvPut Port.reset s.ports p x }
def State.chan (s : State) (p vc : Nat) : Channel := kvGetD (Channel.idle (vcDepth p vc)) (s.port p).vcs vc
def State.modChan (s : State) (p vc : Nat) (f : Channel → Channel) : State :=
  s.setPort p { s.port p with vcs := kvPut (Channel.idle (vcDepth p vc)) (s.port p).vcs vc (f (s.chan p vc)) }

/-- The unit, the die and the number of a link as a record names them (16 Table 16.5). -/
def linkUnit (k : Nat) : Nat := if k < 64 then 8 else if k < 80 then 7 else 13
def linkDie (k : Nat) : Nat := if k < 64 then k / 16 else if k < 80 then 4 else if k < 176 then (k - 80) / 24 else min 4 ((k - 176) / 128)

/-- A FABRIC record about a link. -/
def State.fabricRecord (s : State) (k sev : Nat) (f : ErrRec → ErrRec) : State :=
  s.raise none (f { ErrRec.device s recFABRIC (linkUnit k) (linkDie k) with sev := sev, index := if k < 80 && 64 ≤ k then k - 64 else k % 65536 })

/-! ## Flits (17 R466, R467) -/

def bnat (b : Bool) (n : Nat) : Nat := if b then n else 0

/-- FCRC (17 R466): the CRC of 03 R99 over the data, then control bits [23:16] and [31:24]. -/
def flitCrc (f : Flit) : Nat :=
  crc16 (f.data ++ [BitVec.ofNat 8 (f.cvc * 32 + f.ccnt), BitVec.ofNat 8 (f.vc * 32 + bnat f.head 16 + bnat f.tail 8 + bnat f.trunc 4 + f.pois)])

def flitSound (f : Flit) : Bool := f.data.length = 32 && f.fcrc = flitCrc f

/-- The header of a packet (17 Table 17.3) as a number. -/
def headerOf (bs : List Byte) : Nat := Word.ofBytes bs
def hdrMsg (h : Nat) : Nat := Word.bits h 255 248
def msgKnown (m : Nat) : Bool := [1, 2, 3, 4, 5, 6, 0x10, 0x11, 0x12, 0x13, 0x14, 0x15, 0x16, 0x20, 0xF0, 0xF1, 0xF2].contains m
/-- The cluster that a packet comes from, or 15 (17 Table 17.1). -/
def hdrCluster (h : Nat) : Nat :=
  if Word.bits h 237 235 < 4 && Word.bits h 234 231 < 8 && Word.bits h 230 228 < 3 then 3 * Word.bits h 237 235 + Word.bits h 230 228 else 15

/-! ## Spines (17 R465, R470) -/

/-- The up-ports of leaf i that lead to spine (r, c): up-port u is the row's spine u, up-port 4 + u the column's spine u. -/
def upPorts (i r c : Nat) : List Nat :=
  (if i / 4 = r then [c] else []) ++ (if i % 4 = c then [4 + r] else [])

/-- The candidate spines from leaf x to leaf y, as 4·r + c. -/
def candidates (x y : Nat) : List Nat :=
  let a := x / 4
  let b := x % 4
  let a' := y / 4
  let b' := y % 4
  (List.range 16).filter (fun k =>
    (k / 4 = a && k % 4 = b') || (k / 4 = a' && k % 4 = b) || (a = a' && k / 4 = a) || (b = b' && k % 4 = b))

/-- Free credits from a leaf towards a spine on a VC. -/
def State.spineCredits (s : State) (die x spine vc : Nat) : Nat :=
  (upPorts x (spine / 4) (spine % 4)).foldl (fun n u => n + (s.chan (2 * (176 + 128 * die + 8 * x + u)) vc).credits) 0

def pinKey (leaf dst vc : Nat) : Nat := (leaf * 16 + dst) * 8 + vc

/-- A packet leaves leaf x of a die for leaf y: it takes the pinned spine while packets are in flight, else the candidate with the most
free credits, the lowest on a tie. -/
def State.pinFor (s : State) (die x y vc : Nat) : State :=
  let k := pinKey (16 * die + x) y vc
  match kvGet s.pins k with
  | some p => { s with pins := kvSet s.pins k { p with count := p.count + 1 } }
  | none =>
    let best := (candidates x y).foldl (fun (b : Option Nat) c =>
      match b with
      | some d => if s.spineCredits die x d vc < s.spineCredits die x c vc then some c else some d
      | none => some c) none
    { s with pins := kvSet s.pins k ⟨best.getD 0, 1⟩ }

/-- RECEIPT: up to 8 packets of a flow have left the destination leaf. -/
def execReceipt (leaf dst vc n : Nat) (s : State) : Out :=
  let k := pinKey leaf dst vc
  match kvGet s.pins k with
  | some p =>
    .next (if n = 0 || 8 < n || p.count < n then s
      else if p.count = n then { s with pins := kvDel s.pins k } else { s with pins := kvSet s.pins k { p with count := p.count - n } })
  | none => .next s

/-! ## Ports that fail (17 R476, R477) -/

/-- Die-to-die links are named by the lower die of the pair. -/
def canonLink (k : Nat) : Nat :=
  if k % 16 < 4 then 16 * (k / 32 * 2) + k % 16 else if k % 16 < 8 then 16 * (k / 16 % 2) + k % 16 else k

/-- The links of the bundle of a die-to-die link. -/
def bundleOf (k : Nat) : List Nat :=
  let b := k / 16 * 16
  if k % 16 < 4 then (List.range 4).map (· + b) else if k % 16 < 8 then (List.range 4).map (· + (b + 4)) else (List.range 8).map (· + (b + 8))

def State.bundleLive (s : State) (k dir : Nat) : List Nat := (bundleOf k).filter (fun l => (s.port (2 * l + dir)).live)

/-- The port of a flow among n live ones (17 R476). -/
def flowOf (h n : Nat) : Nat := (((Word.bits h 234 231 ^^^ Word.bits h 244 241) ^^^ Word.bits h 230 228) ^^^ Word.bits h 240 238) % n

/-- The unacknowledged flits of a failed port go, in order, to the ports that the live ones now give their flows. -/
def moveReplay (dir : Nat) (live : List Nat) : List Flit → Nat → State → State
  | [], _, s => s
  | f :: fs, h, s =>
    let h := if f.head then headerOf f.data else h
    let p := 2 * live.getD (flowOf h live.length) 0 + dir
    let s := s.setPort p { s.port p with replay := (s.port p).replay ++ [f] }
    moveReplay dir live fs h (if f.vc < 6 then s.modChan p f.vc (fun c => { c with sent := (c.sent + 1) % 65536, credits := c.credits - 1 }) else s)

/-- A die-to-die port leaves its bundle (17 R477). -/
def State.portDown (s : State) (k0 : Nat) : State :=
  let k := canonLink k0
  if 64 ≤ k || !(s.port (2 * k)).live then s
  else
    let s := s.fabricRecord k 2 id
    let out (s : State) (dir : Nat) : List Flit × State :=
      let p := s.port (2 * k + dir)
      (p.replay, s.setPort (2 * k + dir) { p with live := false, replay := [], fails := 0 })
    let (r0, s) := out s 0
    let (r1, s) := out s 1
    let live := s.bundleLive k 0
    if live.isEmpty then
      if 8 ≤ k % 16 then s.stopDevice 8 8 (k / 16) id else { s with pausedTo := s.clk.toNat + 2000 }
    else
      let hdr (dir : Nat) : Nat := headerOf ((((s.port (2 * k + dir)).vcs.filterMap (fun c => c.2.header)).head?).getD [])
      moveReplay 1 live r1 (hdr 1) (moveReplay 0 live r0 (hdr 0) s)

/-- PORT_DOWN. -/
def execPortDown (port : Nat) (s : State) : Out := .next (if port / 2 < 64 then s.portDown (port / 2) else s)

/-- The bundles that a pair of compute dies uses when it routes along the row first (17 R476). -/
def rowFirst (a b : Nat) : List Nat :=
  (if a % 2 ≠ b % 2 then [16 * (a / 2 * 2)] else []) ++ (if a / 2 ≠ b / 2 then [16 * (b % 2) + 4] else [])

/-- BUNDLE_REROUTE: once the pause is over, a pair that used a lost bundle routes along the column first. -/
def execBundleReroute (a b : Nat) (s : State) : Out :=
  .next (if a < 4 && b < 4 && a ≠ b && s.pausedTo ≤ s.clk.toNat && (rowFirst a b).any (fun k => (s.bundleLive k 0).isEmpty)
      && !s.colFirst.contains (a, b) then { s with colFirst := s.colFirst ++ [(a, b)] } else s)

/-! ## Receiving (17 R466, R471, R473, R474, R477) -/

/-- The receiver takes a flit: a slot, the header of its packet, the end of the packet; credits for the other direction. -/
def State.takeFlit (s : State) (port : Nat) (f : Flit) : State :=
  let back := port ^^^ 1
  let s := if f.ccnt = 0 || 6 ≤ f.cvc then s
    else s.modChan back f.cvc (fun c => { c with credits := c.credits + f.ccnt, free := min (vcDepth back f.cvc) (c.free + f.ccnt) })
  if 6 ≤ f.vc then s
  else
    let c := s.chan port f.vc
    if c.free = 0 then s.modChan port f.vc (fun c => { c with dropping := true })
    else
      let k := port / 2
      let s := s.modChan port f.vc (fun c =>
        { c with accepted := (c.accepted + 1) % 65536, free := c.free - 1, header := if f.head then some f.data else c.header })
      let h := headerOf ((s.chan port f.vc).header.getD [])
      let unknown := f.head && !msgKnown (hdrMsg h)
      let s := if unknown then (s.fabricRecord k 1 (fun r => { r with detail := hdrMsg h })).modChan port f.vc (fun c => { c with dropping := true }) else s
      let s := if f.head && !unknown && f.vc < 5 && 80 ≤ k && k < 176 && port % 2 = 0 && Word.bits h 247 245 = (k - 80) / 24
          && Word.bits h 244 241 ≠ (k - 80) % 8 then s.pinFor ((k - 80) / 24) ((k - 80) % 8) (Word.bits h 244 241) f.vc else s
      if !f.tail then s
      else
        let s := if f.trunc then s.fabricRecord k 2 (fun r => { r with cluster := hdrCluster h, detail := hdrMsg h })
          else if c.dropping && msgKnown (hdrMsg h) then s.fabricRecord k 2 (fun r => { r with cluster := hdrCluster h, detail := hdrMsg h }) else s
        s.modChan port f.vc (fun c => { c with header := none, dropping := false })

def State.setLink (s : State) (l : Nat) (x : Link) : State :=
  { s with fabric := { s.fabric with links := kvPut Link.reset s.fabric.links l x } }

/-- A flit that fails FCRC is resent (17 R477); after 16 resends in a row a die-to-die port leaves its bundle. -/
def State.flitFails (s : State) (port : Nat) : State :=
  let k := port / 2
  let p := s.port port
  let s := s.setPort port { p with fails := p.fails + 1 }
  let l := s.fabric.link (k - 64)
  let s := if 64 ≤ k && k < 80 then s.setLink (k - 64) { l with resends := min 65535 (l.resends + 1) } else s
  if 16 ≤ p.fails + 1 && k < 64 then s.portDown k else s

/-- FLIT_RECEIVE: a flit that its sender may send arrives, or the next flit of the replay buffer does; what reads wrong is resent. -/
def execFlitReceive (port : Nat) (f : Flit) (s : State) : Out :=
  let p := s.port port
  let good : Flit := { f with fcrc := flitCrc f }
  if !p.live || f.data.length ≠ 32 || f.vc = 6 || 7 < f.vc then .next s
  else
    match p.replay with
    | r :: rest =>
      .next (if r ≠ good then s
        else if flitSound f then ((s.setPort port { p with replay := rest, fails := 0 })).takeFlit port f
        else s.flitFails port)
    | [] =>
      let c := s.chan port f.vc
      if f.vc < 6 && (c.credits = 0 || c.bad || (port / 2 < 64 && s.clk.toNat < s.pausedTo)) then .next s
      else
        let s := if f.vc < 6 then s.modChan port f.vc (fun c => { c with sent := (c.sent + 1) % 65536, credits := c.credits - 1 }) else s
        .next (if flitSound f then s.takeFlit port f
          else (s.setPort port { s.port port with replay := [good] }).flitFails port)

/-! ## Audits (17 R472, R473) -/

/-- The receiver of a channel puts an audit on its way; at most one is in flight in a direction. -/
def State.sendAudit (s : State) (port vc : Nat) : State :=
  let c := s.chan port vc
  s.setPort port { s.port port with audits := (s.port port).audits ++ [⟨vc, c.accepted, c.free⟩] }

/-- AUDIT. -/
def execAudit (port vc : Nat) (s : State) : Out := .next (if vc < 6 && (s.port port).audits.isEmpty then s.sendAudit port vc else s)

/-- AUDIT_RECEIVE: the sender compares and corrects in place; after a parity failure the audit that answers sets the credits. -/
def execAuditReceive (port : Nat) (s : State) : Out :=
  match (s.port port).audits with
  | [] => .next s
  | a :: rest =>
    let s := s.setPort port { s.port port with audits := rest }
    let c := s.chan port a.vc
    let out := (c.sent + 65536 - a.a) % 65536
    .next (if c.bad then s.modChan port a.vc (fun c => { c with credits := a.f - out, bad := false })
      else if c.credits + out = a.f then s
      else
        (s.modChan port a.vc (fun c => { c with credits := c.credits + a.f - (c.credits + out) })).fabricRecord (port / 2) 1 (fun r =>
          { r with detail := a.vc, extra := Word.ofSigned 64 ((a.f : Int) - ((c.credits + out : Nat) : Int)) }))

/-- CREDIT_PARITY_FAIL: the sender stops on the VC and asks for an audit. -/
def execCreditParityFail (port vc : Nat) (s : State) : Out :=
  .next (if vc < 6 && !(s.chan port vc).bad then
    let s := s.modChan port vc (fun c => { c with bad := true })
    s.setPort port { s.port port with asked := (s.port port).asked ++ [vc] }
  else s)

/-- AUDIT_REQUEST: the receiver answers a request with an audit. -/
def execAuditRequest (port : Nat) (s : State) : Out :=
  match (s.port port).asked with
  | vc :: rest =>
    .next (if (s.port port).audits.isEmpty then (s.setPort port { s.port port with asked := rest }).sendAudit port vc else s)
  | [] => .next s

/-! ## Device links (17 R481 to R484) -/

/-- LINK_TRAINED. -/
def execLinkTrained (link peer : Nat) (s : State) : Out :=
  .next (if s.ready && link < 16 then s.setLink link { s.fabric.link link with up := true, peer := peer % 4096 } else s)

/-- LINK_RETRAIN_FAIL. -/
def execLinkRetrainFail (link : Nat) (s : State) : Out :=
  .next (if link < 16 && (s.fabric.link link).up then
    (s.setLink link { s.fabric.link link with up := false }).fabricRecord (64 + link) 2 id
  else s)

/-- Send a packet on the link that leads to its destination, if there is one. -/
def State.sendPacket (s : State) (p : Packet) : State :=
  match s.fabric.linkTo p.ddev with
  | some l => s.emit (.packet l p)
  | none => s

def isRequest : PeerBody → Bool
  | .rd _ _ | .wr _ _ _ | .at _ _ _ => true
  | _ => false

/-- Refuse a packet (17 R484): a record of severity 1, and REFUSE to the sender of a request. -/
def State.refusePacket (s : State) (link : Nat) (p : Packet) : State :=
  let s := s.fabricRecord (64 + link) 1 (fun r => { r with detail := p.group + 256 * p.gen })
  if isRequest p.body then
    s.sendPacket { sdev := s.fabric.node, ddev := p.sdev, group := p.group, gen := p.gen, hops := 0, id := p.id, body := .refuse }
  else s

/-- Whether a device is a member of a group, by the bitmap in device memory. -/
def State.isMember (s : State) (group dev : Nat) : Bool × State :=
  let (rd, s) := homeRead s (s.fabric.membase + 512 * group + dev / 8) 1
  (!rd.pois && Word.bit (Word.ofBytes rd.bytes) (dev % 8), s)

/-- Perform an accepted request at its home and answer it. -/
def State.performPacket (s : State) (p : Packet) : State :=
  let answer (s : State) (b : PeerBody) : State :=
    s.sendPacket { sdev := s.fabric.node, ddev := p.sdev, group := p.group, gen := (s.fabric.comm p.group).gen, hops := 0, id := p.id, body := b }
  match p.body with
  | .rd pa n =>
    let (rd, s) := homeRead s pa n
    answer s (.data rd.bytes rd.pois)
  | .wr pa bs pois => answer (homeWrite s pa bs pois) .done
  | .at pa n op =>
    let (old, pois, s) := homeAtomic s pa n op
    answer s (.data (Word.toBytes n old) pois)
  | _ => s

/-- PEER_PACKET_RECEIVE: a packet for another device is forwarded; a request for this one is accepted only if its group is valid here, of
the same generation, and has the sender as a member.  Answers to this device's own requests came with their turn (log 15). -/
def execPeerPacketReceive (link : Nat) (p : Packet) (s : State) : Out :=
  if !s.ready || 16 ≤ link || !(s.fabric.link link).up || s.fabric.node = 0xFFF then .next s
  else if p.ddev ≠ s.fabric.node then
    .next (if 8 ≤ p.hops + 1 || (s.fabric.linkTo p.ddev).isNone then s.refusePacket link p else s.sendPacket { p with hops := p.hops + 1 })
  else if !isRequest p.body then .next s
  else
    let g := s.fabric.comm p.group
    let (isIn, s) := s.isMember p.group p.sdev
    .next (if g.valid && g.gen = p.gen && isIn then s.performPacket p else s.refusePacket link p)

/-! ## Fabric commands (17 R485 to R488) -/

/-- The fabric image (17 R486) without its digest. -/
def State.fabricImage (s : State) : List Byte × State :=
  let f := s.fabric
  let rs := (List.range 4096).flatMap (fun d => Word.toBytes 2 (bnat (f.route d).valid 0x8000 + (f.route d).link))
  let gs := (List.range 256).flatMap (fun g => Word.toBytes 8 (bnat (f.comm g).valid (2 ^ 63) + (f.comm g).gen * 2 ^ 32))
  let ps := (List.range 4096).flatMap (fun k => Word.toBytes 4 (bnat (f.slot k).valid (2 ^ 31) + (f.slot k).group * 2 ^ 20 + (f.slot k).dev))
  let (rd, s) := homeRead s f.membase 131072
  (rs ++ gs ++ ps ++ rd.bytes, s)

def State.fabDone (s : State) (result index : Nat) : State := { s with fabric := { s.fabric with done := true, result := result, index := index } }

/-- FABCMD_SAVE. -/
def execFabcmdSave (fn : Nat) (s : State) : Out :=
  if !s.hostOpen || fn ≠ 0 then .next s
  else
    let (img, s) := s.fabricImage
    .next ((homeWrite s s.fabric.fabarg (img ++ digestOf img) false).fabDone 0 0)

/-- Write the tables from an image (17 R487). -/
def Fabric.load (f : Fabric) (img : List Byte) (step : Nat) : Fabric :=
  let rec_ (o n i : Nat) : Nat := Word.ofBytes ((img.drop (o + n * i)).take n)
  let table {α : Type} [DecidableEq α] (d : α) (n : Nat) (g : Nat → α) : List (Nat × α) := (List.range n).foldl (fun m i => kvPut d m i (g i)) []
  { f with routes := table (Route.mk false 0) 4096 (fun i => ⟨Word.bit (rec_ 0 2 i) 15, Word.bits (rec_ 0 2 i) 3 0⟩)
           groups := table (CommGroup.mk false 0) 256 (fun i =>
             let w := rec_ 8192 8 i
             ⟨Word.bit w 63, if Word.bit w 63 then (Word.bits w 47 32 + step) % 65536 else Word.bits w 47 32⟩)
           slots := table (PeerSlot.mk false 0 0) 4096 (fun i =>
             let w := rec_ 10240 4 i
             ⟨Word.bit w 31, Word.bits w 27 20, Word.bits w 11 0⟩) }

/-- A manifest entry: SRC, DST, LEN, the expected digest, the 8 bytes that must be 0. -/
structure ManEntry where
  src : Nat
  dst : Nat
  len : Nat
  dig : List Byte
  zero : Nat

def manEntry (bs : List Byte) : ManEntry :=
  let n (o : Nat) : Nat := Word.ofBytes ((bs.drop o).take 8)
  ⟨n 0, n 8, n 16, (bs.drop 24).take 16, n 40⟩

/-- Copy the entries one after another and compare their digests; the first that fails. -/
def restoreEntries : Nat → List ManEntry → State → Option Nat × State
  | _, [], s => (none, s)
  | i, e :: es, s =>
    let c : CopyCmd := { src := e.src, dst := e.dst, len := e.len, doneAt := none, doneVal := 0, dig := 0, tenant := 0, phys := true, team := none,
                         gk := 0, id := 0, after := [] }
    let (pick, s) := if e.src < e.dst + e.len && e.dst < e.src + e.len && 0 < e.len then s.free else (0, s)
    match copyGo c s pick e.len 0 [] s with
    | (some bs, s) => if digestOf bs = e.dig then restoreEntries (i + 1) es s else (some i, s)
    | (none, s) => (some i, s)

/-- A restore that fails keeps every EN at 0 until CLEAR (17 R488). -/
def State.fabFails (s : State) (result index : Nat) : State := { s.fabDone result index with ringsShut := true }

/-- FABCMD_RESTORE. -/
def execFabcmdRestore (fn : Nat) (s : State) : Out :=
  if !s.hostOpen || fn ≠ 0 then .next s
  else if !s.launches.isEmpty || s.rings.any (fun r => r.2.en) then .next (s.fabDone 3 0)
  else
    let a := s.fabric.fabarg
    let (hd, s) := homeRead s a 16
    let w := Word.ofBytes hd.bytes
    let n := Word.bits w 95 64
    let step := Word.bits w 111 96
    if hd.pois || 65535 < n || step = 0 || Word.bits w 127 112 ≠ 0 then .next (s.fabFails 4 0)
    else
      let (body, s) := homeRead s (a + 16) (48 * n)
      let es := (List.range n).map (fun i => manEntry ((body.bytes.drop (48 * i)).take 48))
      match (if body.pois then some 0 else es.findIdx? (fun e => 2 ^ 40 < e.len || e.zero ≠ 0)) with
      | some i => .next (s.fabFails 4 i)
      | none =>
        match restoreEntries 0 es s with
        | (some i, s) => .next (s.fabFails 1 i)
        | (none, s) =>
          let (im, s) := homeRead s (Word.bits w 63 0) 157712
          let img := im.bytes.take 157696
          if im.pois || digestOf img ≠ im.bytes.drop 157696 then .next (s.fabFails 2 0)
          else
            let s := { s with fabric := s.fabric.load img step }
            .next ((homeWrite s s.fabric.membase (img.drop 26624) false).fabDone 0 0)

/-- FABCMD_CLEAR. -/
def execFabcmdClear (fn : Nat) (s : State) : Out :=
  .next (if s.hostOpen && fn = 0 then { s.fabDone 0 0 with ringsShut := false } else s)

/-! ## The host's accesses to device memory (17 R479; 18 R490, R497) -/

/-- BAR2_ACCESS: a read's completion leaves the device: its bytes, or all ones, as `bytes 1`, or `bytes 2` where EP is set. -/
def execBar2Access (off n : Nat) (wr : Option (List Byte)) (s : State) : Out :=
  let pa := s.fabric.apbase + off
  let ones := List.replicate n (0xFF : Byte)
  let shut := !s.hostOpen || 2 ^ 36 < off + n
  match wr with
  | some bs => .next (if shut then s else homeWrite s pa bs false)
  | none =>
    if shut then .next (s.emit (.bytes 1 ones))
    else
      let (rd, s) := homeRead s pa n
      .next (if rd.pois then s.emit (.bytes 2 ones) else s.emit (.bytes 1 rd.bytes))

/-- IDE_KEY_MANAGEMENT: the link stream 0 or a selective stream 1 to 8 is set up. -/
def execIdeKeyManagement (stream : Nat) (key : List Byte) (s : State) : Out :=
  .next (if stream ≤ 8 then { s with ide := kvSet s.ide stream key } else s)

/-! ## Function-level reset (17 R480; 18 R498) -/

/-- What an FLR does for one tenant. -/
def State.flrTenant (s : State) (t : Nat) : State :=
  let s := ((s.launches.filter (fun e => e.2.r.tenant = t)).map (·.1)).foldl (fun s kid => s.killLaunch kid 6) s
  { s with ctxs := kvDel s.ctxs t, rings := s.rings.filter (fun r => r.2.tenant ≠ t), keys := kvDel s.keys t, sessions := kvDel s.sessions t }

/-- VF_FLR. -/
def execVfFlr (fn : Nat) (s : State) : Out := .next (if 1 ≤ fn && fn ≤ 16 then s.flrTenant fn else s)

/-- PF_FLR: every tenant, and the slot tables, CHKCTL and the fabric tables. -/
def execPfFlr (s : State) : Out :=
  let s := (List.range 17).foldl State.flrTenant s
  .next { s with rings := [], thresh := max 32 (min 255 s.settings.thresh)
                 cores := s.cores.map (fun e => (e.1, { e.2 with slots := slotsReset, slotsOn := slotsReset, lend := false, lendOn := false }))
                 fabric := { s.fabric with routes := [], groups := [], slots := [] } }

end Sys2Proof.Machine
end

