-- ==== Sys2Proof/Machine/BringUp.lean ====
section
/-!
DEFINITION. Power-up, full reset and the bring-up phases (18 R491 to R494), the configuration store (R495, R496), power, clocks and heat
(R503 to R505).
-/
namespace Sys2Proof.Machine
open Sys2Proof

/-! ## Full reset (18 R492) -/

/-- The state at the start of phase 0x01: every launch, version, partial, side-log entry, Sleeve entry and key is gone.  The
configuration store, the firmware and what lies outside the device stay; memory is zeroed in phase 0x05. -/
def State.restart (s : State) : State :=
  { State.reset with
    agenda := s.agenda, env := s.env, fresh := s.fresh, stamp := s.stamp, cycle := s.cycle, mem := s.mem, mpois := s.mpois, host := s.host,
    outbox := s.outbox, store := s.store, serial := s.serial, fw := s.fw, fwVer := s.fwVer, fwSig := s.fwSig, phase := 1 }

/-- A full reset by DEVCTL: %clk and what is counted since power-up go on. -/
def State.fullReset (s : State) : State :=
  { s.restart with
    clk := s.clk, confreq := s.confreq, counts := s.counts, decayed := s.decayed, healthSeq := s.healthSeq, suspects := s.suspects,
    cores := s.cores.map (fun e => (e.1, { Core.reset with demerit := e.2.demerit })),
    quads := s.quads.map (fun e => (e.1, { Quad.reset with demerit := e.2.demerit })) }

/-- The settings of the bank that a load would use. -/
def State.newestSettings (s : State) : Settings := (s.store.getD (newestBank s.store) (Bank.shipped 0)).set

/-- POWER_UP: supply returns to a device without it; CONFREQ is loaded, %clk starts. -/
def execPowerUp (s : State) : Out :=
  .next (if s.phase = 0 && !s.ready && !s.fail then { s.restart with confreq := s.newestSettings.confreq } else s)

/-- DEVCTL_RESET: a write of DEVCTL; RESET acts only with its key. -/
def execDevctlReset (fn val : Nat) (s : State) : Out :=
  if fn ≠ 0 || !s.linkOpen then .next s
  else
    let s := { s with confreq := Word.bit val 8 }
    .next (if Word.bit val 0 && Word.bits val 63 48 = 0x5C3A then s.fullReset else s)

/-- POWER_LOSS: only the configuration store, and what is fixed in the device, stays. -/
def execPowerLoss (s : State) : Out := .next { s.restart with phase := 0, mem := [], mpois := [] }

/-! ## Bring-up (18 R491, R493 to R495) -/

/-- A phase fails: bring-up stops, with a DEVICE record. -/
def State.bringUpFails (s : State) (fcode : Nat) (f : ErrRec → ErrRec) : State :=
  { s.raise none (f (ErrRec.device s recDEVICE 12 4)) with fail := true, fcode := fcode }

/-- The firmware check of the boot ROM (18 R493): the FCODE of a failure. -/
def State.firmwareBad (s : State) : Option Nat :=
  if !Config.ecdsaVerify Config.keyFirmware (Config.sha384 s.fw) s.fwSig then some 1
  else if s.fwVer < (s.store.getD (newestBank s.store) (Bank.shipped 0)).minFw then some 2
  else none

def modeOfCfg (n : Nat) : Mode := if n = 0 then .verified else modeOfCode n

/-- Phase 0x02: the verifying bank with the higher sequence number comes into force. -/
def State.loadStore (s : State) : State :=
  let x := s.newestSettings
  { s with inForce := newestBank s.store, thresh := max 32 (min 255 x.thresh), locked := x.locked, cap := min 2 x.cap, capOn := min 2 x.cap,
           spillMiB := x.spill, devMode := modeOfCfg x.mode }

/-- Map a quad out (15 R428): the spare of its cluster takes its place, its cores that are not collared are retired. -/
def State.useSpare (s : State) (cl q : Nat) : State :=
  if (s.cluster cl).spareUsed || q = (s.cluster cl).spareQuad then s
  else
    ((List.range 4).map (· + 4 * q)).foldl (fun s c => if (s.core c).collar then s else s.modCore c (fun k => { k with retired := true }))
      (s.modCluster cl (fun k => { k with spareUsed := true }))

/-- Phase 0x06: the store says which quad of each cluster is its spare; its collars and its spare-quad mapping take effect. -/
def State.mapCores (s : State) : State :=
  let b := s.store.getD s.inForce (Bank.shipped 0)
  let s := b.spareQuads.foldl (fun s e => s.modCluster e.1 (fun k => { k with spareQuad := e.2 })) s
  let s := b.spares.foldl (fun s e => s.useSpare e.1 e.2) s
  b.collars.foldl (fun s e =>
    (s.modCore e.1 (fun k => { k with collar := true, retired := false })).useSpare (Config.clusterOf e.1) (Config.quadOf e.1)) s

/-- BRING_UP_PHASE_END: a phase ends, well or with a failure that may name a stack or a site. -/
def execBringUpPhaseEnd (failure : Option Nat) (s : State) : Out :=
  if s.ready || s.fail then .next s
  else
    let go : State := { s with phase := s.phase + 1 }
    .next (match s.phase, failure with
      | 1, some _ => s.bringUpFails 1 id
      | 1, none => match s.firmwareBad with | some n => s.bringUpFails n id | none => go
      | 2, some _ => s.bringUpFails 3 id
      | 2, none => if s.store.any (·.sound) then go.loadStore else s.bringUpFails 3 id
      | 3, some _ => s.bringUpFails 4 id
      | 3, none => go
      | 4, some n => s.bringUpFails 5 (fun r => { r with unit := if n < 8 then 5 else 6, index := n })
      | 4, none => go
      | 5, some n => s.bringUpFails 5 (fun r => { r with unit := if n < 8 then 5 else 6, index := n })
      | 5, none => { go with mem := [], mpois := [] }
      | 6, some _ => s.bringUpFails 8 id
      | 6, none => { s.mapCores with phase := 0xF, ready := true, confid := s.confreq }
      | _, _ => s)

/-- FIRMWARE_LOAD: after a firmware failure the management interface brings new firmware. -/
def execFirmwareLoad (image : List Byte) (version : Nat) (sig : List Byte) (s : State) : Out :=
  .next (if s.fail && s.phase = 1 && (s.fcode = 1 || s.fcode = 2) then { s with fw := image, fwVer := version, fwSig := sig } else s)

/-! ## Updates of the store (18 R496) -/

/-- The bytes of a record to which its signature belongs, as this model writes them (log 10). -/
def storeBytes (r : StoreRec) : List Byte :=
  let n (x : Nat) : List Byte := Word.toBytes 8 x
  let pairs (l : List (Nat × Nat)) : List Byte := n l.length ++ l.flatMap (fun e => n e.1 ++ n e.2)
  match r with
  | .repair data quads spares => n 0 ++ n data.length ++ data ++ pairs quads ++ pairs spares
  | .ownerKey key => n 1 ++ key
  | .settings x => n 2 ++ n x.mode ++ n (bnat x.confreq 1) ++ n x.cap ++ n x.thresh ++ n (bnat x.locked 1) ++ n x.spill ++ n x.wall
      ++ pairs ((Settings.debug x).map (fun d => (d, 1))) ++ pairs x.modes ++ pairs x.classes
  | .uncollar core seq => n 3 ++ n core ++ n seq
  | .minFw version byOwner => n 4 ++ n version ++ n (bnat byOwner 1)

/-- Whether a signature of a record verifies under Tvedley's update key, or under the owner's. -/
def byTvedley (r : StoreRec) (sig : List Byte) : Bool := Config.ecdsaVerify Config.keyUpdate (storeBytes r) sig
def Bank.byOwner (b : Bank) (r : StoreRec) (sig : List Byte) : Bool :=
  match b.owner with
  | some key => Config.ecdsaVerify (16 + Word.ofBytes key) (storeBytes r) sig
  | none => false

/-- What an accepted record makes of a bank; none where it is not accepted (18 Table 18.4). -/
def Bank.update (b : Bank) (r : StoreRec) (sig : List Byte) : Option Bank :=
  match r with
  | .repair data quads spares => if byTvedley r sig then some { b with repair := data, spareQuads := quads, spares := spares } else none
  | .ownerKey key => if b.owner.isNone && byTvedley r sig then some { b with owner := some key } else none
  | .settings x => if b.byOwner r sig then some { b with set := x } else none
  | .uncollar core seq => if seq = b.seq && b.byOwner r sig then some { b with collars := b.collars.filter (fun e => e.1 ≠ core) } else none
  | .minFw version own => if b.minFw ≤ version && (if own then b.byOwner r sig else byTvedley r sig) then some { b with minFw := version } else none

/-- CONFIG_UPDATE: the response, `bytes 3`, reports acceptance; the record takes effect at the next full reset. -/
def execConfigUpdate (r : StoreRec) (sig : List Byte) (s : State) : Out :=
  if s.phase = 0 then .next s
  else
    match (s.store.getD (newestBank s.store) (Bank.shipped 0)).update r sig with
    | some b => .next ((s.storeWrite (fun _ => b)).emit (.bytes 3 [1]))
    | none => .next (s.emit (.bytes 3 [0]))

/-! ## Power, clocks, heat (18 R503 to R505) -/

/-- PWRCTL_WRITE: CAP, in which 3 is taken as 2, takes effect. -/
def execPwrctlWrite (fn val : Nat) (s : State) : Out :=
  .next (if s.hostOpen && fn = 0 then { s with cap := min 2 (val % 4), capOn := min 2 (val % 4) } else s)

/-- The clock of STEP n in MHz (18 R504). -/
def stepMhz (n : Nat) : Nat := 1800 - 50 * n

/-- STEP of a die and the time of its last change. -/
def State.stepOf (s : State) (die : Nat) : Nat × Nat := kvGetD (0, 0) s.steps die

/-- CLOCK_STEP_CHANGE: at most once per 100 µs, for all cores of a die at once; results do not change. -/
def execClockStepChange (die n : Nat) (s : State) : Out :=
  let now := s.clk.toNat
  .next (if !s.ready || 4 ≤ die || 18 < n || (s.stepOf die).1 = n || ((kvGet s.steps die).isSome && now < (s.stepOf die).2 + 100000) then s
    else
      ((List.range 300).map (· + 300 * die)).foldl (fun s c => s.modCore c (fun k => { k with mhz := stepMhz n, thr := k.thr + 1 }))
        { s with steps := kvSet s.steps die (n, now) })

/-- MATRIX_DUTY_THROTTLE: idle cycles between the passes of a quad; results do not change. -/
def execMatrixDutyThrottle (q : Nat) (on : Bool) (s : State) : Out :=
  .next (if Config.quads ≤ q then s else { s with duty := if on then setInsert s.duty q else setRemove s.duty q })

/-- THERMAL_TRIP: a sensor reads 105 °C or more. -/
def execThermalTrip (temp : Nat) (s : State) : Out :=
  .next (if 105 ≤ temp && !s.fail && s.phase ≠ 0 then { s with tmax := min 255 temp }.stopDevice 6 12 4 id else s)

/-- POWER_FAULT. -/
def execPowerFault (s : State) : Out := .next (if !s.fail && s.phase ≠ 0 then s.stopDevice 7 12 4 id else s)

end Sys2Proof.Machine
end

