-- ==== Sys2Proof/Machine/Attest.lean ====
section
/-!
DEFINITION. SPDM and what is asked through it: sessions and measurements (18 R501), the key-setting request (R498), bound evidence
(R502), the signed health record (15 R430).  Answers leave the device as `OutMsg.bytes`: kind 0 an SPDM message, 3 to 6 the payloads of
vendor-defined responses (log 10, log 12).
-/
namespace Sys2Proof.Machine
open Sys2Proof

/-! ## Measurements (18 Table 18.6) -/

/-- The bytes of a bank, as this model writes them (log 10). -/
def Bank.image (b : Bank) : List Byte :=
  let n (x : Nat) : List Byte := Word.toBytes 8 x
  n b.seq ++ storeBytes (.settings b.set) ++ storeBytes (.repair b.repair b.spareQuads b.spares) ++ n b.minFw ++ (b.owner.getD [])
    ++ b.collars.flatMap (fun e => n e.1 ++ n e.2.1 ++ n e.2.2)

def measRom : List Byte := Config.sha384 Config.bootRom
def State.measFw (s : State) : List Byte := Config.sha384 s.fw
def State.measStore (s : State) : List Byte := Config.sha384 (s.store.getD s.inForce (Bank.shipped 0)).image
/-- Block 4: CONF, the default checking mode, CAP. -/
def State.measMode (s : State) : List Byte :=
  [BitVec.ofNat 8 (bnat s.confid 1), BitVec.ofNat 8 (modeCode s.devMode), BitVec.ofNat 8 s.capOn] ++ List.replicate 5 0

/-! ## SPDM (18 R501) -/

def State.session (s : State) (fn : Nat) : Session := kvGetD ⟨[], false, false⟩ s.sessions fn
def State.setSession (s : State) (fn : Nat) (x : Session) : State := { s with sessions := kvSet s.sessions fn x }

/-- The first bytes of an SPDM 1.3 message (log 10): version, code, two parameters. -/
def spdmHead (code p1 : Nat) : List Byte := [0x13, BitVec.ofNat 8 code, BitVec.ofNat 8 p1, 0]

/-- An ERROR response. -/
def State.spdmError (s : State) (code : Nat) : State := s.emit (.bytes 0 (spdmHead 0x7F code))

/-- Answer a request: both enter the transcript of the function's session. -/
def State.spdmAnswer (s : State) (fn : Nat) (req : List Byte) (code : Nat) (body : List Byte → List Byte) (f : Session → Session) : State :=
  if s.phase = 0 || 16 < fn then s
  else
    let x := s.session fn
    let tr := x.transcript ++ req
    let rsp := spdmHead code 0 ++ body tr
    (s.setSession fn (f { x with transcript := tr ++ rsp })).emit (.bytes 0 rsp)

def signTranscript (tr : List Byte) : List Byte := Config.ecdsaSign Config.keyDevice (Config.sha384 tr)

/-- GET_VERSION starts the transcript anew. -/
def execGetVersion (fn : Nat) (req : List Byte) (s : State) : Out :=
  .next (if s.phase = 0 || 16 < fn then s
    else (s.setSession fn ⟨[], false, false⟩).spdmAnswer fn req 0x04 (fun _ => [0x00, 0x01, 0x00, 0x13]) id)

def execGetCapabilities (fn : Nat) (req : List Byte) (s : State) : Out :=
  .next (s.spdmAnswer fn req 0x61 (fun _ => []) id)

def execNegotiateAlgorithms (fn : Nat) (req : List Byte) (s : State) : Out :=
  .next (s.spdmAnswer fn req 0x63 (fun _ => []) id)

def execGetDigests (fn : Nat) (req : List Byte) (s : State) : Out :=
  .next (s.spdmAnswer fn req 0x01 (fun _ => Config.sha384 Config.certChain) id)

def execGetCertificate (fn : Nat) (req : List Byte) (s : State) : Out :=
  .next (s.spdmAnswer fn req 0x02 (fun _ => Config.certChain) id)

def execChallenge (fn : Nat) (req : List Byte) (s : State) : Out :=
  .next (s.spdmAnswer fn req 0x03 (fun tr => Config.sha384 Config.certChain ++ signTranscript tr) id)

def execGetMeasurements (fn : Nat) (req : List Byte) (s : State) : Out :=
  .next (s.spdmAnswer fn req 0x60 (fun tr =>
    [1] ++ measRom ++ [2] ++ s.measFw ++ Word.toBytes 8 s.fwVer ++ [3] ++ s.measStore ++ [4] ++ s.measMode ++ signTranscript tr) id)

/-- KEY_EXCHANGE opens a session. -/
def execKeyExchange (fn : Nat) (req : List Byte) (s : State) : Out :=
  .next (s.spdmAnswer fn req 0x64 signTranscript (fun x => { x with opened := true, secured := false }))

/-- FINISH secures an open session. -/
def execFinish (fn : Nat) (req : List Byte) (s : State) : Out :=
  .next (if s.phase = 0 || 16 < fn then s
    else if (s.session fn).opened then s.spdmAnswer fn req 0x65 (fun _ => []) (fun x => { x with secured := true })
    else s.spdmError 0x04)

/-! ## Keys (18 R498) and bound evidence (R502) -/

/-- KEY_SET on the function of a tenant: the response, `bytes 4`, reports whether the keys were accepted. -/
def execKeySet (t : Nat) (payload : List Byte) (s : State) : Out :=
  .next (if s.phase = 0 || 16 < t then s
    else if payload.length = 96 && (s.session t).secured && s.launches.all (fun e => e.2.r.tenant ≠ t) then
      { s with keys := kvSet s.keys t ⟨payload.take 64, payload.drop 64⟩ }.emit (.bytes 4 [1])
    else s.emit (.bytes 4 [0]))

/-- The bound evidence report (18 Table 18.7). -/
def State.boundReport (s : State) (fn : Nat) (payload : List Byte) : List Byte :=
  let body := [0x45, 0x56, 0x42, 0x52] ++ Word.toBytes 4 1 ++ payload.take 32 ++ Config.sha384 ((s.session fn).transcript ++ payload)
    ++ (payload.drop 32).take 48 ++ measRom ++ s.measFw ++ s.measStore ++ s.measMode ++ Word.toBytes 8 s.serial.toNat ++ Word.toBytes 4 fn
  body ++ Config.ecdsaSign Config.keyDevice (Config.sha384 body)

/-- BOUND_EVIDENCE: outside a secured session the answer is the error UnexpectedRequest. -/
def execBoundEvidence (fn : Nat) (payload : List Byte) (s : State) : Out :=
  .next (if s.phase = 0 || 16 < fn then s
    else if !(s.session fn).secured then s.spdmError 0x04
    else if payload.length ≠ 80 then s.spdmError 0x01
    else s.emit (.bytes 5 (s.boundReport fn payload)))

/-! ## The health record (15 R430, Table 15.16) -/

/-- A bit map of n bits. -/
def bitMap (n : Nat) (p : Nat → Bool) : List Byte :=
  (List.range (n / 8)).map (fun i => BitVec.ofNat 8 ((List.range 8).foldl (fun x j => x + bnat (p (8 * i + j)) (2 ^ j)) 0))

/-- Insert a suspect in falling order of events. -/
def insertSuspect (u : Suspect) : List Suspect → List Suspect
  | [] => [u]
  | x :: xs => if x.events < u.events then u :: x :: xs else x :: insertSuspect u xs

/-- The entries that the record lists: those with the fewest events are left out beyond 4096. -/
def State.suspectsShown (s : State) : List Suspect := (s.suspects.foldl (fun l u => insertSuspect u l) []).take 4096

def Suspect.bytes (u : Suspect) : List Byte :=
  Word.toBytes 1 u.unit ++ Word.toBytes 1 u.lane ++ Word.toBytes 2 u.index ++ Word.toBytes 4 u.events ++ Word.toBytes 8 u.last

/-- The record before its signature. -/
def State.healthBody (s : State) (nonce : List Byte) : List Byte :=
  let us := s.suspectsShown
  [0x45, 0x56, 0x48, 0x52] ++ Word.toBytes 2 1 ++ Word.toBytes 2 us.length ++ Word.toBytes 8 s.healthSeq ++ Word.toBytes 8 s.clk.toNat ++ nonce
    ++ Word.toBytes 8 s.serial.toNat ++ measRom ++ s.measFw ++ s.measStore
    ++ (List.range Config.cores).map (fun c => BitVec.ofNat 8 (s.core c).demerit)
    ++ (List.range Config.quads).map (fun q => BitVec.ofNat 8 (s.quad q).demerit)
    ++ bitMap Config.cores (fun c => (s.core c).collar) ++ bitMap Config.cores (fun c => (s.core c).retired) ++ List.replicate 8 0
    ++ (List.range 32).flatMap (fun i => Word.toBytes 8 (kvGetD 0 s.counts i)) ++ us.flatMap Suspect.bytes

/-- HEALTH_RECORD_REQUEST: the record, `bytes 6`, signed with the device attestation key. -/
def execHealthRecordRequest (nonce : List Byte) (s : State) : Out :=
  if s.phase = 0 || nonce.length ≠ 32 then .next s
  else
    let s := { s with healthSeq := s.healthSeq + 1 }
    let body := s.healthBody nonce
    .next (s.emit (.bytes 6 (body ++ Config.ecdsaSign Config.keyDevice (Config.sha384 body))))

end Sys2Proof.Machine
end

