-- ==== Sys2Proof/Machine/Cache.lean ====
section
/-!
DEFINITION. FENCE, CCTL and PREF (08 R238 to R241).
-/
namespace Sys2Proof.Machine
open Sys2Proof

/-! ## FENCE -/

/-- Apply what can be applied of a group's side-log entries (08 R244). -/
def State.applyGroup (s : State) (gk : Nat) : State :=
  let c := s.coreOf gk
  let tenant := s.tenantOf gk
  ((s.core c).slog.filter (fun e => e.gk == gk)).foldl (fun s e => s.applyPage c tenant e.va) s

/-- FENCE (08 R238, 12 R344, R345): the group waits until its release is in force and, to acquire, until the reads before it have their values;
then it acquires.  SC acts as both.  The next write is a release.  A later run completes at once (08 Table 8.9). -/
def execFence (f : FM) (s : State) : Out :=
  runInstr f.h 8 (fun _ _ => none) (fun s is =>
    let gk := is.key
    let sc := f.width.val = 1
    if s.isRerun gk then .done (s.passAll is)
    else
      let s := s.applyGroup gk
      let rel := sc || isRel f.ord
      let acq := sc || isAcq f.ord
      if (rel && !s.releaseReady gk f.scope) || (acq && !(s.group gk).pend.all (·.ready)) then .held (s.parkFor gk .release) is.lowest
      else
        let s := s.passAll is
        let s := if rel then (s.release gk f.scope).modGroup gk (fun g => { g with fenced := true }) else s
        .done (if sc || isAcq f.ord then s.acquire gk f.scope else s)) s

/-! ## PREF and CCTL -/

/-- The translation that a prefetch or a cache operation uses; what is unmapped holds no line (08 R239, R240). -/
def lineXlat (s : State) (gk va : Nat) : Option (Xlat × Nat) × State :=
  if 2 ^ 57 ≤ va then (none, s)
  else
    match translate s (s.coreOf gk) (s.tenantOf gk) va 1 with
    | (.ok x _, s) => (some (x, x.phys va), s)
    | (.unmapped _, s) => (none, s)

/-- PREF of the line of an address (08 R239): it is brought into L2, and into L1 where the hint and the page let it. -/
def prefLine (gk : Nat) (cp : Cpol) (va : Nat) (s : State) : State :=
  match lineXlat s gk va with
  | (some (x, pa), s) =>
    let line := pa / 64
    if x.r && effAttr x pa = .wb && s.inMap pa && s.linePlain line then
      let tk := (s.group gk).team
      let s := s.l2Touch line (useOf cp x pa)
      let cells := if (s.launchOf gk).checked then s.composed tk line else s.lineCells line
      if usesL1 cp x pa then s.l1Fill (s.coreOf gk) line (s.viewOf tk) cp cells else s
    else s
  | (none, s) => s

/-- A dirty line is written to memory and stays, clean, with its parity (08 Table 8.7; 13 Table 13.1; 16 R444). -/
def State.clean (s : State) (line : Nat) : State :=
  { s with l2 := kvMod s.l2 line (fun e => if e.back.isSome then { e with back := none, check := parityBits (s.lineBytes line), lost := false } else e) }

/-- A line leaves L2, written to memory if it is dirty: its state is I (13 Table 13.4). -/
def State.l2Drop (s : State) (line : Nat) : State := { s with l2 := kvDel s.l2 line }

def cleanLine (gk va : Nat) (s : State) : State :=
  match lineXlat s gk va with
  | (some (x, pa), s) => if outside x pa || !s.inMap pa then s else (s.settle (pa / 64)).clean (pa / 64)
  | (none, s) => s

/-- Write a line back, merged if it is in the update-only state, and remove it from L1 and L2. -/
def invalLine (gk va : Nat) (s : State) : State :=
  match lineXlat s gk va with
  | (some (x, pa), s) =>
    if outside x pa || !s.inMap pa then s else ((s.settle (pa / 64)).l2Drop (pa / 64)).l1Drop (s.coreOf gk) (pa / 64)
  | (none, s) => s

/-- The bytes of a line after a discard (08 R241): each is the one it held or the one of the last write-back, which is a free choice
(log 8). -/
def State.discardBytes (s : State) (line : Nat) (b : Backing) : State :=
  let (pick, s) := s.free
  let old := s.memRead (64 * line) 64
  let oldP := s.linePois line
  let s := s.l2Drop line
  [0, 1, 2, 3].foldl (fun s c =>
    let at_ (i : Nat) : Byte := if pick.testBit (16 * c + i) then b.bytes.getD (16 * c + i) 0 else old.getD (16 * c + i) 0
    let picks := (List.range 16).map (fun i => pick.testBit (16 * c + i))
    let p := (b.pois.contains c && picks.any id) || (oldP.contains c && picks.any not)
    s.memWrite (64 * line + 16 * c) ((List.range 16).map at_) p) s

/-- CCTL .discard of one line (08 R241): a line in the update-only state is merged and written back; a line of the Apron or of a
page with side-log entries is left alone. -/
def discardLine (gk va : Nat) (s : State) : State :=
  let c := s.coreOf gk
  match lineXlat s gk va with
  | (some (x, pa), s) =>
    let line := pa / 64
    if outside x pa || !s.inMap pa then s
    else if s.apron.any (fun v => v.line == line) || s.pendingPage c (s.tenantOf gk) va then s
    else if !s.linePlain line then ((s.settle line).l2Drop line).l1Drop c line
    else
      let s := s.l1Drop c line
      match kvGet s.l2 line with
      | some e => (match e.back with | some b => s.discardBytes line b | none => s.l2Drop line)
      | none => s
  | (none, s) => s

/-- The line addresses of a range. -/
def rangeLines (a n : Nat) : List Nat := if n = 0 then [] else (linesOf a n).map (· * 64)

/-- A cache operation on the range of a thread. -/
def cctlAct (op : Nat → Nat → State → State) (m : MemTurn) (a : Nat) (s : State) : TOut :=
  let n := argN m.vs 1
  if 2 ^ 57 < a + n || 2 ^ 57 ≤ a then .trap s 0x21 a
  else m.cmp s (fun s => .ok (if s.isRerun m.gk then s else (rangeLines a n).foldl (fun s l => op m.gk l s) s))

def cctlSpec (f : FM) (op : Nat → Nat → State → State) : MemSpec :=
  { once := uniOperand f.a && uniOperand f.b, dst := noDst, srcs := [.reg f.a f.pa 2 .w, .reg f.b 0 1 .w], off := extOff f.ext,
    abits := 64, hint := false, wr := false, scope := .thread, rel := false, acq := false, act := cctlAct op }

def execCctlPref (f : FM) (s : State) : Out := runMem f (cctlSpec f (fun gk va s => prefLine gk f.cpol va s)) s
def execCctlClean (f : FM) (s : State) : Out := runMem f (cctlSpec f cleanLine) s
def execCctlInval (f : FM) (s : State) : Out := runMem f (cctlSpec f invalLine) s

/-- PREF (08 R239): a hint that never traps in a thread's turn. -/
def execPref (f : FM) (s : State) : Out :=
  runMem f
    { once := uniOperand f.a, dst := noDst, srcs := [.reg f.a f.pa 2 .w], off := extOff f.ext, abits := 64, hint := true, wr := false, scope := .thread,
      rel := false, acq := false,
      act := fun m a s => m.cmp s (fun s => .ok (if s.isRerun m.gk then s else prefLine m.gk f.cpol a s)) } s

/-! ## CCTL .discard -/

/-- The check of one page of a range to be discarded: code and address. -/
def discardPageCheck (gk va : Nat) (s : State) : Option (Nat × Nat) × State :=
  match translate s (s.coreOf gk) (s.tenantOf gk) va 0 with
  | (.unmapped _, s) => (some (0x20, va), s)
  | (.ok x _, s) => (if !x.w then some (0x21, va) else if x.attr = .prot then some (0x23, va) else none, s)

def discardPages (gk : Nat) : List Nat → State → Option (Nat × Nat) × State
  | [], s => (none, s)
  | l :: ls, s =>
    match discardPageCheck gk l s with
    | (some r, s) => (some r, s)
    | (none, s) => discardPages gk ls s

/-- The ranges of every thread are checked before any has an effect (08 R241): the failing thread, the code, the address. -/
def discardCheck (gk : Nat) : List (Nat × Nat × Nat) → State → Option (Nat × Nat × Nat) × State
  | [], s => (none, s)
  | (t, a, n) :: rs, s =>
    if n = 0 then discardCheck gk rs s
    else if 2 ^ 57 < a + n || 2 ^ 57 ≤ a then (some (t, 0x21, a), s)
    else if a % 64 ≠ 0 || n % 64 ≠ 0 then (some (t, 0x22, a), s)
    else
      match discardPages gk (rangeLines a n) s with
      | (some (c, va), s) => (some (t, c, va), s)
      | (none, s) => discardCheck gk rs s

/-- CCTL .discard (08 R241): one instruction-level check for all; the original of a checked launch acts as .inval, a later run does
nothing (08 Table 8.9). -/
def execCctlDiscard (f : FM) (s : State) : Out :=
  let act (gk va : Nat) (s : State) : State := if (s.launchOf gk).checked then invalLine gk va s else discardLine gk va s
  let sp := cctlSpec f act
  runInstr f.h (extSize f.ext) (reproBar true sp.check) (fun s is =>
    let ts := if sp.once then [is.lowest] else is.ex
    let ranges := ts.filterMap (fun t =>
      let a := s.srcOf is t (.reg f.a f.pa 2 .w)
      let b := s.srcOf is t (.reg f.b 0 1 .w)
      if a.pois || b.pois then none else some (t, sp.addr a.val, b.val))
    match discardCheck is.key ranges s with
    | (some (t, c, a), s) => .trap s { Trap.atInstr c is with addr := a, rthr := some t }
    | (none, s) => sp.body f.h.pcl s is) s

end Sys2Proof.Machine
end

