-- ==== Sys2Proof/Machine/Control.lean ====
section
/-!
DEFINITION. The control-flow instructions (04): transfers, the pocket stack, hardware loops, EXIT, TRAP, BKPT, WAITEV, NOP, YIELD.
-/
namespace Sys2Proof.Machine
open Sys2Proof

/-! ## Transfers (04 R139 to R142) -/

/-- CHECK_TARGET of 04 R139: the trap code and the address of its record, if the target fails.  A target in an active loop's span is
the word that its buffer holds (04 R150). -/
def checkTarget (s : State) (gk t : Nat) : Option (Nat × Nat) × State :=
  if 2 ^ 57 ≤ t || t % 8 ≠ 0 then (some (0x03, 0), s)
  else
    match fetchWord (s.group gk).bufWord (s.coreOf gk) (s.tenantOf gk) t t s with
    | (.error e, s) => (some (e.code, t), s)
    | (.ok (w, _), s) => (if isDescriptor w.toNat then none else some (0x03, 0), s)

/-- Where a transfer leads: relative to the instruction, from an operand, or from the pocket stack. -/
inductive Target where
  | rel (imm : BitVec 24)
  | reg (a : Opnd) (pa : Perm)
  | stack
deriving DecidableEq, Repr

/-- The target of a thread (04 R140, R142) with its poison. -/
def Target.of (g : Target) (is : Issue) (t : Nat) (s0 s : State) : Src :=
  match g with
  | .rel imm => ⟨Word.ofSigned 64 (is.w + 8 * imm.toInt), false, false⟩
  | .reg a pa => s0.source is t a pa 2 .w
  | .stack =>
    let th := (s.group is.key).thread t
    ⟨Word.ofBytes (fileRead th.pocket th.psp.toNat 8), filePoisAny th.pocket th.psp.toNat 8, false⟩

/-- Push the return address (04 R140). -/
def Thread.push (th : Thread) (a : Nat) : Thread :=
  { th with pocket := fileWrite th.pocket (th.psp.toNat - 8) (Word.toBytes 8 a) false, psp := th.psp - 8 }

def Target.isReg : Target → Option (Opnd × Perm) | .reg a p => some (a, p) | _ => none

/-- One thread's transfer, in its turn.  An upset of the plain class strikes the target that it computes. -/
def transferTurn (call : Bool) (g : Target) (pcl : Cls) (is : Issue) (s0 : State) (t : Nat) (s : State) : TOut :=
  let gk := is.key
  let vregs := (s.roleOf gk).vregs
  if (match g with | .reg a _ => idxOut vregs ((s.group gk).thread t) a 2 | _ => false) then .trap s 0x09 0
  else if g == .stack && (s.roleOf gk).pocket < ((s.group gk).thread t).psp.toNat + 8 then .trap s 0x21 ((s.group gk).thread t).psp.toNat
  else
    match s0.clockRecord s is t t (match g with | .reg a _ => opIsClk a | _ => false) with
    | none => .diverge s
    | some (s0, s) =>
      let v := g.of is t s0 s
      if v.pois then .die s recPOISON
      else
        let go (s : State) (x : Nat) : TOut :=
          match checkTarget s gk x with
          | (some (c, a), s) => .trap s c a
          | (none, s) =>
            if call && ((s.group gk).thread t).psp.toNat < 8 then .trap s 0x21 ((s.group gk).thread t).psp.toNat
            else
              .ok ((s.modThread gk t (fun th =>
                let th := if call then th.push (is.w + 8) else if g == .stack then { th with psp := th.psp + 8 } else th
                th.enter x)).deadRead gk v.dead)
        match s.verdict (s0.effClass is pcl .control) t with
        | .same => go s v.val
        | .flipped b => go s (v.val ^^^ b)
        | .corrected => go (s.noteCorrected gk t) v.val
        | .split => .split s

def runTransfer (h : Hdr) (call : Bool) (g : Target) (s : State) : Out :=
  runInstr h 8
    (fun s is =>
      let r := s.roleOf is.key
      match g with
      | .reg a pa => (operandCheck r.vregs r.sregs (.reg .z 1) [.reg a pa 2 .w] false).map (·, 0)
      | _ => none)
    (fun s is => runThreads is (transferTurn call g h.pcl is s) is.ex s.env.cut s) s

def execBra (f : FI) (s : State) : Out := runTransfer f.h false (.rel f.imm) s
def execCall (f : FI) (s : State) : Out := runTransfer f.h true (.rel f.imm) s
def execBrx (f : F2) (s : State) : Out := runTransfer f.h false (.reg f.a f.pa) s
def execCallx (f : F2) (s : State) : Out := runTransfer f.h true (.reg f.a f.pa) s
def execRet (f : F2) (s : State) : Out := runTransfer f.h false .stack s

/-! ## Hardware loops (04 R143 to R150) -/

/-- The index in a span of the descriptor of the block that holds its last word, and that block's fields; `at_` counts the words
walked. -/
def lastBlock : List DWord → Nat → Nat × Entered → Nat × Entered
  | [], _, b => b
  | w :: ws, at_, b =>
    if at_ = b.1 + 1 + b.2.len then lastBlock ws (at_ + 1) (at_, entOf w.toNat) else lastBlock ws (at_ + 1) b

/-- Send a thread to the word after the end of a span (04 R145); its block is checked again when it issues from it. -/
def Thread.skipSpan (th : Thread) (body : Nat) (ws : List DWord) : Thread :=
  let first := entOf ((ws.headD 0).toNat)
  let (i, e) := lastBlock (ws.drop 1) 1 (0, first)
  let inBlk := { th with pc := BitVec.ofNat 57 (body + 8 * (ws.length - 1)), blk := BitVec.ofNat 57 (body + 8 * i), ent := some e, vw := [] }
  { inBlk.advance 8 with ent := none }

/-- LOOP and LOOPW (04 R145) with the count, if there is one.  A BODY whose page is unmapped or not executable traps as its fetch
does, at the instruction (log 33). -/
def loopBody (n : Nat) (imm : BitVec 24) (max : Nat) (isW : Bool) (count : Nat) (is : Issue) (s : State) : Ran :=
  let gk := is.key
  let g := s.group gk
  let core := s.coreOf gk
  let tenant := s.tenantOf gk
  let body := is.w + 16
  let len := imm.toNat - 1
  if (List.range 4).any (fun m => n ≤ m && (g.loops.getD m LoopReg.idle).active) then trapNow s is 0x12
  else if imm.toInt < 3 || 1025 < imm.toInt then trapNow s is 0x12
  else if !isW && max < count then trapNow s is 0x11
  else
    match checkTarget s gk body with
    | (some (c, a), s) => trapAt s is c a
    | (none, s) =>
      match loadSpan core tenant len body len s with
      | (.error e, s) => .trap s { Trap.atInstr e.code is with addr := e.addr, desc := e.desc, pois := e.pois }
      | (.ok ws, s) =>
        if !startsAt ws 0 (len - 1) || !endlFits n isW (ws.getD (len - 1) 0).toNat then trapNow s is 0x12
        else if !isW && count = 0 then .done (is.ex.foldl (fun s t => s.modThread gk t (fun th => th.skipSpan body ws)) s)
        else
          let l : LoopReg := { active := true, rem := if isW then max else count, max := max, body := BitVec.ofNat 57 body, len := len, buf := ws }
          let s := s.modGroup gk (fun g => { g with loops := g.loops.set n l })
          .done (is.ex.foldl (fun s t => s.modThread gk t (fun th => th.enter body)) s)

def execLoop (f : FI) (fx : DWord) (s : State) : Out :=
  runOnceOf f.h 16 noDst [(f.a, 1)] (fun is vs s => loopBody (opNum f.d) f.imm (Word.bits fx.toNat 31 0) false (argN vs 0) is s) s

def execLoopw (f : FI) (fx : DWord) (s : State) : Out :=
  runOnceOf f.h 16 noDst [] (fun is _ s => loopBody (opNum f.d) f.imm (Word.bits fx.toNat 31 0) true 0 is s) s

/-- The end address of a loop (04 R143). -/
def LoopReg.endAt (l : LoopReg) : Nat := l.body.toNat + 8 * (l.len - 1)

/-- The decisions of ENDL for the threads of EXEC (04 R147): the threads sent back, or the thread that traps LOOP_MAX. -/
def endlGo (gk : Nat) (size : Nat) (l : LoopReg) (exitOf : Thread → Bool) (isW : Bool) : List Nat → Bool → State → (Bool ⊕ Nat) × State
  | [], back, s => (.inl back, s)
  | t :: ts, back, s =>
    let th := (s.group gk).thread t
    if exitOf th || (l.rem = 1 && !isW) then endlGo gk size l exitOf isW ts back (s.modThread gk t (fun th => th.advance size))
    else if l.rem = 1 then (.inr t, s)
    else endlGo gk size l exitOf isW ts true (s.modThread gk t (fun th => th.enter l.body.toNat))

def endlBody (f : F2) (is : Issue) (s : State) : Ran :=
  let gk := is.key
  let n := opNum f.d
  let l := (s.group gk).loops.getD n LoopReg.idle
  if !l.active || is.w ≠ l.endAt then .done (s.passAll is)
  else
    let exitOf (th : Thread) : Bool := f.a ≠ .z && (th.pred (opNum f.a) ^^ f.sub.val.testBit 0)
    match endlGo gk is.size l exitOf (f.sub.val.testBit 1) is.ex false s with
    | (.inr t, s) => .trap s { Trap.of 0x10 .thread is t 0 with desc := l.body.toNat, rwidx := some n }
    | (.inl back, s) =>
      let l' := if back then { l with rem := l.rem - 1 } else { l with active := false }
      .done (s.modGroup gk (fun g => { g with loops := g.loops.set n l' }))

/-- ENDL (04 R147).  If no two computations agree, every thread of EXEC dies and none is sent back (R137, R157). -/
def execEndl (f : F2) (s : State) : Out :=
  runInstr f.h 8 (fun _ _ => none) (fun s is =>
    match s.verdict (s.effClass is f.h.pcl .control) 32 with
    | .split =>
      let s := s.killSplit is.key is.ex
      let n := opNum f.d
      let l := (s.group is.key).loops.getD n LoopReg.idle
      .done (if l.active && is.w = l.endAt then s.modGroup is.key (fun g => { g with loops := g.loops.set n { l with active := false } }) else s)
    | .corrected => endlBody f is (s.noteCorrected is.key 32)
    | _ => endlBody f is s) s

/-! ## Ending threads (04 R152) -/

/-- One thread ends: its PC never changes again (01 R41). -/
def exitTurn (pcl : Cls) (is : Issue) (s0 : State) (t : Nat) (s : State) : TOut :=
  let gk := is.key
  let go (s : State) : TOut :=
    .ok ((((s.modThread gk t (fun th => { th with st := .exited })).modTeam (s.group gk).team
      (fun tm => { tm with exits := tm.exits + 1 })).threadLeft gk t))
  match s.verdict (s0.effClass is pcl .control) t with
  | .split => .split s
  | .corrected => go (s.noteCorrected gk t)
  | _ => go s

def execExit (f : F2) (s : State) : Out :=
  runInstr f.h 8 (fun _ _ => none) (fun s is => runThreads is (exitTurn f.h.pcl is s) is.ex s.env.cut s) s

/-! ## Traps, breakpoints, hints, events (04 R153 to R156) -/

/-- The signature event of SIGACC and TRAP (15 Table 15.3). -/
def sigEventOf (ty gid t : Nat) (x : Nat) : SigEvent :=
  { kind := 0x0B, mask := 0, aux := ty * 2 ^ 16 + gid * 2 ^ 8 + t, addr := 0, d0 := BitVec.ofNat 64 x, d1 := 0 }

/-- TRAP n: it is complete before its trap is delivered; a later run goes on where the handler would have been entered (04 R153),
and ends where the system path ended its original (16 R436).  TRAP has no TYPE field: the TYPE of its event is that of b32 (log 43). -/
def execTrap (f : FI) (s : State) : Out :=
  runOnce f.h 8 (fun _ _ => none) (fun is s =>
    let code := 0x70 + f.imm.toNat % 16
    let g := s.group is.key
    let s := (s.passAll is).fold g.team (sigEventOf 15 g.gid 32 code)
    let tr := { Trap.atInstr code is with done := true }
    let (isD, s) := if s.isRerun is.key then isDescriptorAt s (s.coreOf is.key) (s.tenantOf is.key) g.tvec.toNat else (false, s)
    if isD && s.goesToHandler is.key tr then .done s else .trap (s.complete f.h is) tr) s

/-- BKPT tag (04 R154): in the original run of a launch with the debug attribute the group halts. -/
def execBkpt (f : FI) (s : State) : Out :=
  runOnce f.h 8 (fun _ _ => none) (fun is s =>
    let tag := f.imm.toNat % 65536
    let s := s.passAll is
    if (s.launchOf is.key).r.debug && !s.isRerun is.key then
      .done ((s.raiseThread is.key is.lowest recDEBUG (fun r => { r with extra := tag })).modGroup is.key (fun g => { g with run := .halted tag }))
    else .done s) s

/-- WAITEV pD, cycles (04 R156); a later run takes the logged outcome and does not wait. -/
def execWaitev (f : FI) (s : State) : Out :=
  runOnce f.h 8 (fun _ _ => none) (fun is s =>
    let gk := is.key
    let pd := opNum f.d
    if s.isRerun gk then withRecord s is [0x05] (fun r s => predDone is pd (r.value % 2 = 1) s)
    else if (s.group gk).wake then
      predDone is pd true ((s.modGroup gk (fun g => { g with wake := false })).logOutcome gk true)
    else if f.imm = 0 then predDone is pd false (s.logOutcome gk false)
    else .held (s.parkIn f.h gk is.ex (.event pd is.ex (s.cycle + f.imm.toNat))) is.lowest) s

def execNop (f : F2) (s : State) : Out := runOnce f.h 8 (fun _ _ => none) (fun is s => .done (s.passAll is)) s

/-- YIELD (04 R155): for at most 64 cycles, ready groups of the tenant on the lane that have not issued since go first. -/
def execYield (f : F2) (s : State) : Out :=
  runOnce f.h 8 (fun _ _ => none) (fun is s =>
    .done ((s.passAll is).modGroup is.key (fun g => { g with yieldUntil := s.cycle + 64 }))) s

end Sys2Proof.Machine
end

