-- ==== Sys2Proof/Machine/CrossThread.lean ====
section
/-!
DEFINITION. Cross-thread instructions (07): one pass reads the participants in ascending order, a function of what they
contribute gives the results, and a write pass delivers them.  No pre-emption falls inside (R215).
-/
namespace Sys2Proof.Machine
open Sys2Proof

/-! ## The passes -/

/-- What the read pass leaves: the state, and each surviving participant with its value. -/
structure Gathered where
  s     : State
  parts : List (Nat × Nat)
deriving DecidableEq, Repr

/-- The read pass (07 R206, R208, R216): a participant whose own source is poisoned, or whose step has no agreement, dies and
contributes nothing.  None is a divergence of a later run from its log. -/
def gather (c : Cls) (is : Issue) (s0 : State) (reads : Bool) (rd : State → State → Nat → Src) :
    List Nat → State → Option Gathered
  | [], s => some ⟨s, []⟩
  | t :: ts, s =>
    match s0.clockRecord s is t t reads with
    | none => none
    | some (s0', s) =>
      let v := rd s0' s t
      if v.pois then gather c is s0 reads rd ts (s.killThread is.key t recPOISON)
      else
        let keep (s : State) (x : Nat) : Option Gathered :=
          (gather c is s0 reads rd ts (s.deadRead is.key v.dead)).map (fun r => { r with parts := (t, x) :: r.parts })
        match s.verdict c t with
        | .same => keep s v.val
        | .flipped b => keep s (v.val ^^^ b)
        | .corrected => keep (s.noteCorrected is.key t) v.val
        | .split => gather c is s0 reads rd ts (s.killSplit is.key [t])

/-- What a participant of a cross-thread instruction receives: its thread, its result and the flags that its own step raised. -/
structure CrossOut where
  t  : Nat
  x  : Nat
  fl : FFlags
deriving DecidableEq, Repr

/-- Give the participants their results.  In a form with a write pass (07 Table 7.3) each is compared before it is written (R208), a
vote's thread number 64 + t naming thread t's comparison here; in another form its step was compared before the running value moved
on, and nothing more is.  A thread that dies here raises no flag (01 R54). -/
def deliver (c : Cls) (is : Issue) (d : DstSpec) (pass : Bool) : List CrossOut → State → State
  | [], s => s
  | o :: os, s =>
    let put (s : State) (x : Nat) : State := ((s.putResult is.key o.t d x).raiseFlags is.key o.fl).pass is o.t
    deliver c is d pass os
      (if !pass then put s o.x
       else
         match s.verdict c (64 + o.t) with
         | .same => put s o.x
         | .flipped b => put s (o.x ^^^ b)
         | .corrected => put (s.noteCorrected is.key o.t) o.x
         | .split => s.killSplit is.key [o.t])

/-- Pass the participants that are still live over the instruction. -/
def State.passLive (s : State) (is : Issue) : State :=
  is.ex.foldl (fun s t => if ((s.group is.key).thread t).st = .live then s.pass is t else s) s

/-- A uniform result is compared once and written once, with the flags of all steps (07 R211); without agreement every participant
dies and no flag is raised (R208). -/
def deliverOnce (c : Cls) (is : Issue) (d : DstSpec) (x : Nat) (fl : FFlags) (ts : List Nat) (s : State) : State :=
  let put (s : State) (x : Nat) : State := ((s.putResult is.key 0 d x).raiseFlags is.key fl).passLive is
  match s.verdict c 32 with
  | .same => put s x
  | .flipped b => put s (x ^^^ b)
  | .corrected => put (s.noteCorrected is.key 32) x
  | .split => s.killSplit is.key ts

/-- A cross-thread instruction: its destination, its source register operands, whether a uniform destination traps, whether a vector
form has a write pass (07 Table 7.3), the read of a participant, and the results and flags from the participants' values. -/
structure CrossSpec where
  dst       : DstSpec
  srcs      : List SrcSpec
  noUniform : Bool
  twoPass   : Bool
  reads     : Bool
  rd        : Issue → State → State → Nat → Src
  f         : List (Nat × Nat) → List CrossOut

/-- UNIFORM_SRC for a form without a uniform destination, and REG_BOUND (07 R204). -/
def CrossSpec.check (sp : CrossSpec) (s : State) (is : Issue) : Option (Nat × Nat) :=
  let r := s.roleOf is.key
  let out (x : SrcSpec) : Bool := match x with | .reg o _ n _ => regOut r.vregs r.sregs o n | _ => false
  if sp.dst.isUniform && sp.noUniform then some (0x06, 0)
  else if (match sp.dst with | .reg o n => regOut r.vregs r.sregs o n | _ => false) || sp.srcs.any out then some (0x08, 0)
  else none

def CrossSpec.body (sp : CrossSpec) (pcl : Cls) (s : State) (is : Issue) : Ran :=
  let c := s.effClass is pcl .lane
  match gather c is s sp.reads (sp.rd is) is.ex s with
  | none => .diverge s
  | some g =>
    let os := sp.f g.parts
    if sp.dst.isUniform then
      match os with
      | [] => .done g.s
      | o :: _ => .done (deliverOnce c is sp.dst o.x (os.foldl (fun fl o => fl ||| o.fl) 0) (os.map (·.t)) g.s)
    else .done (deliver c is sp.dst sp.twoPass os g.s)

def runCross (h : Hdr) (sp : CrossSpec) (s : State) : Out := runInstr h 8 sp.check (sp.body h.pcl) s

/-- The plain read of a participant: its own source. -/
def ownRead (x : SrcSpec) (is : Issue) (s0 _s : State) (t : Nat) : Src := s0.srcOf is t x

/-- A result without flags. -/
def CrossOut.plain (p : Nat × Nat) : CrossOut := ⟨p.1, p.2, 0⟩

/-- The same result for every participant. -/
def toAll (g : List Nat → Nat) (ps : List (Nat × Nat)) : List CrossOut := ps.map (fun p => ⟨p.1, g (ps.map (·.2)), 0⟩)

/-! ## Votes, ballots and matches (07 R209, R210) -/

/-- VOTE's four modes on the participants' predicate values. -/
def voteFn (m : Nat) (ps : List Nat) : Nat :=
  let every := ps.all (· = 1)
  let some := ps.any (· = 1)
  if (match m % 4 with | 0 => every | 1 => some | 2 => every || !some | _ => !some) then 1 else 0

def execVote (f : F2) (s : State) : Out :=
  runCross f.h
    { dst := if f.sub.val.testBit 2 then .pred (opNum f.d) else .reg f.d 1, srcs := [], noUniform := false,
      twoPass := !f.sub.val.testBit 2, reads := false, rd := ownRead (.pred (opNum f.a)), f := toAll (voteFn f.sub.val) } s

def ballotFn (ps : List (Nat × Nat)) : Nat := maskOf ((ps.filter (fun p => p.2 = 1)).map (·.1))

def execBallot (f : F2) (s : State) : Out :=
  runCross f.h
    { dst := .reg f.d 1, srcs := [], noUniform := false, twoPass := true, reads := false, rd := ownRead (.pred (opNum f.a)),
      f := fun ps => toAll (fun _ => ballotFn ps) ps } s

def matchFn (w : Nat) (ps : List (Nat × Nat)) : List (Nat × Nat) :=
  ps.map (fun p => (p.1, maskOf ((ps.filter (fun q => q.2 % 2 ^ w = p.2 % 2 ^ w)).map (·.1))))

def execMatch (f : F2) (s : State) : Out :=
  let src := SrcSpec.reg f.a 0 (tyWords f.ty) (tyC f.ty)
  runCross f.h
    { dst := .reg f.d 1, srcs := [src], noUniform := true, twoPass := true, reads := opIsClk f.a, rd := ownRead src,
      f := fun ps => (matchFn (tyWidth f.ty) ps).map CrossOut.plain } s

/-! ## Reductions and scans (07 R211, R212) -/

/-- COMBINE of 07 Table 7.2, on register values. -/
def combine (op : Fin 8) (t : Ty) (m : Rnd) (a b : Nat) : Nat × FFlags :=
  let w := tyWords t
  match op with
  | 0 => if t = .f32 then (let r := fused .f32 m [Term.of (FVal.decode .f32 a), Term.of (FVal.decode .f32 b)]; (r.bits, r.flags))
         else (tyBits t (tyVal t a + tyVal t b), 0)
  | 1 => if t = .f32 then (let r := fMinMax .f32 false a b; (r.bits, r.flags))
         else (tyBits t (if tyVal t a ≤ tyVal t b then tyVal t a else tyVal t b), 0)
  | 2 => if t = .f32 then (let r := fMinMax .f32 true a b; (r.bits, r.flags))
         else (tyBits t (if tyVal t a ≤ tyVal t b then tyVal t b else tyVal t a), 0)
  | 3 => ((a &&& b) % 2 ^ (32 * w), 0)
  | 4 => ((a ||| b) % 2 ^ (32 * w), 0)
  | _ => ((a ^^^ b) % 2 ^ (32 * w), 0)

/-- IDENT of 07 Table 7.2. -/
def identOf (op : Fin 8) (t : Ty) : Nat :=
  match op with
  | 1 => if t = .f32 then 0x7F800000 else tyBits t (tyMax t)
  | 2 => if t = .f32 then 0xFF800000 else tyBits t (tyMin t)
  | 3 => 2 ^ (32 * tyWords t) - 1
  | _ => 0

/-- VAL of the first participant as the register that a result of the type writes (02 R62). -/
def entering (t : Ty) (x : Nat) : Nat := if tyIsInt t then tyBits t (tyVal t x) else x

/-- A participant's step of a fold: the running value before and after it, and the flags that it raises. -/
structure FoldStep where
  t      : Nat
  before : Nat
  after  : Nat
  fl     : FFlags
deriving DecidableEq, Repr

/-- The fold of 07 R211, step by step. -/
def foldParts (op : Fin 8) (t : Ty) (m : Rnd) : Option Nat → List (Nat × Nat) → List FoldStep
  | _, [] => []
  | none, (i, a) :: ps => ⟨i, identOf op t, entering t a, 0⟩ :: foldParts op t m (some (entering t a)) ps
  | some acc, (i, a) :: ps =>
    let x := combine op t m acc a
    ⟨i, acc, x.1, x.2⟩ :: foldParts op t m (some x.1) ps

def specFold (f : F2) (noUniform twoPass : Bool) (g : List FoldStep → FoldStep → Nat) : CrossSpec :=
  let src := SrcSpec.reg f.a 0 (tyWords f.ty) (tyC f.ty)
  { dst := .reg f.d (tyWords f.ty), srcs := [src], noUniform := noUniform, twoPass := twoPass, reads := opIsClk f.a, rd := ownRead src,
    f := fun ps =>
      let rs := foldParts f.sub f.ty f.rnd none ps
      rs.map (fun r => ⟨r.t, g rs r, r.fl⟩) }

/-- The value that a fold ends with. -/
def foldEnd (rs : List FoldStep) : Nat := (rs.getLast?.map (·.after)).getD 0

def execScani (f : F2) (s : State) : Out := runCross f.h (specFold f true false (fun _ r => r.after)) s
def execScanx (f : F2) (s : State) : Out := runCross f.h (specFold f true false (fun _ r => r.before)) s
def execRedg (f : F2) (s : State) : Out := runCross f.h (specFold f false true (fun rs _ => foldEnd rs)) s

def rankFn : Nat → List (Nat × Nat) → List (Nat × Nat)
  | _, [] => []
  | n, (t, p) :: ps => (t, n) :: rankFn (n + p) ps

def execRank (f : F2) (s : State) : Out :=
  runCross f.h
    { dst := .reg f.d 1, srcs := [], noUniform := true, twoPass := false, reads := false, rd := ownRead (.pred (opNum f.a)),
      f := fun ps => (rankFn 0 ps).map CrossOut.plain } s

/-! ## Routing (07 R213, R214) -/

/-- SHFL's source thread (07 Table 7.4). -/
def shflSrc (m t b : Nat) : Nat :=
  match m with
  | 0 => b % 32
  | 1 => if b ≤ t then t - b else t
  | 2 => if t + b ≤ 31 then t + b else t
  | _ => t ^^^ (b % 32)

/-- A routed read of thread j's operand, whatever kind the operand is (07 R213), under 01 Table 1.9, with the states of the threads as
they stand now (R216). -/
def routedRead (is : Issue) (s0 s : State) (t j : Nat) (o : Opnd) (n : Nat) (cf : CFmt) : Src :=
  if j ≠ t && ((s.group is.key).thread j).st == .dead then ⟨0, false, true⟩
  else s0.source is j o 0 n cf

/-- PERM_OVERLAP of 07 R206. -/
def shflOverlap (f : F2) : Bool := overlaps f.d (tyWords f.ty) f.a (tyWords f.ty)

def execShfl (f : F2) (s : State) : Out :=
  let n := tyWords f.ty
  let sp : CrossSpec :=
    { dst := .reg f.d n, srcs := [.reg f.a 0 n (tyC f.ty), .reg f.b 0 1 .w], noUniform := true, twoPass := false,
      reads := opIsClk f.a || opIsClk f.b,
      rd := fun is s0 s t =>
        let b := s0.source is t f.b 0 1 .w
        if b.pois then b else routedRead is s0 s t (shflSrc f.sub.val t b.val) f.a n (tyC f.ty),
      f := fun ps => ps.map CrossOut.plain }
  runInstr f.h 8
    (fun s is => if sp.dst.isUniform then some (0x06, 0) else if shflOverlap f then some (0x07, 0) else sp.check s is)
    (sp.body f.h.pcl) s

/-- PICK (07 R214, R216): one routed read for all participants, compared once (R208; a vote's thread number 128 names that comparison);
poisoned or without agreement, it kills them all.  Its reading of %clk is one of the whole group, with thread number 32 in its record
(log 35). -/
def pickBody (f : F2) (first : Bool) (s : State) (is : Issue) : Ran :=
  let n := tyWords f.ty
  let c := s.effClass is f.h.pcl .lane
  match s.clockRecord s is is.lowest 32 (opIsClk f.a) with
  | none => .diverge s
  | some (s0, s) =>
    let b := s0.source is is.lowest f.b 0 1 .w
    let j := if first then is.lowest else b.val % 32
    let v := if b.pois then b else routedRead is s0 s is.lowest j f.a n (tyC f.ty)
    if v.pois then .done (s.killThreads is.key recPOISON is.ex)
    else
      let give (s : State) (x : Nat) : Ran :=
        let s := s.deadRead is.key v.dead
        if opIsUniform f.d then .done (deliverOnce c is (.reg f.d n) x 0 is.ex s)
        else .done (deliver c is (.reg f.d n) true (is.ex.map (fun t => ⟨t, x, 0⟩)) s)
      match s.verdict c 128 with
      | .same => give s v.val
      | .flipped b => give s (v.val ^^^ b)
      | .corrected => give (s.noteCorrected is.key 32) v.val
      | .split => .done (s.killSplit is.key is.ex)

/-- B of PICK does not vary; then the register bounds (07 R214). -/
def pickCheck (f : F2) (s : State) (is : Issue) : Option (Nat × Nat) :=
  let n := tyWords f.ty
  let r := s.roleOf is.key
  if opVaries f.b then some (0x06, 0)
  else if regOut r.vregs r.sregs f.d n || regOut r.vregs r.sregs f.a n || regOut r.vregs r.sregs f.b 1 then some (0x08, 0)
  else none

def execPick (f : F2) (s : State) : Out := runInstr f.h 8 (pickCheck f) (pickBody f false) s
def execPickFirst (f : F2) (s : State) : Out := runInstr f.h 8 (pickCheck f) (pickBody f true) s

end Sys2Proof.Machine
end

