-- ==== Sys2Proof/Machine/Approx.lean ====
section
/-!
DEFINITION. The six approximating functions (06 R191 to R196) to the bit, with the table contents and coefficients that 06
fixes.  T, L, S and C are tables of rounded values of 2^x, log2, sine and cosine; G, K and N are computed from their formulas.
-/
namespace Sys2Proof.Machine
open Sys2Proof

/-- Entries 0 to 15 of `fex2T`. -/
def fex2TPart0 : List Nat :=
  [1099511627776, 1111484524408, 1123587797336, 1135822866266,
   1148191166361, 1160694148413, 1173333279014, 1186110040723,
   1199025932245, 1212082468605, 1225281181324, 1238623618601,
   1252111345494, 1265745944104, 1279529013758, 1293462171200]

/-- Entries 16 to 31 of `fex2T`. -/
def fex2TPart1 : List Nat :=
  [1307547050779, 1321785304641, 1336178602923, 1350728633946,
   1365437104419, 1380305739635, 1395336283673, 1410530499604,
   1425890169699, 1441417095635, 1457113098709, 1472980020050,
   1489019720837, 1505234082514, 1521625007013, 1538194416978]

/-- Entries 32 to 47 of `fex2T`. -/
def fex2TPart2 : List Nat :=
  [1554944255988, 1571876488786, 1588993101510, 1606296101926,
   1623787519664, 1641469406453, 1659343836365, 1677412906057,
   1695678735018, 1714143465815, 1732809264348, 1751678320101,
   1770752846399, 1790035080670, 1809527284706, 1829231744928]

/-- Entries 48 to 63 of `fex2T`. -/
def fex2TPart3 : List Nat :=
  [1849150772653, 1869286704369, 1889641902006, 1910218753212,
   1931019671637, 1952047097213, 1973303496441, 1994791362681,
   2016513216442, 2038471605683, 2060669106106, 2083108321460,
   2105791883849, 2128722454038, 2151902721764, 2175335406057]

/-- `T[j]` of 06 R192: the nearest integer to `2^(j/64) * 2^40`. -/
def fex2T : List Nat := fex2TPart0 ++ fex2TPart1 ++ fex2TPart2 ++ fex2TPart3

/-- Entries 0 to 15 of `flg2L`. -/
def flg2LPart0 : List Nat :=
  [0, 24593765061, 48813363216, 72667157058,
   96164898178, 119324280320, 142144965760, 164647469992,
   186833758548, 208713458790, 230297356471, 251590323629,
   272598049296, 293334336338, 313799465395, 334009141237]

/-- Entries 16 to 31 of `flg2L`. -/
def flg2LPart1 : List Nat :=
  [353965196413, 373669975356, 393134099388, 412361255674,
   431355677156, 450130189138, 468682297919, 487017931296,
   505151919636, 523074817263, 540794038445, 558326205969,
   575662836740, 592812894807, 609777080151, 626565325775]

/-- Entries 32 to 47 of `flg2L`. -/
def flg2LPart2 : List Nat :=
  [643170045808, 659611051088, 675881377701, 691983314472,
   707928880049, 723711651564, 739334754893, 754811341082,
   770145396595, 785321346309, 800353221954, 815255733298,
   830003426165, 844631852054, 859115603272, 873470427827]

/-- Entries 48 to 63 of `flg2L`. -/
def flg2LPart3 : List Nat :=
  [887691586225, 901795644194, 915767527817, 929624345762,
   943361971524, 956976224136, 970474026788, 983862630046,
   997138267768, 1010297126334, 1023358416026, 1036307170744,
   1049151451227, 1061887836265, 1074524777486, 1087071065698]

/-- `L[j]` of 06 R193: the nearest integer to `-log2(G[j] * 2^-18) * 2^40`. -/
def flg2L : List Nat := flg2LPart0 ++ flg2LPart1 ++ flg2LPart2 ++ flg2LPart3

/-- Entries 0 to 15 of `fsinS`. -/
def fsinSPart0 : List Nat :=
  [0, 26983366121, 53950478471, 80885093070,
   107770985514, 134591960745, 161331862813, 187974584598,
   214504077523, 240904361213, 267159533123, 293253778120,
   319171378006, 344896720990, 370414311084, 395708777449]

/-- Entries 16 to 31 of `fsinS`. -/
def fsinSPart1 : List Nat :=
  [420764883643, 445567536804, 470101796741, 494352884935,
   518306193436, 541947293666, 565261945112, 588236103898,
   610855931251, 633107801833, 654978311948, 676454287619,
   697522792521, 718171135775, 738386879591, 758157846761]

/-- Entries 32 to 47 of `fsinS`. -/
def fsinSPart2 : List Nat :=
  [777472127994, 796318089088, 814684377941, 832559931389,
   849933981865, 866796063891, 883136020380, 898944008753,
   914210506869, 928926318760, 943082580171, 956670763901,
   969682684934, 982110505377, 993946739174, 1005184256622]

/-- Entries 48 to 63 of `fsinS`. -/
def fsinSPart3 : List Nat :=
  [1015816288660, 1025836430950, 1035238647732, 1044017275463,
   1052167026225, 1059682990914, 1066560642194, 1072795837223,
   1078384820155, 1083324224394, 1087611074629, 1091242788621,
   1094217178761, 1096532453388, 1098187217867, 1099180475430]

/-- `S[j]` of 06 R194: the nearest integer to `sin(2 pi j / 256) * 2^40`. -/
def fsinS : List Nat := fsinSPart0 ++ fsinSPart1 ++ fsinSPart2 ++ fsinSPart3

/-- Entries 0 to 15 of `fcosC`. -/
def fcosCPart0 : List Nat :=
  [1099511627776, 1099180475430, 1098187217867, 1096532453388,
   1094217178761, 1091242788621, 1087611074629, 1083324224394,
   1078384820155, 1072795837223, 1066560642194, 1059682990914,
   1052167026225, 1044017275463, 1035238647732, 1025836430950]

/-- Entries 16 to 31 of `fcosC`. -/
def fcosCPart1 : List Nat :=
  [1015816288660, 1005184256622, 993946739174, 982110505377,
   969682684934, 956670763901, 943082580171, 928926318760,
   914210506869, 898944008753, 883136020380, 866796063891,
   849933981865, 832559931389, 814684377941, 796318089088]

/-- Entries 32 to 47 of `fcosC`. -/
def fcosCPart2 : List Nat :=
  [777472127994, 758157846761, 738386879591, 718171135775,
   697522792521, 676454287619, 654978311948, 633107801833,
   610855931251, 588236103898, 565261945112, 541947293666,
   518306193436, 494352884935, 470101796741, 445567536804]

/-- Entries 48 to 63 of `fcosC`. -/
def fcosCPart3 : List Nat :=
  [420764883643, 395708777449, 370414311084, 344896720990,
   319171378006, 293253778120, 267159533123, 240904361213,
   214504077523, 187974584598, 161331862813, 134591960745,
   107770985514, 80885093070, 53950478471, 26983366121]

/-- `C[j]` of 06 R194: the nearest integer to `cos(2 pi j / 256) * 2^40`. -/
def fcosC : List Nat := fcosCPart0 ++ fcosCPart1 ++ fcosCPart2 ++ fcosCPart3

/-- `C1`, `C2`, `C3` of 06 R192. -/
def fex2C1 : Int := 762123384786
def fex2C2 : Int := 264131837702
def fex2C3 : Int := 61027412866
/-- `B1` to `B4` of 06 R193. -/
def flg2B1 : Int := 1586259972792
def flg2B2 : Int := -793129986396
def flg2B3 : Int := 528753324264
def flg2B4 : Int := -396564993198
/-- `A1`, `A3` and `B2` of 06 R194. -/
def trigA1 : Int := 6908435304715
def trigA3 : Int := -45455682325373
def trigB2 : Int := -21703489601094

/-- NINT of a non-negative quotient (06 R191; no entry is a tie). -/
def nintDiv (n d : Nat) : Nat := (2 * n + d) / (2 * d)

/-- `G[j]` of 06 R193. -/
def flg2G (j : Nat) : Nat := nintDiv (2 ^ 24) (64 + j)
/-- `K[j]` of 06 R195. -/
def frcpK (j : Nat) : Nat := nintDiv (2 ^ 39) (128 + j)
/-- `N[p][j]` of 06 R196: the nearest integer to the square root of `2^70 / ((1 + p) * (64 + j))`. -/
def frsqN (p j : Nat) : Nat := (isqrt (4 * 2 ^ 70 / ((1 + p) * (64 + j))) + 1) / 2

/-- `FLOOR(x * 2^k)` of the value `±m·2^e`. -/
def floorScaled (neg : Bool) (m : Nat) (e : Int) (k : Int) : Int :=
  let x : Int := if neg then -(m : Int) else m
  let s := e + k
  if 0 ≤ s then x * (2 ^ s.toNat : Nat) else x.fdiv (2 ^ (-s).toNat : Nat)

/-- NORM of 06 R191: `M` in `[2^23, 2^24)` and `E` with `m·2^e = M·2^(E-23)`. -/
def norm24 (m : Nat) (e : Int) : Nat × Int :=
  let l := Nat.log2 m
  (if l ≤ 23 then m * 2 ^ (23 - l) else m / 2 ^ (l - 23), e + l)

/-- An evaluated result (06 R191): `x·2^e` rounded RNE to f32; NX always, UF below the smallest normal value, OF on overflow;
a zero takes the given sign. -/
def evalResult (x : Int) (e : Int) : FRes :=
  let r := roundFmt .f32 .rne (decide (x < 0)) x.natAbs e
  let mag := r.bits % 2 ^ 31
  ⟨if x = 0 then 0 else r.bits, flagNX ||| flagIf (decide (mag < 2 ^ 23)) flagUF ||| (r.flags &&& flagOF)⟩

def f32Inf (neg : Bool) : Nat := Fmt.f32.inf neg
def f32One (neg : Bool) : Nat := Fmt.f32.signed neg 0x3F800000

/-- FEX2 (06 R192, 02 Table 2.10). -/
def approxFex2 (v : FVal) : FRes :=
  match v with
  | .nan s => FRes.nan .f32 (flagIf s flagNV)
  | .inf true => ⟨0, 0⟩
  | .inf false => ⟨f32Inf false, 0⟩
  | .fin n m e =>
    if m = 0 then ⟨f32One false, 0⟩
    else if 128 ≤ floorScaled n m e 0 then ⟨f32Inf false, flagOF ||| flagNX⟩
    else if floorScaled (!n) m e 0 ≥ 150 then ⟨0, flagUF ||| flagNX⟩
    else
      let i := floorScaled n m e 6
      let j := (i % 64).toNat
      let ex := (i - j) / 64
      let V := floorScaled n m e 48 - i * (2 ^ 42 : Nat)
      let u := (fex2C3 * V).fdiv (2 ^ 48 : Nat)
      let u := ((fex2C2 + u) * V).fdiv (2 ^ 48 : Nat)
      let u := ((fex2C1 + u) * V).fdiv (2 ^ 48 : Nat)
      let Y := ((fex2T.getD j 0 : Int) * ((2 ^ 40 : Nat) + u)).fdiv (2 ^ 40 : Nat)
      evalResult Y (ex - 40)

/-- FLG2 (06 R193, 02 Table 2.10). -/
def approxFlg2 (v : FVal) : FRes :=
  match v with
  | .nan s => FRes.nan .f32 (flagIf s flagNV)
  | .inf true => FRes.nan .f32 flagNV
  | .inf false => ⟨f32Inf false, 0⟩
  | .fin n m e =>
    if m = 0 then ⟨f32Inf true, flagDZ⟩
    else if n then FRes.nan .f32 flagNV
    else
      let (M, E) := norm24 m e
      if M = 2 ^ 23 && E == 0 then ⟨0, 0⟩
      else
        let j := Word.bits M 22 17
        let Z : Int := (M * flg2G j : Nat) - (2 ^ 41 : Nat)
        let u := (flg2B4 * Z).fdiv (2 ^ 41 : Nat)
        let u := ((flg2B3 + u) * Z).fdiv (2 ^ 41 : Nat)
        let u := ((flg2B2 + u) * Z).fdiv (2 ^ 41 : Nat)
        let u := ((flg2B1 + u) * Z).fdiv (2 ^ 41 : Nat)
        evalResult (E * (2 ^ 40 : Nat) + (flg2L.getD j 0 : Nat) + u) (-40)

/-- The pair (s0, c0) and the quadrant q of 06 R194, and whether the fraction is a multiple of 1/4. -/
def trigParts (n : Bool) (m : Nat) (e : Int) : Nat × Int × Int :=
  let F := ((floorScaled n m e 62) % (2 ^ 62 : Nat)).toNat
  let q := Word.bits F 61 60
  let j := Word.bits F 59 54
  let W : Int := (F % 2 ^ 54 / 2 ^ 14 : Nat)
  let SH := (trigA1 * W).fdiv (2 ^ 48 : Nat) + (trigA3 * ((W ^ 3).fdiv (2 ^ 96 : Nat))).fdiv (2 ^ 48 : Nat)
  let CH := (2 ^ 40 : Nat) + (trigB2 * ((W ^ 2).fdiv (2 ^ 48 : Nat))).fdiv (2 ^ 48 : Nat)
  let S : Int := fsinS.getD j 0
  let C : Int := fcosC.getD j 0
  (q, (S * CH + C * SH).fdiv (2 ^ 40 : Nat), (C * CH - S * SH).fdiv (2 ^ 40 : Nat))

/-- Whether the value is an integer multiple of 1/4 (02 Table 2.10). -/
def isQuarter (m : Nat) (e : Int) : Bool :=
  decide (-2 ≤ e) || decide (m % 2 ^ (-2 - e).toNat = 0)

/-- FSIN (06 R194, 02 Table 2.10). -/
def approxFsin (v : FVal) : FRes :=
  match v with
  | .nan s => FRes.nan .f32 (flagIf s flagNV)
  | .inf _ => FRes.nan .f32 flagNV
  | .fin n m e =>
    if m = 0 then ⟨Fmt.f32.signed n 0, 0⟩
    else
      let (q, s0, c0) := trigParts n m e
      if isQuarter m e then
        (match q with
         | 1 => ⟨f32One false, 0⟩
         | 3 => ⟨f32One true, 0⟩
         | _ => ⟨0, 0⟩)
      else evalResult (match q with | 0 => s0 | 1 => c0 | 2 => -s0 | _ => -c0) (-40)

/-- FCOS (06 R194, 02 Table 2.10). -/
def approxFcos (v : FVal) : FRes :=
  match v with
  | .nan s => FRes.nan .f32 (flagIf s flagNV)
  | .inf _ => FRes.nan .f32 flagNV
  | .fin n m e =>
    if m = 0 then ⟨f32One false, 0⟩
    else
      let (q, s0, c0) := trigParts n m e
      if isQuarter m e then
        (match q with
         | 0 => ⟨f32One false, 0⟩
         | 2 => ⟨f32One true, 0⟩
         | _ => ⟨0, 0⟩)
      else evalResult (match q with | 0 => c0 | 1 => -s0 | 2 => -c0 | _ => s0) (-40)

/-- FRCP (06 R195, 02 Table 2.10).  A power of two gives its exact reciprocal, and NX all the same (R191). -/
def approxFrcp (v : FVal) : FRes :=
  match v with
  | .nan s => FRes.nan .f32 (flagIf s flagNV)
  | .inf n => ⟨Fmt.f32.signed n 0, 0⟩
  | .fin n m e =>
    if m = 0 then ⟨f32Inf n, flagDZ⟩
    else
      let (M, E) := norm24 m e
      if E < -128 then ⟨f32Inf n, flagOF ||| flagNX⟩
      else
        let j := Word.bits M 22 16
        let k : Int := frcpK j
        let Eu := ((2 ^ 55 : Nat) - (M : Int) * k).fdiv (2 ^ 15 : Nat)
        let g := (2 ^ 40 : Nat) + Eu
        let g := (2 ^ 40 : Nat) + (Eu * g).fdiv (2 ^ 40 : Nat)
        let g := (2 ^ 40 : Nat) + (Eu * g).fdiv (2 ^ 40 : Nat)
        let x := (k * g).fdiv (2 ^ 32 : Nat)
        evalResult (if n then -x else x) (-40 - E)

/-- FRSQ (06 R196, 02 Table 2.10). -/
def approxFrsq (v : FVal) : FRes :=
  match v with
  | .nan s => FRes.nan .f32 (flagIf s flagNV)
  | .inf true => FRes.nan .f32 flagNV
  | .inf false => ⟨0, 0⟩
  | .fin n m e =>
    if m = 0 then ⟨f32Inf n, flagDZ⟩
    else if n then FRes.nan .f32 flagNV
    else
      let (M, E) := norm24 m e
      let p := (E % 2).toNat
      let M2 := M * (1 + p)
      let E2 := E - p
      let j := Word.bits M 22 17
      let N := frsqN p j
      let Eu := ((2 ^ 87 : Nat) - ((M2 * N * N : Nat) : Int)).fdiv (2 ^ 47 : Nat)
      let g : Int := (5 * 2 ^ 36 : Nat)
      let g := (3 * 2 ^ 37 : Nat) + (Eu * g).fdiv (2 ^ 40 : Nat)
      let g := (2 ^ 39 : Nat) + (Eu * g).fdiv (2 ^ 40 : Nat)
      let g := (2 ^ 40 : Nat) + (Eu * g).fdiv (2 ^ 40 : Nat)
      evalResult (((N : Int) * g).fdiv (2 ^ 32 : Nat)) (-40 - E2 / 2)

/-- FSQRT (06 R197, 02 Table 2.10). -/
def exactFsqrt (mode : Rnd) (bits : Nat) : FRes :=
  match FVal.decode .f32 bits with
  | .nan s => FRes.nan .f32 (flagIf s flagNV)
  | .inf true => FRes.nan .f32 flagNV
  | .inf false => ⟨f32Inf false, 0⟩
  | .fin n m e =>
    if m = 0 then ⟨Fmt.f32.signed n 0, 0⟩
    else if n then FRes.nan .f32 flagNV
    else roundSqrt .f32 mode m e

/-- FDIVS (06 R198); the estimate decides only the cost. -/
def exactFdivs (mode : Rnd) (nb bb : Nat) : FRes :=
  let n := FVal.decode .f32 nb
  let b := FVal.decode .f32 bb
  let neg := n.signBit ^^ b.signBit
  if n.isNan || b.isNan then FRes.nan .f32 (flagIf (n.isSig || b.isSig) flagNV)
  else if (n.isZero && b.isZero) || (n.isInf && b.isInf) then FRes.nan .f32 0
  else if n.isInf || b.isZero then ⟨f32Inf neg, 0⟩
  else if n.isZero || b.isInf then ⟨Fmt.f32.signed neg 0, 0⟩
  else
    match n, b with
    | .fin _ m e, .fin _ m' e' => roundQuot .f32 mode neg m m' (e - e')
    | _, _ => ⟨0, 0⟩

end Sys2Proof.Machine
end

