-- ==== Sys2Proof/Machine/Floating.lean ====
section
/-!
DEFINITION. Floating-point, packed and complex instructions (06).
-/
namespace Sys2Proof.Machine
open Sys2Proof

/-! ## Shapes -/

/-- A result of a format as result bits and flags. -/
def FRes.out (r : FRes) : Nat × FFlags := (r.bits, r.flags)

/-- `op d, a, b` of n-word operands. -/
def fspec2 (f : F2) (n : Nat) (cf : CFmt) (g : Nat → Nat → Nat × FFlags) : LaneSpec :=
  { dst := .reg f.d n, srcs := [.reg f.a f.pa n cf, .reg f.b f.pb n cf], noUniform := false, kind := .lane,
    f := fun vs => g (argN vs 0) (argN vs 1) }

/-- `op d, a` with nd and na words. -/
def fspec1 (f : F2) (nd na : Nat) (cf : CFmt) (g : Nat → Nat × FFlags) : LaneSpec :=
  { dst := .reg f.d nd, srcs := [.reg f.a f.pa na cf], noUniform := false, kind := .lane, f := fun vs => g (argN vs 0) }

/-- `op d, a, b, c` with the words of each operand. -/
def fspec3 (f : F3) (nd na nb nc : Nat) (ca cc : CFmt) (g : Nat → Nat → Nat → Nat × FFlags) : LaneSpec :=
  { dst := .reg f.d nd, srcs := [.reg f.a f.pa na ca, .reg f.b f.pb nb ca, .reg f.c 0 nc cc], noUniform := false, kind := .lane,
    f := fun vs => g (argN vs 0) (argN vs 1) (argN vs 2) }

def dec (f : Fmt) (x : Nat) : FVal := FVal.decode f x

/-! ## Scalar arithmetic (06 R182 to R185) -/

def addFn (f : Fmt) (m : Rnd) (a b : Nat) : Nat × FFlags := (fused f m [Term.of (dec f a), Term.of (dec f b)]).out
def subFn (f : Fmt) (m : Rnd) (a b : Nat) : Nat × FFlags := (fused f m [Term.of (dec f a), Term.of (dec f b).neg]).out
def mulFn (f : Fmt) (m : Rnd) (a b : Nat) : Nat × FFlags := (fused f m [Term.mul (dec f a) (dec f b)]).out
def fmaFn (f : Fmt) (m : Rnd) (a b c : Nat) : Nat × FFlags := (fused f m [Term.mul (dec f a) (dec f b), Term.of (dec f c)]).out

/-- FSCL (06 R182): a × 2^n.  Beyond ±1024 the power of two no longer changes the result, so n is taken within that range. -/
def fsclFn (m : Rnd) (a b : Nat) : Nat × FFlags :=
  match dec .f32 a with
  | .nan sg => (Fmt.f32.nanC, flagIf sg flagNV)
  | .inf _ => (a, 0)
  | .fin n k e => if k = 0 then (a, 0) else (roundFmt .f32 m n k (e + clampInt (-1024) 1024 (Word.toSigned 32 b))).out

def execFadd (f : F2) (s : State) : Out := runLane f.h 8 (fspec2 f 1 .w (addFn .f32 f.rnd)) s
def execFsub (f : F2) (s : State) : Out := runLane f.h 8 (fspec2 f 1 .w (subFn .f32 f.rnd)) s
def execFmul (f : F2) (s : State) : Out := runLane f.h 8 (fspec2 f 1 .w (mulFn .f32 f.rnd)) s
def execFscl (f : F2) (s : State) : Out := runLane f.h 8 (fspec2 f 1 .w (fsclFn f.rnd)) s
def execDadd (f : F2) (s : State) : Out := runLane f.h 8 (fspec2 f 2 .f64 (addFn .f64 f.rnd)) s
def execDsub (f : F2) (s : State) : Out := runLane f.h 8 (fspec2 f 2 .f64 (subFn .f64 f.rnd)) s
def execDmul (f : F2) (s : State) : Out := runLane f.h 8 (fspec2 f 2 .f64 (mulFn .f64 f.rnd)) s
def execFfma (r : Rnd) (f : F3) (s : State) : Out := runLane f.h 8 (fspec3 f 1 1 1 1 .w .w (fmaFn .f32 r)) s
def execDfma (r : Rnd) (f : F3) (s : State) : Out := runLane f.h 8 (fspec3 f 2 2 2 2 .f64 .f64 (fmaFn .f64 r)) s
def execFmin (f : F2) (s : State) : Out := runLane f.h 8 (fspec2 f 1 .w (fun a b => (fMinMax .f32 false a b).out)) s
def execFmax (f : F2) (s : State) : Out := runLane f.h 8 (fspec2 f 1 .w (fun a b => (fMinMax .f32 true a b).out)) s
def execFrnd (f : F2) (s : State) : Out := runLane f.h 8 (fspec1 f 1 1 .w (fun a => (roundIntegral .f32 f.rnd a).out)) s

/-! ## Comparisons and classes (06 R186, R187) -/

def fspecCmp (f : F2) (n : Nat) (cf : CFmt) (fm : Fmt) : LaneSpec :=
  { dst := .pred (opNum f.d), srcs := [.reg f.a f.pa n cf, .reg f.b f.pb n cf], noUniform := false, kind := .lane,
    f := fun vs =>
      let r := fCompare f.sub (dec fm (argN vs 0)) (dec fm (argN vs 1))
      (if r.1 then 1 else 0, r.2) }
def execFcmp (f : F2) (s : State) : Out := runLane f.h 8 (fspecCmp f 1 .w .f32) s
def execDcmp (f : F2) (s : State) : Out := runLane f.h 8 (fspecCmp f 2 .f64 .f64) s
def execFclass (f : F2) (s : State) : Out :=
  let fm := (tyFmt f.ty).getD .f32
  runLane f.h 8 (fspec1 f 1 (tyWords f.ty) (tyC f.ty) (fun a => (fClass fm a, 0))) s

/-! ## Conversions (06 R188, R189) -/

/-- The sources of FCVT by SUB (06 Table 6.5). -/
def fcvtSrc (n : Fin 8) : Ty :=
  match n with | 0 => .f32 | 1 => .bf16 | 2 => .f16 | 3 => .e4m3 | 4 => .e5m2 | 5 => .s32 | 6 => .n32 | _ => .mx4
/-- The sources of DCVT by SUB (06 R189). -/
def dcvtSrc (n : Fin 8) : Ty :=
  match n with | 0 => .f64 | 1 => .f32 | 2 => .s32 | 3 => .n32 | 4 => .s64 | 5 => .n64 | _ => .mx4

/-- A conversion between element types (02 R78 to R80). -/
def convert (src dst : Ty) (m : Rnd) (sat : Bool) (x : Nat) : Nat × FFlags :=
  match tyFmt src, tyFmt dst with
  | some fs, some fd => (convFF fd m sat (dec fs (x % 2 ^ tyWidth src))).out
  | some fs, none =>
    let r := convFI (tyMin dst) (tyMax dst) m (dec fs (x % 2 ^ tyWidth src))
    (tyBits dst r.1, r.2)
  | none, some fd => (convIF fd m sat (tyVal src x)).out
  | none, none => (x, 0)

def execFcvt (f : F2) (s : State) : Out :=
  let src := fcvtSrc f.sub
  runLane f.h 8 (fspec1 f 1 1 (tyC src) (convert src f.ty f.rnd f.sat)) s
def execDcvt (f : F2) (s : State) : Out :=
  let src := dcvtSrc f.sub
  runLane f.h 8 (fspec1 f (tyWords f.ty) (tyWords src) (tyC src) (convert src f.ty f.rnd f.sat)) s

/-! ## Packed and dot-product forms (06 R190) -/

/-- Elements of a packed operand. -/
def elem (x k : Nat) : Nat := x / 2 ^ (16 * k) % 2 ^ 16
/-- Two element results in one register; their flags are ORed. -/
def pack2 (a b : Nat × FFlags) : Nat × FFlags := (a.1 % 2 ^ 16 + b.1 % 2 ^ 16 * 2 ^ 16, a.2 ||| b.2)
def packC (t : Ty) : CFmt := if t == .bf16 then .pbf16 else .pf16
def packF (t : Ty) : Fmt := if t == .bf16 then .bf16 else .f16

def each2 (g : Nat → Nat → Nat × FFlags) (a b : Nat) : Nat × FFlags := pack2 (g (elem a 0) (elem b 0)) (g (elem a 1) (elem b 1))
def each3 (g : Nat → Nat → Nat → Nat × FFlags) (a b c : Nat) : Nat × FFlags :=
  pack2 (g (elem a 0) (elem b 0) (elem c 0)) (g (elem a 1) (elem b 1) (elem c 1))

def execHadd2 (f : F2) (s : State) : Out := runLane f.h 8 (fspec2 f 1 (packC f.ty) (each2 (addFn (packF f.ty) f.rnd))) s
def execHmul2 (f : F2) (s : State) : Out := runLane f.h 8 (fspec2 f 1 (packC f.ty) (each2 (mulFn (packF f.ty) f.rnd))) s
def execHmax2 (f : F2) (s : State) : Out :=
  runLane f.h 8 (fspec2 f 1 (packC f.ty) (each2 (fun a b => (fMinMax (packF f.ty) true a b).out))) s
def execHfma2Bf16 (r : Rnd) (f : F3) (s : State) : Out :=
  runLane f.h 8 (fspec3 f 1 1 1 1 .pbf16 .pbf16 (each3 (fmaFn .bf16 r))) s
def execHfma2F16 (r : Rnd) (f : F3) (s : State) : Out :=
  runLane f.h 8 (fspec3 f 1 1 1 1 .pf16 .pf16 (each3 (fmaFn .f16 r))) s

/-- FDOT2: c + a.0 × b.0 + a.1 × b.1, rounded once to f32. -/
def dot2Fn (fm : Fmt) (m : Rnd) (a b c : Nat) : Nat × FFlags :=
  (fused .f32 m [Term.of (dec .f32 c), Term.mul (dec fm (elem a 0)) (dec fm (elem b 0)), Term.mul (dec fm (elem a 1)) (dec fm (elem b 1))]).out
def execFdot2Bf16 (r : Rnd) (f : F3) (s : State) : Out := runLane f.h 8 (fspec3 f 1 1 1 1 .pbf16 .w (dot2Fn .bf16 r)) s
def execFdot2F16 (r : Rnd) (f : F3) (s : State) : Out := runLane f.h 8 (fspec3 f 1 1 1 1 .pf16 .w (dot2Fn .f16 r)) s

/-! ## Approximating functions, roots, division (06 R191 to R198) -/

def execFex2 (f : F2) (s : State) : Out := runLane f.h 8 (fspec1 f 1 1 .w (fun a => (approxFex2 (dec .f32 a)).out)) s
def execFlg2 (f : F2) (s : State) : Out := runLane f.h 8 (fspec1 f 1 1 .w (fun a => (approxFlg2 (dec .f32 a)).out)) s
def execFsin (f : F2) (s : State) : Out := runLane f.h 8 (fspec1 f 1 1 .w (fun a => (approxFsin (dec .f32 a)).out)) s
def execFcos (f : F2) (s : State) : Out := runLane f.h 8 (fspec1 f 1 1 .w (fun a => (approxFcos (dec .f32 a)).out)) s
def execFrcp (f : F2) (s : State) : Out := runLane f.h 8 (fspec1 f 1 1 .w (fun a => (approxFrcp (dec .f32 a)).out)) s
def execFrsq (f : F2) (s : State) : Out := runLane f.h 8 (fspec1 f 1 1 .w (fun a => (approxFrsq (dec .f32 a)).out)) s
def execFsqrt (f : F2) (s : State) : Out := runLane f.h 8 (fspec1 f 1 1 .w (fun a => (exactFsqrt f.rnd a).out)) s

/-- FDIVS: A is a pair, the numerator and the estimate; the estimate decides only the cost (06 R198). -/
def fspecDivs (f : F2) : LaneSpec :=
  { dst := .reg f.d 1, srcs := [.reg f.a f.pa 2 .w, .reg f.b f.pb 1 .w], noUniform := false, kind := .lane,
    f := fun vs => (exactFdivs f.rnd (argN vs 0 % 2 ^ 32) (argN vs 1)).out }
def execFdivs (f : F2) (s : State) : Out := runLane f.h 8 (fspecDivs f) s

/-! ## Complex instructions (06 R200, R201; 02 Table 2.11) -/

def re (x : Nat) : FVal := dec .f32 (x % 2 ^ 32)
def im (x : Nat) : FVal := dec .f32 (x / 2 ^ 32 % 2 ^ 32)
/-- Two parts in a complex pair. -/
def cpair (a b : Nat × FFlags) : Nat × FFlags := (a.1 % 2 ^ 32 + b.1 % 2 ^ 32 * 2 ^ 32, a.2 ||| b.2)
def rndSum (m : Rnd) (ts : List Term) : Nat × FFlags := (fused .f32 m ts).out

def caddFn (m : Rnd) (a b : Nat) : Nat × FFlags :=
  cpair (rndSum m [Term.of (re a), Term.of (re b)]) (rndSum m [Term.of (im a), Term.of (im b)])
/-- The terms of the real and imaginary part of a product. -/
def prodRe (a b : Nat) : List Term := [Term.mul (re a) (re b), (Term.mul (im a) (im b)).neg]
def prodIm (a b : Nat) : List Term := [Term.mul (re a) (im b), Term.mul (im a) (re b)]
def cmulFn (m : Rnd) (a b : Nat) : Nat × FFlags := cpair (rndSum m (prodRe a b)) (rndSum m (prodIm a b))
def cfmaFn (m : Rnd) (a b c : Nat) : Nat × FFlags :=
  cpair (rndSum m (Term.of (re c) :: prodRe a b)) (rndSum m (Term.of (im c) :: prodIm a b))
/-- CBFLY: x + w·y in the first pair, x − w·y in the second (06 R201). -/
def cbflyFn (m : Rnd) (x y w : Nat) : Nat × FFlags :=
  let p := cpair (rndSum m (Term.of (re x) :: prodRe w y)) (rndSum m (Term.of (im x) :: prodIm w y))
  let q := cpair (rndSum m (Term.of (re x) :: (prodRe w y).map Term.neg)) (rndSum m (Term.of (im x) :: (prodIm w y).map Term.neg))
  (p.1 + q.1 * 2 ^ 64, p.2 ||| q.2)

def execCadd (f : F2) (s : State) : Out := runLane f.h 8 (fspec2 f 2 .w (caddFn f.rnd)) s
def execCmul (f : F2) (s : State) : Out := runLane f.h 8 (fspec2 f 2 .w (cmulFn f.rnd)) s
def execCcnj (f : F2) (s : State) : Out := runLane f.h 8 (fspec1 f 2 2 .w (fun a => (a ^^^ 2 ^ 63, 0))) s
def execCfma (r : Rnd) (f : F3) (s : State) : Out := runLane f.h 8 (fspec3 f 2 2 2 2 .w .w (cfmaFn r)) s
def execCbfly (r : Rnd) (f : F3) (s : State) : Out := runLane f.h 8 (fspec3 f 4 2 2 2 .w .w (cbflyFn r)) s

end Sys2Proof.Machine
end

