-- ==== Sys2Proof/Machine/Integer.lean ====
section
/-!
DEFINITION. Integer, logic, address and predicate instructions (05).
-/
namespace Sys2Proof.Machine
open Sys2Proof

/-! ## Shapes -/

/-- `op.T d, a, b` with every operand of the type's width. -/
def spec2 (f : F2) (n : Nat) (g : Nat → Nat → Nat) : LaneSpec :=
  { dst := .reg f.d n, srcs := [.reg f.a f.pa n .w, .reg f.b f.pb n .w], noUniform := false, kind := .control,
    f := fun vs => (g (argN vs 0) (argN vs 1), 0) }

/-- `op.T d, a`, the result of nd words. -/
def spec1 (f : F2) (nd na : Nat) (g : Nat → Nat) : LaneSpec :=
  { dst := .reg f.d nd, srcs := [.reg f.a f.pa na .w], noUniform := false, kind := .control, f := fun vs => (g (argN vs 0), 0) }

/-- The arithmetic forms of 05 Table 5.3: the exact integer result, clamped or wrapped. -/
def specArith (f : F2) (op : Int → Int → Int) : LaneSpec :=
  spec2 f (tyWords f.ty) (fun a b => tyResult f.ty f.sat (op (tyVal f.ty a) (tyVal f.ty b)))

/-- The bitwise forms of 05 Table 5.3. -/
def specBits (f : F2) (op : Nat → Nat → Nat) : LaneSpec :=
  spec2 f (tyWords f.ty) (fun a b => op a b % 2 ^ tyWidth f.ty)

/-- The shifts (05 R163): the count is always a single 32-bit operand. -/
def specShift (f : F2) (op : Nat → Nat → Nat → Nat) : LaneSpec :=
  { dst := .reg f.d (tyWords f.ty), srcs := [.reg f.a f.pa (tyWords f.ty) .w, .reg f.b f.pb 1 .w], noUniform := false,
    kind := .control, f := fun vs => (op (tyWidth f.ty) (argN vs 0) (argN vs 1) % 2 ^ tyWidth f.ty, 0) }

/-- The bit counts write a single register (05 R163). -/
def specCount (f : F2) (op : Nat → Nat → Nat) : LaneSpec := spec1 f 1 (tyWords f.ty) (op (tyWidth f.ty))

/-! ## Bit functions -/

def popcount (w x : Nat) : Nat := (List.range w).foldl (fun n i => if x.testBit i then n + 1 else n) 0
/-- Leading zeros in w bits. -/
def leadingZeros (w x : Nat) : Nat := if x % 2 ^ w = 0 then w else w - 1 - Nat.log2 (x % 2 ^ w)
/-- Trailing zeros in w bits. -/
def trailingZeros (w x : Nat) : Nat := ((List.range w).find? (fun i => x.testBit i)).getD w
def bitReverse (w x : Nat) : Nat := (List.range w).foldl (fun r i => if x.testBit i then r + 2 ^ (w - 1 - i) else r) 0
def shiftLeft (w a b : Nat) : Nat := if w ≤ b then 0 else a * 2 ^ b
def shiftRight (w a b : Nat) : Nat := if w ≤ b then 0 else a % 2 ^ w / 2 ^ b
def shiftArith (w a b : Nat) : Nat := Word.ofSigned w ((Word.toSigned w a).fdiv (2 ^ min b w : Nat))
def rotLeft (w a b : Nat) : Nat :=
  let k := b % w
  a * 2 ^ k + a % 2 ^ w / 2 ^ (w - k)
/-- AND NOT of 05 Table 5.3, on n-bit operands. -/
def andNot (a b : Nat) : Nat := a ^^^ (a &&& b)

/-- BFX (05 R164). -/
def bitField (signed : Bool) (a b : Nat) : Nat :=
  let pos := min (b % 256) 32
  let len := min (b / 256 % 256) 32
  let wide := if signed then Word.ofSigned 64 (Word.toSigned 32 a) else a % 2 ^ 32
  let r := wide / 2 ^ pos % 2 ^ len
  if len = 0 then 0 else if signed then Word.ofSigned 32 (Word.toSigned len r) else r

/-- The conditions of 05 Table 5.4. -/
def condHolds (cc : Fin 8) (a b : Int) : Bool :=
  match cc with
  | 0 => a == b
  | 1 => a != b
  | 2 => a < b
  | 3 => a ≤ b
  | 4 => a > b
  | 5 => a ≥ b
  | _ => false

/-! ## Arithmetic and logic (05 R162, R163) -/

def execIadd (f : F2) (s : State) : Out := runLane f.h 8 (specArith f (· + ·)) s
def execIsub (f : F2) (s : State) : Out := runLane f.h 8 (specArith f (· - ·)) s
def execImul (f : F2) (s : State) : Out := runLane f.h 8 (specArith f (· * ·)) s
def execImulh (f : F2) (s : State) : Out :=
  runLane f.h 8 (specArith f (fun a b => (a * b).fdiv (2 ^ tyWidth f.ty : Nat))) s
def execImin (f : F2) (s : State) : Out := runLane f.h 8 (specArith f (fun a b => if a ≤ b then a else b)) s
def execImax (f : F2) (s : State) : Out := runLane f.h 8 (specArith f (fun a b => if a ≤ b then b else a)) s
def execIabs (f : F2) (s : State) : Out :=
  runLane f.h 8 (spec1 f (tyWords f.ty) (tyWords f.ty) (fun a => tyResult f.ty f.sat (tyVal f.ty a).natAbs)) s
def execAnd (f : F2) (s : State) : Out := runLane f.h 8 (specBits f (· &&& ·)) s
def execOr (f : F2) (s : State) : Out := runLane f.h 8 (specBits f (· ||| ·)) s
def execXor (f : F2) (s : State) : Out := runLane f.h 8 (specBits f (· ^^^ ·)) s
def execAndn (f : F2) (s : State) : Out := runLane f.h 8 (specBits f andNot) s
def execShl (f : F2) (s : State) : Out := runLane f.h 8 (specShift f shiftLeft) s
def execShr (f : F2) (s : State) : Out := runLane f.h 8 (specShift f shiftRight) s
def execSar (f : F2) (s : State) : Out := runLane f.h 8 (specShift f shiftArith) s
def execRol (f : F2) (s : State) : Out := runLane f.h 8 (specShift f rotLeft) s
def execPopc (f : F2) (s : State) : Out := runLane f.h 8 (specCount f popcount) s
def execClz (f : F2) (s : State) : Out := runLane f.h 8 (specCount f leadingZeros) s
def execCtz (f : F2) (s : State) : Out := runLane f.h 8 (specCount f trailingZeros) s
def execBrev (f : F2) (s : State) : Out :=
  runLane f.h 8 (spec1 f (tyWords f.ty) (tyWords f.ty) (bitReverse (tyWidth f.ty))) s

/-! ## Fields, addresses, comparisons, conversions (05 R164 to R169) -/

def execBfx (f : F2) (s : State) : Out := runLane f.h 8 (spec2 f 1 (bitField (f.ty == .s32))) s

/-- LEA (05 R165). -/
def specLea (f : F2) : LaneSpec :=
  { dst := .reg f.d 2, srcs := [.reg f.a f.pa 2 .w, .reg f.b f.pb 1 .w], noUniform := false, kind := .control,
    f := fun vs => (Word.ofSigned 64 ((argN vs 0 : Int) + tyVal f.ty (argN vs 1) * (2 ^ f.sub.val : Nat)), 0) }
def execLea (f : F2) (s : State) : Out := runLane f.h 8 (specLea f) s

/-- ICMP (05 R167): the destination is a predicate. -/
def specIcmp (f : F2) : LaneSpec :=
  { dst := .pred (opNum f.d), srcs := [.reg f.a f.pa (tyWords f.ty) .w, .reg f.b f.pb (tyWords f.ty) .w], noUniform := false,
    kind := .control, f := fun vs => (if condHolds f.sub (tyVal f.ty (argN vs 0)) (tyVal f.ty (argN vs 1)) then 1 else 0, 0) }
def execIcmp (f : F2) (s : State) : Out := runLane f.h 8 (specIcmp f) s

/-- SEL (05 R168): SUB names the selecting predicate; no uniform form (R161). -/
def specSel (f : F2) : LaneSpec :=
  { dst := .reg f.d (tyWords f.ty), srcs := [.reg f.a f.pa (tyWords f.ty) .w, .reg f.b f.pb (tyWords f.ty) .w, .pred f.sub.val],
    noUniform := true, kind := .control, f := fun vs => (if argN vs 2 = 1 then argN vs 0 else argN vs 1, 0) }
def execSel (f : F2) (s : State) : Out := runLane f.h 8 (specSel f) s

/-- CVTI (05 R169): SUB is the source type's code. -/
def execCvti (f : F2) (s : State) : Out :=
  let src := tyOfCode f.sub.val
  runLane f.h 8 (spec1 f (tyWords f.ty) (tyWords src) (fun a => tyResult f.ty f.sat (tyVal src a))) s

/-! ## Moves and constants (05 R170, R171) -/

def execMov (f : F2) (s : State) : Out := runLane f.h 8 (spec1 f (tyWords f.ty) (tyWords f.ty) id) s

/-- `mov.b32 xN, a`. -/
def specToIndex (f : F2) : LaneSpec :=
  { dst := .idx (opNum f.d), srcs := [.reg f.a f.pa 1 .w], noUniform := false, kind := .control,
    f := fun vs => (min (argN vs 0) 255, 0) }
def execMovToIndex (f : F2) (s : State) : Out := runLane f.h 8 (specToIndex f) s

/-- `mov.b32 d, xN`; no uniform form (R161). -/
def specFromIndex (f : F2) : LaneSpec :=
  { dst := .reg f.d 1, srcs := [.idx (opNum f.a)], noUniform := true, kind := .control, f := fun vs => (argN vs 0, 0) }
def execMovFromIndex (f : F2) (s : State) : Out := runLane f.h 8 (specFromIndex f) s

/-- MOVI: IMM24 sign-extended. -/
def specMovi (f : FI) : LaneSpec :=
  { dst := .reg f.d 1, srcs := [], noUniform := false, kind := .control,
    f := fun _ => (Word.ofSigned 32 (Word.toSigned 24 f.imm.toNat), 0) }
def execMovi (f : FI) (s : State) : Out := runLane f.h 8 (specMovi f) s

/-- MOVH: IMM24[15:0] above a[15:0]. -/
def specMovh (f : FI) : LaneSpec :=
  { dst := .reg f.d 1, srcs := [.reg f.a f.pa 1 .w], noUniform := false, kind := .control,
    f := fun vs => (f.imm.toNat % 2 ^ 16 * 2 ^ 16 + argN vs 0 % 2 ^ 16, 0) }
def execMovh (f : FI) (s : State) : Out := runLane f.h 8 (specMovh f) s

/-! ## Three-source forms (05 R172, R173) -/

/-- `op d, a, b, c` with nd words of result, nc words of c. -/
def spec3 (f : F3) (nd nc : Nat) (g : Nat → Nat → Nat → Nat) : LaneSpec :=
  { dst := .reg f.d nd, srcs := [.reg f.a f.pa 1 .w, .reg f.b f.pb 1 .w, .reg f.c 0 nc .w], noUniform := false, kind := .control,
    f := fun vs => (g (argN vs 0) (argN vs 1) (argN vs 2), 0) }

/-- LOP3 (05 R173): the minterm of each bit selects the LUT's bit. -/
def lop3Fn (lut a b c : Nat) : Nat :=
  (List.range 32).foldl (fun r i =>
    let m := (if a.testBit i then 1 else 0) + (if b.testBit i then 2 else 0) + (if c.testBit i then 4 else 0)
    if lut.testBit m then r + 2 ^ i else r) 0

/-- BFI (05 Table 5.5). -/
def bfiFn (a b c : Nat) : Nat :=
  let pos := min (c % 256) 32
  let len := min (c / 256 % 256) 32
  let m := (2 ^ len - 1) * 2 ^ pos % 2 ^ 32
  andNot a m ||| (b * 2 ^ pos &&& m)

/-- PRMT (05 Table 5.5). -/
def prmtFn (a b c : Nat) : Nat :=
  Word.ofBytes ((List.range 4).map (fun i =>
    let sel := Word.bits c (4 * i + 2) (4 * i)
    let x := (b * 2 ^ 32 + a) / 2 ^ (8 * sel) % 256
    BitVec.ofNat 8 (if c.testBit (4 * i + 3) then (if 128 ≤ x then 255 else 0) else x)))

def execImad (f : F3) (s : State) : Out := runLane f.h 8 (spec3 f 1 1 (fun a b c => (a * b + c) % 2 ^ 32)) s
def execImadwS32 (f : F3) (s : State) : Out :=
  runLane f.h 8 (spec3 f 2 2 (fun a b c => Word.ofSigned 64 (Word.toSigned 32 a * Word.toSigned 32 b + c))) s
def execImadwN32 (f : F3) (s : State) : Out := runLane f.h 8 (spec3 f 2 2 (fun a b c => (a * b + c) % 2 ^ 64)) s
def execLop3 (f : F3) (fx : DWord) (s : State) : Out := runLane f.h 16 (spec3 f 1 1 (lop3Fn (fx.toNat % 256))) s
def execFshl (f : F3) (s : State) : Out :=
  runLane f.h 8 (spec3 f 1 1 (fun a b c => (a * 2 ^ 32 + b) * 2 ^ min c 32 / 2 ^ 32 % 2 ^ 32)) s
def execBfi (f : F3) (s : State) : Out := runLane f.h 8 (spec3 f 1 1 bfiFn) s
def execPrmt (f : F3) (s : State) : Out := runLane f.h 8 (spec3 f 1 1 prmtFn) s

/-! ## Predicates (05 R174) -/

def toBit (b : Bool) : Nat := if b then 1 else 0

/-- PLOP's operators (05 Table 5.6). -/
def plopFn (op : Fin 8) (a b : Bool) : Bool :=
  match op with
  | 0 => a && b
  | 1 => a || b
  | 2 => a ^^ b
  | 3 => a && !b
  | 4 => a || !b
  | 5 => !(a && b)
  | 6 => !(a || b)
  | 7 => !(a ^^ b)

def specPlop (f : F2) : LaneSpec :=
  { dst := .pred (opNum f.d), srcs := [.pred (opNum f.a), .pred (opNum f.b)], noUniform := false, kind := .control,
    f := fun vs => (toBit (plopFn f.sub (argN vs 0 = 1) (argN vs 1 = 1)), 0) }
def execPlop (f : F2) (s : State) : Out := runLane f.h 8 (specPlop f) s

/-- `pmov.save d`; no uniform form (R161). -/
def specPmovSave (f : F2) : LaneSpec :=
  { dst := .reg f.d 1, srcs := [.preds], noUniform := true, kind := .control, f := fun vs => (argN vs 0, 0) }
def execPmovSave (f : F2) (s : State) : Out := runLane f.h 8 (specPmovSave f) s

def specPmovLoad (f : F2) : LaneSpec :=
  { dst := .preds, srcs := [.reg f.a f.pa 1 .w], noUniform := false, kind := .control, f := fun vs => (argN vs 0 % 128, 0) }
def execPmovLoad (f : F2) (s : State) : Out := runLane f.h 8 (specPmovLoad f) s

def specPmovNz (f : F2) : LaneSpec :=
  { dst := .pred (opNum f.d), srcs := [.reg f.a f.pa 1 .w], noUniform := false, kind := .control,
    f := fun vs => (toBit (argN vs 0 ≠ 0), 0) }
def execPmovNz (f : F2) (s : State) : Out := runLane f.h 8 (specPmovNz f) s

/-- PCMP (05 Table 5.6): COMB stands in the RND field. -/
def specPcmp (f : F2) : LaneSpec :=
  { dst := .pred (opNum f.d),
    srcs := [.reg f.a f.pa (tyWords f.ty) .w, .reg f.b f.pb (tyWords f.ty) .w, .pred (opNum f.d)], noUniform := false,
    kind := .control,
    f := fun vs =>
      let c := condHolds f.sub (tyVal f.ty (argN vs 0)) (tyVal f.ty (argN vs 1))
      let p := argN vs 2 = 1
      (toBit (match f.rnd with | .rne => p && c | .rtz => p || c | _ => p ^^ c), 0) }
def execPcmp (f : F2) (s : State) : Out := runLane f.h 8 (specPcmp f) s

/-- PSEL (05 Table 5.6): SUB names the selecting predicate. -/
def specPsel (f : F2) : LaneSpec :=
  { dst := .pred (opNum f.d), srcs := [.pred (opNum f.a), .pred (opNum f.b), .pred f.sub.val], noUniform := false,
    kind := .control, f := fun vs => (if argN vs 2 = 1 then argN vs 0 else argN vs 1, 0) }
def execPsel (f : F2) (s : State) : Out := runLane f.h 8 (specPsel f) s

end Sys2Proof.Machine
end

