-- ==== Sys2Proof/Machine/Registers.lean ====
section
/-!
DEFINITION. REGISTER_WRITE (00 R12, R13): a host's write of a BAR0 register that has no behaviour of its own, and what a read of BAR0
shows (Tables 14.1, 15.14, 15.15, 16.6, 17.7, 18.1).
-/
namespace Sys2Proof.Machine
open Sys2Proof

/-! ## Writes -/

/-- A write of a per-context register (16 Table 16.6); those that the table marks RO (VF) take it from the physical function only. -/
def Ctx.write (c : Ctx) (pf : Bool) (off val : Nat) : Ctx :=
  match off with
  | 0x00 => if pf then { c with wbase := Word.bits val 56 21 * 2 ^ 21 } else c
  | 0x08 => if pf then { c with wlimit := Word.bits val 56 21 * 2 ^ 21 } else c
  | 0x10 => if pf then { c with woff := Word.bits val 63 21 * 2 ^ 21 } else c
  | 0x18 => if pf then { c with wen := Word.bit val 7, wx := Word.bit val 6, ww := Word.bit val 5, wr := Word.bit val 4 } else c
  | 0x20 => if pf then { c with ptroot := Word.bits val 56 12 * 2 ^ 12, pten := Word.bit val 0 } else c
  | 0x28 => if pf then { c with shadow := Word.bits val 56 12 * 2 ^ 12 } else c
  | 0x30 => { c with erbase := Word.bits val 56 12 * 2 ^ 12 }
  | 0x40 => { c with erhead := val % 2 ^ 32 }
  | 0x48 => { c with tcarg := val % 2 ^ 64 }
  | _ => c

/-- A write of a fabric register or table entry (17 Table 17.7). -/
def Fabric.write (f : Fabric) (off val : Nat) : Fabric :=
  if off = 0x70000 then { f with node := val % 4096 }
  else if off = 0x70008 then { f with apbase := Word.bits val 56 30 * 2 ^ 30 }
  else if off = 0x70010 then { f with membase := Word.bits val 56 12 * 2 ^ 12 }
  else if off = 0x70018 then { f with fabarg := Word.bits val 56 6 * 2 ^ 6 }
  else if 0x80000 ≤ off && off < 0x82000 && off % 2 = 0 then
    { f with routes := kvPut ⟨false, 0⟩ f.routes ((off - 0x80000) / 2) ⟨Word.bit val 15, Word.bits val 3 0⟩ }
  else if 0xA0000 ≤ off && off < 0xA0800 && off % 8 = 0 then
    { f with groups := kvPut ⟨false, 0⟩ f.groups ((off - 0xA0000) / 8) ⟨Word.bit val 63, Word.bits val 47 32⟩ }
  else if 0xC0000 ≤ off && off < 0xC4000 && off % 4 = 0 then
    { f with slots := kvPut ⟨false, 0, 0⟩ f.slots ((off - 0xC0000) / 4) ⟨Word.bit val 31, Word.bits val 27 20, Word.bits val 11 0⟩ }
  else f

/-- REGISTER_WRITE.  LQBASE of a ring, the per-context registers, the fabric registers and tables; a CMD of TCMD that names no command
is counted (16 Table 16.3).  Every other register has an event of its own, or ignores writes. -/
def execRegisterWrite (fn off val : Nat) (s : State) : Out :=
  if !s.hostOpen || 16 < fn then .next s
  else if 0x10000 ≤ off && off < 0x10800 then
    let r := (off - 0x10000) / 0x20
    .next (if off % 0x20 = 0 && (s.ring r).reaches fn then s.setRing r { s.ring r with base := Word.bits val 56 12 * 2 ^ 12 } else s)
  else if 0x20000 ≤ off && off < 0x21100 then
    let t := (off - 0x20000) / 0x100
    let o := (off - 0x20000) % 0x100
    .next (if !reachesCtx fn t then s
      else if o = 0x50 then (if 1 ≤ Word.bits val 3 0 && Word.bits val 3 0 ≤ 5 then s else s.tcmdIgnored t)
      else s.modCtx t (fun c => c.write (fn = 0) o val))
  else .next (if fn = 0 then { s with fabric := s.fabric.write off val } else s)

/-! ## Reads -/

/-- What a read of a per-context register shows. -/
def Ctx.read (c : Ctx) (off : Nat) : Nat :=
  match off with
  | 0x00 => c.wbase
  | 0x08 => c.wlimit
  | 0x10 => c.woff
  | 0x18 => bnat c.wen 128 + bnat c.wx 64 + bnat c.ww 32 + bnat c.wr 16
  | 0x20 => c.ptroot + bnat c.pten 1
  | 0x28 => c.shadow
  | 0x30 => c.erbase
  | 0x38 => bnat c.eren (2 ^ 31) + c.erlog * 2 ^ 20
  | 0x3C => c.ertail
  | 0x40 => c.erhead
  | 0x44 => c.erdrop
  | 0x58 => c.iva + c.isize * 256 + bnat c.idone 2
  | 0x60 => c.mpa + c.msize * 256 + bnat c.mbusy 4 + bnat c.mdone 2
  | 0x68 => c.tcmderr
  | _ => 0

/-- The word of a core or a quad (15 Table 15.15). -/
def State.demeritWord (s : State) (c : Nat) : Nat :=
  let k := s.core c
  bnat k.collar (2 ^ 31) + bnat k.retired (2 ^ 30) + bnat (Config.quadOf c = (s.cluster (Config.clusterOf c)).spareQuad) (2 ^ 29) + k.demerit
def State.quadWord (s : State) (q : Nat) : Nat :=
  bnat ((List.range 4).all (fun i => (s.core (4 * q + i)).collar)) (2 ^ 31)
    + bnat (q = (s.cluster (Config.clusterOfQuad q)).spareQuad) (2 ^ 29) + (s.quad q).demerit

/-- DEVREADY and PWRSTAT (18 Table 18.1); STEP is the greatest of the dies'. -/
def State.devReady (s : State) : Nat :=
  bnat s.ready (2 ^ 31) + bnat s.fail (2 ^ 30) + bnat s.confid (2 ^ 29) + s.fcode * 2 ^ 16 + s.phase
def State.pwrStat (s : State) : Nat :=
  s.modw * 2 ^ 16 + s.tmax * 2 ^ 8 + s.steps.foldl (fun n e => max n e.2.1) 0

def Fabric.read (f : Fabric) (off : Nat) : Nat :=
  if off = 0x70000 then f.node
  else if off = 0x70008 then f.apbase
  else if off = 0x70010 then f.membase
  else if off = 0x70018 then f.fabarg
  else if off = 0x70028 then bnat f.done (2 ^ 31) + f.result * 2 ^ 28 + f.index
  else if 0x70100 ≤ off && off < 0x70180 && off % 8 = 0 then
    let l := f.link ((off - 0x70100) / 8)
    bnat l.up (2 ^ 31) + l.peer * 2 ^ 16 + l.resends
  else if 0x80000 ≤ off && off < 0x82000 && off % 2 = 0 then
    let r := f.route ((off - 0x80000) / 2)
    bnat r.valid (2 ^ 15) + r.link
  else if 0xA0000 ≤ off && off < 0xA0800 && off % 8 = 0 then
    let g := f.comm ((off - 0xA0000) / 8)
    bnat g.valid (2 ^ 63) + g.gen * 2 ^ 32
  else if 0xC0000 ≤ off && off < 0xC4000 && off % 4 = 0 then
    let p := f.slot ((off - 0xC0000) / 4)
    bnat p.valid (2 ^ 31) + p.group * 2 ^ 20 + p.dev
  else 0

/-- What a function reads at an offset of BAR0; a register that it cannot reach reads 0. -/
def State.barRead (s : State) (fn off : Nat) : Nat :=
  if off = 0 then s.devReady
  else if off = 0x14 then s.pwrStat
  else if 0x10000 ≤ off && off < 0x10800 then
    let x := s.ring ((off - 0x10000) / 0x20)
    if !x.reaches fn then 0
    else
      match off % 0x20 with
      | 0x00 => x.base
      | 0x08 => bnat x.en (2 ^ 31) + x.logsize * 2 ^ 20 + x.tenant * 2 ^ 8
      | 0x0C => x.tail
      | 0x10 => x.head
      | _ => 0
  else if 0x20000 ≤ off && off < 0x21100 then
    let t := (off - 0x20000) / 0x100
    if reachesCtx fn t then (s.ctx t).read ((off - 0x20000) % 0x100) else 0
  else if fn ≠ 0 then 0
  else if off = 0x08 then bnat s.confreq 256
  else if off = 0x10 then s.cap
  else if off = 0x3000 then bnat s.locked (2 ^ 16) + s.thresh
  else if 0x4000 ≤ off && off < 0x52C0 && off % 4 = 0 then s.demeritWord ((off - 0x4000) / 4)
  else if 0x6000 ≤ off && off < 0x64B0 && off % 4 = 0 then s.quadWord ((off - 0x6000) / 4)
  else if 0x40000 ≤ off && off < 0x40000 + 0x48 * 1200 then
    let k := s.core ((off - 0x40000) / 0x48)
    let o := (off - 0x40000) % 0x48
    if o < 64 then Word.ofBytes ((k.slots.drop (o / 8 * 8)).take 8) else bnat k.lend 1
  else s.fabric.read off

end Sys2Proof.Machine
end

