-- ==== Sys2Proof/Machine/System.lean ====
section
/-!
DEFINITION. The system and redundancy instructions (11) but for LAUNCH: control and status registers, SIGACC, HEART, CLKR, REGQ,
TRET, PCLS, ERRR, SLEEP, FLAGS, KILL.
-/
namespace Sys2Proof.Machine
open Sys2Proof

/-! ## CSRs (11 R308, R309) -/

/-- Whether a CSR number is assigned, and its width (11 Table 11.2). -/
def csrWidth (n : Nat) : Option Nat :=
  if [0x010, 0x011, 0x021, 0x022, 0x0A0].contains n then some 32
  else if n = 0x020 || n = 0x023 || (0x040 ≤ n && n ≤ 0x05F) then some 64
  else none

/-- The value of a CSR as a group reads it. -/
def State.csrRead (s : State) (gk n : Nat) : Nat :=
  let g := s.group gk
  match n with
  | 0x010 => g.gstat.toNat
  | 0x011 => g.gclass.toNat
  | 0x020 => g.tvec.toNat
  | 0x021 => g.tcause.toNat
  | 0x022 => g.texec.toNat
  | 0x023 => g.taddr.toNat
  | 0x0A0 => (s.core (s.coreOf gk)).cpdg.toNat
  | n => (g.tpc.getD (n - 0x040) 0).toNat

/-- Write a CSR: the W1C fields of gstat, CLS, tvec, cpdg; read-only registers ignore it (00 Table 0.6). -/
def State.csrWrite (s : State) (gk n x : Nat) : State :=
  match n with
  | 0x010 => s.modGroup gk (fun g => { g with gstat := g.gstat &&& ~~~ (BitVec.ofNat 32 (x &&& 0x5F)) })
  | 0x011 => s.modGroup gk (fun g => { g with gclass := BitVec.ofNat 32 (x % 4) })
  | 0x020 => s.modGroup gk (fun g => { g with tvec := BitVec.ofNat 64 x })
  | 0x0A0 => s.modCore (s.coreOf gk) (fun k => { k with cpdg := BitVec.ofNat 32 x })
  | _ => s

def csrNum (imm : BitVec 24) : Nat := imm.toNat % 4096
/-- W64 of 11 Table 11.1, in words. -/
def csrWords (imm : BitVec 24) : Nat := if imm.toNat.testBit 12 then 2 else 1

def execCsrr (f : FI) (s : State) : Out :=
  let n := csrNum f.imm
  let w := csrWords f.imm
  runOnceOf f.h 8 (f.d, w) [] (fun is _ s =>
    let put (x : Nat) (s : State) : Ran := putDone is f.d w (x % 2 ^ (32 * w)) s
    if n = 0x0A0 then loggedValue s is 0x08 (fun s => (s.csrRead is.key n, s)) put
    else put (s.csrRead is.key n) s) s

def execCsrw (f : FI) (s : State) : Out :=
  let n := csrNum f.imm
  let w := csrWords f.imm
  runOnceOf f.h 8 noDst [(f.a, w)] (fun is vs s =>
    let x := argN vs 0 % 2 ^ (32 * w)
    .done ((if n = 0x0A0 && s.isRerun is.key then s else s.csrWrite is.key n x).passAll is)) s

/-! ## Signature, progress, clocks (11 R314 to R316) -/

/-- SIGACC once for the group. -/
def sigaccOnce (f : F2) (n : Nat) (s : State) : Out :=
  runOnceOf f.h 8 noDst [(f.a, n)] (fun is vs s =>
    let g := s.group is.key
    .done ((s.fold g.team (sigEventOf (tyCode f.ty) g.gid 32 (argN vs 0))).passAll is)) s

/-- SIGACC of a vector operand: one event for each thread (11 R314). -/
def sigaccTurn (f : F2) (n : Nat) (is : Issue) (s0 : State) (t : Nat) (s : State) : TOut :=
  let gk := is.key
  if idxOut (s0.roleOf gk).vregs ((s0.group gk).thread t) f.a n then .trap s 0x09 0
  else
    let v := s0.source is t f.a f.pa n .w
    if v.pois then .die s recPOISON
    else
      let go (s : State) (x : Nat) : TOut :=
        .ok (((s.fold (s.group gk).team (sigEventOf (tyCode f.ty) (s.group gk).gid t x)).deadRead gk v.dead).pass is t)
      match s.verdict (s0.effClass is f.h.pcl .control) t with
      | .same => go s v.val
      | .flipped b => go s (v.val ^^^ b)
      | .corrected => go (s.noteCorrected gk t) v.val
      | .split => .split s

def execSigacc (f : F2) (s : State) : Out :=
  let n := tyWords f.ty
  if (match f.a with | .v _ | .x _ => true | _ => false) then
    runInstr f.h 8
      (fun s is =>
        let r := s.roleOf is.key
        (operandCheck r.vregs r.sregs (.reg .z 1) [.reg f.a f.pa n .w] false).map (·, 0))
      (fun s is => runThreads is (sigaccTurn f n is s) is.ex s.env.cut s) s
  else sigaccOnce f n s

/-- HEART: a beat of a persistent launch (11 R315); in a later run it only completes (11 Table 11.5). -/
def execHeart (f : F2) (s : State) : Out :=
  runInstr f.h 8 (fun _ _ => none) (fun s is =>
    .done ((if (s.launchOf is.key).r.persist && !s.isRerun is.key then s.beat is.key else s).passAll is)) s

/-- CLKR (11 R316): the core cycles since the team started, the core clock in MHz, the throttle steps since then. -/
def State.clkrValue (s : State) (gk : Nat) (sel : Nat) : Nat :=
  let tm := s.teamOf gk
  let k := s.core tm.core
  match sel with
  | 0 => (s.cycle - tm.startCycle) % 2 ^ 64
  | 1 => k.mhz
  | _ => (k.thr + 2 ^ 32 - tm.startThr % 2 ^ 32) % 2 ^ 32

def execClkr (f : F2) (s : State) : Out :=
  let n := if f.sub = 0 then 2 else 1
  runOnceOf f.h 8 (f.d, n) [] (fun is _ s =>
    loggedValue s is 0x08 (fun s => (s.clkrValue is.key f.sub.val, s)) (putDone is f.d n)) s

/-! ## Quota moves (11 R312) -/

/-- Bytes of vector registers that the groups of a core's placed teams hold on a lane, with one team's roles replaced. -/
def State.laneBytes (s : State) (core lane tk : Nat) (roles : List Role) : Nat :=
  (s.teams.filter (fun e => e.2.core == core && e.2.resid.onCore)).foldl (fun n e =>
    let rs := if e.1 = tk then roles else e.2.roles
    n + (e.2.groups.filter (fun gk => (s.group gk).lane == lane)).foldl (fun n gk =>
      n + 128 * (rs.getD (s.group gk).role Role.none).vregs) 0) 0

/-- The REG_BOUND conditions of REGQ (11 R312). -/
def State.regqBad (s : State) (gk src dst n : Nat) : Bool :=
  let g := s.group gk
  let tm := s.team g.team
  let vs (r : Nat) : Nat := (tm.roles.getD r Role.none).vregs
  src = dst || tm.roles.length ≤ src || tm.roles.length ≤ dst || (g.role ≠ src && g.role ≠ dst)
    || vs src < 8 + n || 128 < vs dst + n
    || (List.range 32).any (fun l => 16384 < s.laneBytes tm.core l g.team (moveQuota tm.roles src dst n))
    || (match tm.regq with | some q => q.src ≠ src || q.dst ≠ dst || q.n ≠ n | none => false)

/-- REGQ from, to, n: a rendezvous; the arrival is a release at team scope. -/
def execRegq (f : F2) (s : State) : Out :=
  runOnce f.h 8 (fun _ _ => none) (fun is s =>
    let gk := is.key
    let src := constVal .w f.a
    let dst := constVal .w f.b
    let n := 8 * tyCode f.ty
    if s.regqBad gk src dst n then trapNow s is 0x08
    else if !s.releaseReady gk .team then .held (s.modGroup gk (fun g => { g with run := .release })) is.lowest
    else
      let tk := (s.group gk).team
      let s := ((s.release gk .team).passAll is).modTeam tk (fun tm =>
        { tm with regq := some (match tm.regq with
            | some q => { q with arrived := q.arrived ++ [gk] }
            | none => { src := src, dst := dst, n := n, arrived := [gk] }) })
      .done ((s.modGroup gk (fun g => { g with run := .regq })).regqTry tk)) s

/-! ## Handlers, class, errors, sleep, flags, death (11 R311, R315, R317 to R320) -/

def runTret (h : Hdr) (skip : Bool) (s : State) : Out :=
  runInstr h 8
    (fun s is => if (s.group is.key).inHandler then none else some (0x21, 0))
    (fun s is => .left (s.modGroup is.key (fun g => g.leaveHandler skip))) s

def execTretResume (f : F2) (s : State) : Out := runTret f.h false s
def execTretSkip (f : F2) (s : State) : Out := runTret f.h true s

def execPcls (f : F2) (s : State) : Out :=
  runOnce f.h 8 (fun _ _ => none) (fun is s =>
    .done ((s.modGroup is.key (fun g => { g with gclass := BitVec.ofNat 32 (f.sub.val % 4) })).passAll is)) s

/-- The oldest record that ERRR has not read (11 R317). -/
def Team.nextRec (tm : Team) : Option ErrRec := if tm.unread = 0 then Option.none else tm.recq[tm.recq.length - tm.unread]?

/-- ERRR pd, [a]; a later run stores the logged record (11 Table 11.5). -/
def execErrr (f : F2) (s : State) : Out :=
  runOnceOf f.h 8 noDst [(f.a, 1)] (fun is vs s =>
    let gk := is.key
    let tk := (s.group gk).team
    let pd := opNum f.d
    let addr := argN vs 0
    match s.ownCheck tk addr 64 64 with
    | .error c => trapAt s is c addr
    | .ok off =>
      if s.isRerun gk then
        withRecord s is [0x0A] (fun r s =>
          if r.value % 2 = 1 then predDone is pd true (s.scrWrite tk off r.payload false) else predDone is pd false s)
      else
        match (s.team tk).nextRec with
        | some r =>
          let s := s.modTeam tk (fun tm => { tm with unread := tm.unread - 1 })
          predDone is pd true ((s.scrWrite tk off r.bytes false).logAppend gk 0x0A 32 1 r.bytes)
        | none => predDone is pd false (s.logAppend gk 0x0A 32 0 [])) s

/-- SLEEP b (11 R315): the group goes past it and issues nothing for b cycles; a later run does not wait.  It runs once in every class
(R307). -/
def execSleep (f : F2) (s : State) : Out :=
  runInstr f.h 8 (fun s is => onceCheck s is noDst [(f.b, 1)]) (fun s is =>
    onceBody noDst [(f.b, 1)] (fun is vs s =>
      let b := argN vs 0
      let s := s.passAll is
      if b = 0 || s.isRerun is.key then .done s
      else .done (s.modGroup is.key (fun g => { g with run := .sleep (s.cycle + b) }))) is s) s

/-- FLAGS (11 R318): D takes gstat[4:0] as it stands; then the change is made. -/
def flagsBody (d : Opnd) (change : Word → Nat → Word) (is : Issue) (vs : List Nat) (s : State) : Ran :=
  let old := (s.group is.key).gstat
  putDone is d 1 (old.toNat % 32) (s.modGroup is.key (fun g => { g with gstat := change old (argN vs 0 % 32) }))

def execFlagsGet (f : F2) (s : State) : Out :=
  runOnceOf f.h 8 (f.d, 1) [(f.b, 1)] (flagsBody f.d (fun w _ => w)) s
def execFlagsClr (f : F2) (s : State) : Out :=
  runOnceOf f.h 8 (f.d, 1) [(f.b, 1)] (flagsBody f.d (fun w b => w &&& ~~~ (BitVec.ofNat 32 b))) s
def execFlagsSet (f : F2) (s : State) : Out :=
  runOnceOf f.h 8 (f.d, 1) [(f.b, 1)] (flagsBody f.d (fun w b => w ||| BitVec.ofNat 32 b)) s

/-- KILL (11 R320): each thread of EXEC dies in its turn. -/
def execKill (f : F2) (s : State) : Out :=
  runInstr f.h 8 (fun _ _ => none) (fun s is => runThreads is (fun _ s => .die s recKILL) is.ex s.env.cut s) s

end Sys2Proof.Machine
end

