-- ==== Sys2Proof/Machine/Dispatch.lean ====
section
/-!
DEFINITION. The meaning of each instruction: one arm for each constructor, one call of the definition that gives it.
-/
namespace Sys2Proof.Machine
open Sys2Proof

def exec (i : Instr) (s : State) : Host.Outcome State Fault Refusal :=
  match i with
  | .bra f => Sys2Proof.Machine.execBra f s
  | .call f => Sys2Proof.Machine.execCall f s
  | .loop f fx => Sys2Proof.Machine.execLoop f fx s
  | .loopw f fx => Sys2Proof.Machine.execLoopw f fx s
  | .trap f => Sys2Proof.Machine.execTrap f s
  | .bkpt f => Sys2Proof.Machine.execBkpt f s
  | .waitev f => Sys2Proof.Machine.execWaitev f s
  | .nop f => Sys2Proof.Machine.execNop f s
  | .brx f => Sys2Proof.Machine.execBrx f s
  | .callx f => Sys2Proof.Machine.execCallx f s
  | .ret f => Sys2Proof.Machine.execRet f s
  | .endl f => Sys2Proof.Machine.execEndl f s
  | .exit f => Sys2Proof.Machine.execExit f s
  | .yield f => Sys2Proof.Machine.execYield f s
  | .iadd f => Sys2Proof.Machine.execIadd f s
  | .isub f => Sys2Proof.Machine.execIsub f s
  | .imul f => Sys2Proof.Machine.execImul f s
  | .imulh f => Sys2Proof.Machine.execImulh f s
  | .imin f => Sys2Proof.Machine.execImin f s
  | .imax f => Sys2Proof.Machine.execImax f s
  | .iabs f => Sys2Proof.Machine.execIabs f s
  | .andB f => Sys2Proof.Machine.execAnd f s
  | .orB f => Sys2Proof.Machine.execOr f s
  | .xorB f => Sys2Proof.Machine.execXor f s
  | .andn f => Sys2Proof.Machine.execAndn f s
  | .shl f => Sys2Proof.Machine.execShl f s
  | .shr f => Sys2Proof.Machine.execShr f s
  | .sar f => Sys2Proof.Machine.execSar f s
  | .rol f => Sys2Proof.Machine.execRol f s
  | .popc f => Sys2Proof.Machine.execPopc f s
  | .clz f => Sys2Proof.Machine.execClz f s
  | .ctz f => Sys2Proof.Machine.execCtz f s
  | .brev f => Sys2Proof.Machine.execBrev f s
  | .bfx f => Sys2Proof.Machine.execBfx f s
  | .lea f => Sys2Proof.Machine.execLea f s
  | .icmp f => Sys2Proof.Machine.execIcmp f s
  | .sel f => Sys2Proof.Machine.execSel f s
  | .mov f => Sys2Proof.Machine.execMov f s
  | .movToIndex f => Sys2Proof.Machine.execMovToIndex f s
  | .movFromIndex f => Sys2Proof.Machine.execMovFromIndex f s
  | .pick f => Sys2Proof.Machine.execPick f s
  | .pickFirst f => Sys2Proof.Machine.execPickFirst f s
  | .cvti f => Sys2Proof.Machine.execCvti f s
  | .imad f => Sys2Proof.Machine.execImad f s
  | .imadwS32 f => Sys2Proof.Machine.execImadwS32 f s
  | .imadwN32 f => Sys2Proof.Machine.execImadwN32 f s
  | .lop3 f fx => Sys2Proof.Machine.execLop3 f fx s
  | .fshl f => Sys2Proof.Machine.execFshl f s
  | .bfi f => Sys2Proof.Machine.execBfi f s
  | .prmt f => Sys2Proof.Machine.execPrmt f s
  | .movi f => Sys2Proof.Machine.execMovi f s
  | .movh f => Sys2Proof.Machine.execMovh f s
  | .fadd f => Sys2Proof.Machine.execFadd f s
  | .fsub f => Sys2Proof.Machine.execFsub f s
  | .fmul f => Sys2Proof.Machine.execFmul f s
  | .fmin f => Sys2Proof.Machine.execFmin f s
  | .fmax f => Sys2Proof.Machine.execFmax f s
  | .fcmp f => Sys2Proof.Machine.execFcmp f s
  | .fclass f => Sys2Proof.Machine.execFclass f s
  | .fcvt f => Sys2Proof.Machine.execFcvt f s
  | .frnd f => Sys2Proof.Machine.execFrnd f s
  | .fscl f => Sys2Proof.Machine.execFscl f s
  | .frcp f => Sys2Proof.Machine.execFrcp f s
  | .frsq f => Sys2Proof.Machine.execFrsq f s
  | .fsqrt f => Sys2Proof.Machine.execFsqrt f s
  | .fdivs f => Sys2Proof.Machine.execFdivs f s
  | .fex2 f => Sys2Proof.Machine.execFex2 f s
  | .flg2 f => Sys2Proof.Machine.execFlg2 f s
  | .fsin f => Sys2Proof.Machine.execFsin f s
  | .fcos f => Sys2Proof.Machine.execFcos f s
  | .dadd f => Sys2Proof.Machine.execDadd f s
  | .dsub f => Sys2Proof.Machine.execDsub f s
  | .dmul f => Sys2Proof.Machine.execDmul f s
  | .dcmp f => Sys2Proof.Machine.execDcmp f s
  | .dcvt f => Sys2Proof.Machine.execDcvt f s
  | .hadd2 f => Sys2Proof.Machine.execHadd2 f s
  | .hmul2 f => Sys2Proof.Machine.execHmul2 f s
  | .hmax2 f => Sys2Proof.Machine.execHmax2 f s
  | .cadd f => Sys2Proof.Machine.execCadd f s
  | .cmul f => Sys2Proof.Machine.execCmul f s
  | .ccnj f => Sys2Proof.Machine.execCcnj f s
  | .ffma r f => Sys2Proof.Machine.execFfma r f s
  | .dfma r f => Sys2Proof.Machine.execDfma r f s
  | .hfma2Bf16 r f => Sys2Proof.Machine.execHfma2Bf16 r f s
  | .hfma2F16 r f => Sys2Proof.Machine.execHfma2F16 r f s
  | .cfma r f => Sys2Proof.Machine.execCfma r f s
  | .cbfly r f => Sys2Proof.Machine.execCbfly r f s
  | .fdot2Bf16 r f => Sys2Proof.Machine.execFdot2Bf16 r f s
  | .fdot2F16 r f => Sys2Proof.Machine.execFdot2F16 r f s
  | .plop f => Sys2Proof.Machine.execPlop f s
  | .pmovSave f => Sys2Proof.Machine.execPmovSave f s
  | .pmovLoad f => Sys2Proof.Machine.execPmovLoad f s
  | .pmovNz f => Sys2Proof.Machine.execPmovNz f s
  | .pcmp f => Sys2Proof.Machine.execPcmp f s
  | .psel f => Sys2Proof.Machine.execPsel f s
  | .vote f => Sys2Proof.Machine.execVote f s
  | .ballot f => Sys2Proof.Machine.execBallot f s
  | .matchT f => Sys2Proof.Machine.execMatch f s
  | .shfl f => Sys2Proof.Machine.execShfl f s
  | .scani f => Sys2Proof.Machine.execScani f s
  | .scanx f => Sys2Proof.Machine.execScanx f s
  | .redg f => Sys2Proof.Machine.execRedg f s
  | .rank f => Sys2Proof.Machine.execRank f s
  | .ldg f => Sys2Proof.Machine.execLdg f s
  | .stg f => Sys2Proof.Machine.execStg f s
  | .lds f => Sys2Proof.Machine.execLds f s
  | .sts f => Sys2Proof.Machine.execSts f s
  | .ldk f => Sys2Proof.Machine.execLdk f s
  | .stk f => Sys2Proof.Machine.execStk f s
  | .ldc f => Sys2Proof.Machine.execLdc f s
  | .ldga f => Sys2Proof.Machine.execLdga f s
  | .stgr f => Sys2Proof.Machine.execStgr f s
  | .ldsx f => Sys2Proof.Machine.execLdsx f s
  | .stsx f => Sys2Proof.Machine.execStsx f s
  | .atomg f => Sys2Proof.Machine.execAtomg f s
  | .atoms f => Sys2Proof.Machine.execAtoms f s
  | .casg f => Sys2Proof.Machine.execCasg f s
  | .cass f => Sys2Proof.Machine.execCass f s
  | .xchg f => Sys2Proof.Machine.execXchg f s
  | .red f => Sys2Proof.Machine.execRed f s
  | .fence f => Sys2Proof.Machine.execFence f s
  | .cctlPref f => Sys2Proof.Machine.execCctlPref f s
  | .cctlClean f => Sys2Proof.Machine.execCctlClean f s
  | .cctlInval f => Sys2Proof.Machine.execCctlInval f s
  | .cctlDiscard f => Sys2Proof.Machine.execCctlDiscard f s
  | .pref f => Sys2Proof.Machine.execPref f s
  | .cpy f fx => Sys2Proof.Machine.execCpy f fx s
  | .cpyg f fx => Sys2Proof.Machine.execCpyg f fx s
  | .cpys f fx => Sys2Proof.Machine.execCpys f fx s
  | .cpyf f => Sys2Proof.Machine.execCpyf f s
  | .cpyq f => Sys2Proof.Machine.execCpyq f s
  | .xcpy f fx => Sys2Proof.Machine.execXcpy f fx s
  | .bini f => Sys2Proof.Machine.execBini f s
  | .barv f => Sys2Proof.Machine.execBarv f s
  | .barx f => Sys2Proof.Machine.execBarx f s
  | .bwait f => Sys2Proof.Machine.execBwait f s
  | .btry f => Sys2Proof.Machine.execBtry f s
  | .hbcfg f => Sys2Proof.Machine.execHbcfg f s
  | .hbar f => Sys2Proof.Machine.execHbar f s
  | .hbara f => Sys2Proof.Machine.execHbara f s
  | .hbarw f => Sys2Proof.Machine.execHbarw f s
  | .qini f => Sys2Proof.Machine.execQini f s
  | .qpush f => Sys2Proof.Machine.execQpush f s
  | .qpop f => Sys2Proof.Machine.execQpop f s
  | .qtry f => Sys2Proof.Machine.execQtry f s
  | .cset f => Sys2Proof.Machine.execCset f s
  | .sign f => Sys2Proof.Machine.execSign f s
  | .dqpush f => Sys2Proof.Machine.execDqpush f s
  | .dqpop f => Sys2Proof.Machine.execDqpop f s
  | .dqstl f => Sys2Proof.Machine.execDqstl f s
  | .tcfg f => Sys2Proof.Machine.execTcfg f s
  | .tld f fx => Sys2Proof.Machine.execTld f fx s
  | .tldq f fx => Sys2Proof.Machine.execTldq f fx s
  | .tzr f => Sys2Proof.Machine.execTzr f s
  | .tmov f => Sys2Proof.Machine.execTmov f s
  | .mma f fx => Sys2Proof.Machine.execMma f fx s
  | .mmas f fx => Sys2Proof.Machine.execMmas f fx s
  | .azr f => Sys2Proof.Machine.execAzr f s
  | .azrRelease f => Sys2Proof.Machine.execAzrRelease f s
  | .ald f fx => Sys2Proof.Machine.execAld f fx s
  | .adrn f fx => Sys2Proof.Machine.execAdrn f fx s
  | .amov f fx => Sys2Proof.Machine.execAmov f fx s
  | .mxsc f => Sys2Proof.Machine.execMxsc f s
  | .tstat f => Sys2Proof.Machine.execTstat f s
  | .csrr f => Sys2Proof.Machine.execCsrr f s
  | .csrw f => Sys2Proof.Machine.execCsrw f s
  | .sigacc f => Sys2Proof.Machine.execSigacc f s
  | .heart f => Sys2Proof.Machine.execHeart f s
  | .clkr f => Sys2Proof.Machine.execClkr f s
  | .regq f => Sys2Proof.Machine.execRegq f s
  | .launch f => Sys2Proof.Machine.execLaunch f s
  | .tretResume f => Sys2Proof.Machine.execTretResume f s
  | .tretSkip f => Sys2Proof.Machine.execTretSkip f s
  | .pcls f => Sys2Proof.Machine.execPcls f s
  | .errr f => Sys2Proof.Machine.execErrr f s
  | .sleep f => Sys2Proof.Machine.execSleep f s
  | .flagsGet f => Sys2Proof.Machine.execFlagsGet f s
  | .flagsClr f => Sys2Proof.Machine.execFlagsClr f s
  | .flagsSet f => Sys2Proof.Machine.execFlagsSet f s
  | .kill f => Sys2Proof.Machine.execKill f s
  | .unassignedOpcode h op low => Sys2Proof.Machine.execUnassignedOpcode h op low s
  | .blockFetch => Sys2Proof.Machine.execBlockFetch s
  | .loadDataReturn gk tok => Sys2Proof.Machine.execLoadDataReturn gk tok s
  | .writeAck gk tok => Sys2Proof.Machine.execWriteAck gk tok s
  | .scratchRequestServe gk => Sys2Proof.Machine.execScratchRequestServe gk s
  | .waitTimeout gk => Sys2Proof.Machine.execWaitTimeout gk s
  | .sleepExpiry gk => Sys2Proof.Machine.execSleepExpiry gk s
  | .epochSweepEnd core scope => Sys2Proof.Machine.execEpochSweepEnd core scope s
  | .moverDescriptorStart core => Sys2Proof.Machine.execMoverDescriptorStart core s
  | .moverWrite core id => Sys2Proof.Machine.execMoverWrite core id s
  | .moverComplete core id => Sys2Proof.Machine.execMoverComplete core id s
  | .copyEngineStart e => Sys2Proof.Machine.execCopyEngineStart e s
  | .copyEngineComplete e => Sys2Proof.Machine.execCopyEngineComplete e s
  | .engineOpBegin q id => Sys2Proof.Machine.execEngineOpBegin q id s
  | .engineOpComplete q id => Sys2Proof.Machine.execEngineOpComplete q id s
  | .passGrant q => Sys2Proof.Machine.execPassGrant q s
  | .passComplete q id p => Sys2Proof.Machine.execPassComplete q id p s
  | .amaxMerge q id => Sys2Proof.Machine.execAmaxMerge q id s
  | .colourFlip gang k => Sys2Proof.Machine.execColourFlip gang k s
  | .homeRd line => Sys2Proof.Machine.execHomeRd line s
  | .homeWr line => Sys2Proof.Machine.execHomeWr line s
  | .homeAt line => Sys2Proof.Machine.execHomeAt line s
  | .homeReg line => Sys2Proof.Machine.execHomeReg line s
  | .homeFlush line => Sys2Proof.Machine.execHomeFlush line s
  | .homeMpart line => Sys2Proof.Machine.execHomeMpart line s
  | .homeLost line cl => Sys2Proof.Machine.execHomeLost line cl s
  | .homeBase line => Sys2Proof.Machine.execHomeBase line s
  | .homeMoveComplete line => Sys2Proof.Machine.execHomeMoveComplete line s
  | .mergeUnitReg cl line => Sys2Proof.Machine.execMergeUnitReg cl line s
  | .mergeUnitFlush cl line => Sys2Proof.Machine.execMergeUnitFlush cl line s
  | .mergeUnitMreq cl line => Sys2Proof.Machine.execMergeUnitMreq cl line s
  | .mergeUnitRack cl line => Sys2Proof.Machine.execMergeUnitRack cl line s
  | .coreRack core line => Sys2Proof.Machine.execCoreRack core line s
  | .coreMreq core line => Sys2Proof.Machine.execCoreMreq core line s
  | .recordFetch r => Sys2Proof.Machine.execRecordFetch r s
  | .teamPlace => Sys2Proof.Machine.execTeamPlace s
  | .teamEnd tk => Sys2Proof.Machine.execTeamEnd tk s
  | .launchComplete kid => Sys2Proof.Machine.execLaunchComplete kid s
  | .coreHalted gang => Sys2Proof.Machine.execCoreHalted gang s
  | .contextSave tk => Sys2Proof.Machine.execContextSave tk s
  | .contextRestore gang bad => Sys2Proof.Machine.execContextRestore gang bad s
  | .slotTableApply core => Sys2Proof.Machine.execSlotTableApply core s
  | .wallClockExpiry kid => Sys2Proof.Machine.execWallClockExpiry kid s
  | .heartbeatExpiry tk => Sys2Proof.Machine.execHeartbeatExpiry tk s
  | .scoreboardMismatch gk => Sys2Proof.Machine.execScoreboardMismatch gk s
  | .replayPlace => Sys2Proof.Machine.execReplayPlace s
  | .authRunPlace => Sys2Proof.Machine.execAuthRunPlace s
  | .runEnd tk => Sys2Proof.Machine.execRunEnd tk s
  | .versionCommit line => Sys2Proof.Machine.execVersionCommit line s
  | .apronForced slice => Sys2Proof.Machine.execApronForced slice s
  | .releaseAfterExpiry line entry => Sys2Proof.Machine.execReleaseAfterExpiry line entry s
  | .demeritDecay => Sys2Proof.Machine.execDemeritDecay s
  | .tlbinvDone t => Sys2Proof.Machine.execTlbinvDone t s
  | .migrationFenceDone t => Sys2Proof.Machine.execMigrationFenceDone t s
  | .powerUp => Sys2Proof.Machine.execPowerUp s
  | .bringUpPhaseEnd failure => Sys2Proof.Machine.execBringUpPhaseEnd failure s
  | .ringDoorbell fn r val => Sys2Proof.Machine.execRingDoorbell fn r val s
  | .lqctlWrite fn r val => Sys2Proof.Machine.execLqctlWrite fn r val s
  | .lcmdPreempt fn kid => Sys2Proof.Machine.execLcmdPreempt fn kid s
  | .lcmdResume fn kid => Sys2Proof.Machine.execLcmdResume fn kid s
  | .lcmdKill fn kid => Sys2Proof.Machine.execLcmdKill fn kid s
  | .slotTableWrite fn core off val => Sys2Proof.Machine.execSlotTableWrite fn core off val s
  | .chkctlWrite fn val => Sys2Proof.Machine.execChkctlWrite fn val s
  | .hostDebugResume fn gk => Sys2Proof.Machine.execHostDebugResume fn gk s
  | .tcmdRetry fn t kid => Sys2Proof.Machine.execTcmdRetry fn t kid s
  | .tcmdDeny fn t kid => Sys2Proof.Machine.execTcmdDeny fn t kid s
  | .tcmdResume fn t kid => Sys2Proof.Machine.execTcmdResume fn t kid s
  | .tcmdSkip fn t kid => Sys2Proof.Machine.execTcmdSkip fn t kid s
  | .tcmdEnd fn t kid => Sys2Proof.Machine.execTcmdEnd fn t kid s
  | .tlbinv fn t val => Sys2Proof.Machine.execTlbinv fn t val s
  | .tlbWalk core t va => Sys2Proof.Machine.execTlbWalk core t va s
  | .migrationFence fn t val => Sys2Proof.Machine.execMigrationFence fn t val s
  | .erenWrite fn t val => Sys2Proof.Machine.execErenWrite fn t val s
  | .registerWrite fn off val => Sys2Proof.Machine.execRegisterWrite fn off val s
  | .patrolScrub pa => Sys2Proof.Machine.execPatrolScrub pa s
  | .deviceFatalError unit die => Sys2Proof.Machine.execDeviceFatalError unit die s
  | .containmentReset cl => Sys2Proof.Machine.execContainmentReset cl s
  | .clusterUnfence cl => Sys2Proof.Machine.execClusterUnfence cl s
  | .flitReceive port f => Sys2Proof.Machine.execFlitReceive port f s
  | .receipt leaf dst vc n => Sys2Proof.Machine.execReceipt leaf dst vc n s
  | .audit port vc => Sys2Proof.Machine.execAudit port vc s
  | .auditReceive port => Sys2Proof.Machine.execAuditReceive port s
  | .creditParityFail port vc => Sys2Proof.Machine.execCreditParityFail port vc s
  | .auditRequest port => Sys2Proof.Machine.execAuditRequest port s
  | .portDown port => Sys2Proof.Machine.execPortDown port s
  | .bundleReroute a b => Sys2Proof.Machine.execBundleReroute a b s
  | .linkTrained link peer => Sys2Proof.Machine.execLinkTrained link peer s
  | .linkRetrainFail link => Sys2Proof.Machine.execLinkRetrainFail link s
  | .peerPacketReceive link p => Sys2Proof.Machine.execPeerPacketReceive link p s
  | .fabcmdSave fn => Sys2Proof.Machine.execFabcmdSave fn s
  | .fabcmdRestore fn => Sys2Proof.Machine.execFabcmdRestore fn s
  | .fabcmdClear fn => Sys2Proof.Machine.execFabcmdClear fn s
  | .bar2Access off n wr => Sys2Proof.Machine.execBar2Access off n wr s
  | .vfFlr fn => Sys2Proof.Machine.execVfFlr fn s
  | .pfFlr => Sys2Proof.Machine.execPfFlr s
  | .devctlReset fn val => Sys2Proof.Machine.execDevctlReset fn val s
  | .pwrctlWrite fn val => Sys2Proof.Machine.execPwrctlWrite fn val s
  | .clockStepChange die n => Sys2Proof.Machine.execClockStepChange die n s
  | .thermalTrip temp => Sys2Proof.Machine.execThermalTrip temp s
  | .powerFault => Sys2Proof.Machine.execPowerFault s
  | .configUpdate r sig => Sys2Proof.Machine.execConfigUpdate r sig s
  | .keySet t payload => Sys2Proof.Machine.execKeySet t payload s
  | .boundEvidence fn payload => Sys2Proof.Machine.execBoundEvidence fn payload s
  | .healthRecordRequest nonce => Sys2Proof.Machine.execHealthRecordRequest nonce s
  | .getVersion fn req => Sys2Proof.Machine.execGetVersion fn req s
  | .getCapabilities fn req => Sys2Proof.Machine.execGetCapabilities fn req s
  | .negotiateAlgorithms fn req => Sys2Proof.Machine.execNegotiateAlgorithms fn req s
  | .getDigests fn req => Sys2Proof.Machine.execGetDigests fn req s
  | .getCertificate fn req => Sys2Proof.Machine.execGetCertificate fn req s
  | .challenge fn req => Sys2Proof.Machine.execChallenge fn req s
  | .getMeasurements fn req => Sys2Proof.Machine.execGetMeasurements fn req s
  | .keyExchange fn req => Sys2Proof.Machine.execKeyExchange fn req s
  | .finish fn req => Sys2Proof.Machine.execFinish fn req s
  | .firmwareLoad image version sig => Sys2Proof.Machine.execFirmwareLoad image version sig s
  | .powerLoss => Sys2Proof.Machine.execPowerLoss s
  | .matrixDutyThrottle q on => Sys2Proof.Machine.execMatrixDutyThrottle q on s
  | .managementCoreCopy e src dst len => Sys2Proof.Machine.execManagementCoreCopy e src dst len s
  | .ideKeyManagement stream key => Sys2Proof.Machine.execIdeKeyManagement stream key s

end Sys2Proof.Machine
end

