-- ==== Sys2Proof/Machine/Fields.lean ====
section
/-!
DEFINITION. Which field values an instruction word may hold (03 R106 to R121 and the entry tables of 04 to 11): everything that
ILLEGAL_FIELD asks of a word alone.  What depends on the group's state (allocations, index registers, the values of operands)
stands with the meanings.
-/
namespace Sys2Proof.Machine
open Sys2Proof

/-! ## Operand fields -/

/-- An operand code that no operand has (03 Table 3.5; 01 R33). -/
def opReserved : Opnd → Bool
  | .rsvA _ | .rsvB _ => true
  | .sp n => 0x11 < n.val
  | _ => false

/-- The register number of an operand is a multiple of its words (01 R27, 03 R109). -/
def opAligned (n : Nat) : Opnd → Bool
  | .v r => r.val % n = 0
  | .s r => r.val % n = 0
  | _ => true

/-- A source of n words with its permutation (03 R115, R118; 01 R50). -/
def srcOk (n : Nat) (o : Opnd) (pm : Perm) : Bool :=
  !opReserved o && opAligned n o && (pm.val = 0 || (pm.val ≠ 15 && (match o with | .v _ => true | _ => false)))

/-- A destination of n words (03 Table 3.5). -/
def dstOk (n : Nat) (o : Opnd) : Bool :=
  opAligned n o && (match o with | .v _ | .s _ | .x _ | .z => true | _ => false)

/-- An operand that the instruction does not use (03 R112). -/
def opUnused (o : Opnd) (pm : Perm) : Bool := o = .z && pm.val = 0

/-- A predicate field (03 R113). -/
def predOk : Opnd → Bool
  | .v n => n.val < 8
  | _ => false

/-- A field that names a loop or index register by its low two bits (04 Table 4.2, 05 R170). -/
def quadNumOk : Opnd → Bool
  | .v n => n.val < 4
  | _ => false

/-- An integer constant of a range (09 R251, 10 R285, 11 Table 11.1). -/
def constOk (lo hi : Nat) : Opnd → Bool
  | .int n => lo ≤ n.val && n.val ≤ hi
  | _ => false

/-- The base of a global address: a vector or uniform pair, or z (08 R219). -/
def baseOk (o : Opnd) (pm : Perm) : Bool :=
  srcOk 2 o pm && (match o with | .v _ | .s _ | .x _ | .z => true | _ => false)

def notIndexed : Opnd → Bool | .x _ => false | _ => true

/-! ## Control (04 Table 4.2) -/

def fiNone (f : FI) : Bool := opUnused f.d 0 && opUnused f.a f.pa
def modNone (f : F2) : Bool := f.ty = .s32 && f.rnd = .rne && !f.sat && f.sub.val = 0
def f2None (f : F2) : Bool := opUnused f.d 0 && opUnused f.a f.pa && opUnused f.b f.pb && modNone f

def okLoop (f : FI) (fx : DWord) : Bool :=
  quadNumOk f.d && srcOk 1 f.a 0 && f.pa.val = 0 && fx.toNat < 2 ^ 32 && fx ≠ 0
def okLoopw (f : FI) (fx : DWord) : Bool :=
  quadNumOk f.d && opUnused f.a f.pa && fx.toNat < 2 ^ 32 && fx ≠ 0
def okTrap (f : FI) : Bool := fiNone f && f.imm.toNat < 16
def okBkpt (f : FI) : Bool := fiNone f && f.imm.toNat < 2 ^ 16
def okWaitev (f : FI) : Bool := predOk f.d && opUnused f.a f.pa
def okBrx (f : F2) : Bool := opUnused f.d 0 && srcOk 2 f.a f.pa && opUnused f.b f.pb && modNone f
def okEndl (f : F2) : Bool :=
  quadNumOk f.d && (f.a = .z || predOk f.a) && f.pa.val = 0 && opUnused f.b f.pb && f.ty = .s32 && f.rnd = .rne && !f.sat
    && f.sub.val < 4 && (f.a ≠ .z || f.sub.val = 0)

/-! ## Integer (05) -/

/-- The type groups of 05 Table 5.1. -/
def tyBitsOk : Ty → Bool | .b32 | .n64 => true | _ => false
def tyWideOk : Ty → Bool | .s32 | .n32 | .s64 | .n64 => true | _ => false
def tySignedOk : Ty → Bool | .s32 | .s64 | .s16 | .s8 => true | _ => false

/-- Two sources and a destination of the type (05 R162). -/
def okInt2 (tyOk : Ty → Bool) (sat : Bool) (f : F2) : Bool :=
  tyOk f.ty && f.rnd = .rne && (sat || !f.sat) && f.sub.val = 0
    && dstOk (tyWords f.ty) f.d && srcOk (tyWords f.ty) f.a f.pa && srcOk (tyWords f.ty) f.b f.pb
/-- A shift, whose count is a single register (05 R163). -/
def okShift (f : F2) : Bool :=
  tyBitsOk f.ty && f.rnd = .rne && !f.sat && f.sub.val = 0
    && dstOk (tyWords f.ty) f.d && srcOk (tyWords f.ty) f.a f.pa && srcOk 1 f.b f.pb
/-- One source, and a destination of n words. -/
def okInt1 (tyOk : Ty → Bool) (sat : Bool) (n : Nat) (f : F2) : Bool :=
  tyOk f.ty && f.rnd = .rne && (sat || !f.sat) && f.sub.val = 0
    && dstOk n f.d && srcOk (tyWords f.ty) f.a f.pa && opUnused f.b f.pb

def ty32 : Ty → Bool | .s32 | .n32 => true | _ => false
def okBfx (f : F2) : Bool :=
  ty32 f.ty && f.rnd = .rne && !f.sat && f.sub.val = 0 && dstOk 1 f.d && srcOk 1 f.a f.pa && srcOk 1 f.b f.pb
def okLea (f : F2) : Bool :=
  ty32 f.ty && f.rnd = .rne && !f.sat && dstOk 2 f.d && srcOk 2 f.a f.pa && srcOk 1 f.b f.pb
def okIcmp (f : F2) : Bool :=
  tyIsInt f.ty && f.rnd = .rne && !f.sat && f.sub.val < 6
    && predOk f.d && srcOk (tyWords f.ty) f.a f.pa && srcOk (tyWords f.ty) f.b f.pb
def okSel (f : F2) : Bool :=
  tyBitsOk f.ty && f.rnd = .rne && !f.sat
    && dstOk (tyWords f.ty) f.d && srcOk (tyWords f.ty) f.a f.pa && srcOk (tyWords f.ty) f.b f.pb
def okMov (f : F2) : Bool := okInt1 tyBitsOk false (tyWords f.ty) f
def okMovToIndex (f : F2) : Bool :=
  f.ty = .b32 && f.rnd = .rne && !f.sat && f.sub.val = 1 && quadNumOk f.d && srcOk 1 f.a f.pa && opUnused f.b f.pb
def okMovFromIndex (f : F2) : Bool :=
  f.ty = .b32 && f.rnd = .rne && !f.sat && f.sub.val = 2 && dstOk 1 f.d && quadNumOk f.a && f.pa.val = 0 && opUnused f.b f.pb
def okCvti (f : F2) : Bool :=
  tyIsInt f.ty && f.rnd = .rne
    && dstOk (tyWords f.ty) f.d && srcOk (tyWords (tyOfCode f.sub.val)) f.a f.pa && opUnused f.b f.pb

/-- Three sources: words of D, A and B, C (05 Table 5.5, 06 R183, Tables 6.6 and 6.9). -/
def okF3 (nd nab nc : Nat) (f : F3) : Bool :=
  dstOk nd f.d && srcOk nab f.a f.pa && srcOk nab f.b f.pb && srcOk nc f.c 0
def okLop3 (f : F3) (fx : DWord) : Bool := okF3 1 1 1 f && fx.toNat < 256
def okMovi (f : FI) : Bool := dstOk 1 f.d && opUnused f.a f.pa
def okMovh (f : FI) : Bool := dstOk 1 f.d && srcOk 1 f.a 0 && f.pa.val = 0 && f.imm.toNat < 2 ^ 16

/-! ## Predicates (05 Table 5.6) -/

def predM (f : F2) : Bool := f.ty = .s32 && f.rnd = .rne && !f.sat && f.pb.val = 0
def okPlop (f : F2) : Bool := predM f && f.pa.val = 0 && predOk f.d && predOk f.a && predOk f.b
def okPmovSave (f : F2) : Bool := predM f && f.sub.val = 0 && dstOk 1 f.d && opUnused f.a f.pa && f.b = .z
def okPmovLoad (f : F2) : Bool := predM f && f.sub.val = 1 && f.d = .z && srcOk 1 f.a f.pa && f.pa = 0 && f.b = .z
def okPmovNz (f : F2) : Bool := predM f && f.sub.val = 2 && predOk f.d && srcOk 1 f.a f.pa && f.pa = 0 && f.b = .z
def okPcmp (f : F2) : Bool :=
  tyIsInt f.ty && f.rnd ≠ .rdn && !f.sat && f.sub.val < 6
    && predOk f.d && srcOk (tyWords f.ty) f.a f.pa && srcOk (tyWords f.ty) f.b f.pb && f.pa = 0 && f.pb = 0

/-! ## Floating point (06) -/

/-- Two sources, of a type, that round or do not (06 Tables 6.2 and 6.6). -/
def okFlt2 (t : Ty) (rounds : Bool) (f : F2) : Bool :=
  f.ty = t && (rounds || f.rnd = .rne) && !f.sat && f.sub.val = 0
    && dstOk (tyWords t) f.d && srcOk (tyWords t) f.a f.pa && srcOk (tyWords t) f.b f.pb
def okFlt1 (rounds : Bool) (f : F2) : Bool :=
  f.ty = .f32 && (rounds || f.rnd = .rne) && !f.sat && f.sub.val = 0 && dstOk 1 f.d && srcOk 1 f.a f.pa && opUnused f.b f.pb
def okFcmp (t : Ty) (f : F2) : Bool :=
  f.ty = t && f.rnd = .rne && !f.sat && predOk f.d && srcOk (tyWords t) f.a f.pa && srcOk (tyWords t) f.b f.pb
def okFclass (f : F2) : Bool :=
  (f.ty = .f32 || f.ty = .f64) && f.rnd = .rne && !f.sat && f.sub.val = 0
    && dstOk 1 f.d && srcOk (tyWords f.ty) f.a f.pa && opUnused f.b f.pb
def okFcvt (f : F2) : Bool :=
  (match f.ty with
    | .f32 | .bf16 | .f16 | .e4m3 | .e5m2 => f.sub.val < 7
    | .s32 | .n32 | .s16 | .n16 | .s8 | .n8 => f.sub.val < 5
    | _ => false)
    && dstOk 1 f.d && srcOk 1 f.a f.pa && opUnused f.b f.pb
/-- The source types of DCVT (06 R189). -/
def dcvtFrom : Nat → Ty
  | 0 => .f64 | 1 => .f32 | 2 => .s32 | 3 => .n32 | 4 => .s64 | _ => .n64
def okDcvt (f : F2) : Bool :=
  (match f.ty with
    | .f64 => f.sub.val < 6
    | .f32 | .s32 | .n32 | .s64 | .n64 => f.sub.val = 0
    | _ => false)
    && dstOk (tyWords f.ty) f.d && srcOk (tyWords (dcvtFrom f.sub.val)) f.a f.pa && opUnused f.b f.pb
def okPacked (rounds : Bool) (f : F2) : Bool := okFlt2 .bf16 rounds f || okFlt2 .f16 rounds f
def okFdivs (f : F2) : Bool :=
  f.ty = .f32 && !f.sat && f.sub.val = 0 && dstOk 1 f.d && srcOk 2 f.a f.pa && srcOk 1 f.b f.pb
/-- CADD and CMUL (06 Table 6.9). -/
def okCplx2 (f : F2) : Bool :=
  f.ty = .f32 && !f.sat && f.sub.val = 0 && dstOk 2 f.d && srcOk 2 f.a f.pa && srcOk 2 f.b f.pb
def okCcnj (f : F2) : Bool :=
  f.ty = .f32 && f.rnd = .rne && !f.sat && f.sub.val = 0 && dstOk 2 f.d && srcOk 2 f.a f.pa && opUnused f.b f.pb

/-! ## Cross-thread (07 Table 7.1) -/

def crossM (f : F2) : Bool := !f.sat && f.pa.val = 0 && f.pb.val = 0 && notIndexed f.d && notIndexed f.a && notIndexed f.b
def okPick (f : F2) : Bool :=
  crossM f && tyBitsOk f.ty && f.rnd = .rne && f.sub.val = 0
    && dstOk (tyWords f.ty) f.d && srcOk (tyWords f.ty) f.a 0 && srcOk 1 f.b 0
def okPickFirst (f : F2) : Bool :=
  crossM f && tyBitsOk f.ty && f.rnd = .rne && f.sub.val = 1 && dstOk (tyWords f.ty) f.d && srcOk (tyWords f.ty) f.a 0 && f.b = .z
def okVote (f : F2) : Bool :=
  crossM f && f.ty = .s32 && f.rnd = .rne && (if f.sub.val < 4 then dstOk 1 f.d else predOk f.d) && predOk f.a && f.b = .z
def okBallot (f : F2) : Bool :=
  crossM f && f.ty = .s32 && f.rnd = .rne && f.sub.val = 0 && dstOk 1 f.d && predOk f.a && f.b = .z
def okMatch (f : F2) : Bool :=
  crossM f && tyBitsOk f.ty && f.rnd = .rne && f.sub.val = 0 && dstOk 1 f.d && srcOk (tyWords f.ty) f.a 0 && f.b = .z
def okShfl (f : F2) : Bool :=
  crossM f && tyBitsOk f.ty && f.rnd = .rne && f.sub.val < 4
    && dstOk (tyWords f.ty) f.d && srcOk (tyWords f.ty) f.a 0 && srcOk 1 f.b 0
/-- The operators of 07 Table 7.2. -/
def okFoldOp (f : F2) : Bool :=
  match f.sub.val with
  | 0 => (tyIsInt f.ty && f.rnd = .rne) || f.ty = .f32
  | 1 | 2 => (tyIsInt f.ty || f.ty = .f32) && f.rnd = .rne
  | 3 | 4 | 5 => tyBitsOk f.ty && f.rnd = .rne
  | _ => false
def okFold (f : F2) : Bool :=
  crossM f && okFoldOp f && dstOk (tyWords f.ty) f.d && srcOk (tyWords f.ty) f.a 0 && f.b = .z

/-! ## Memory (08 Table 8.1) -/

/-- XF 0 or 1 (03 Table 3.4). -/
def extPlain : MemExt → Bool
  | .none => true
  | .off fx => fx.toNat < 2 ^ 32
  | _ => false
/-- XF 2. -/
def extAext : MemExt → Bool
  | .aext fx => fx.toNat < 2 ^ 52
  | _ => false
def cpolOk : Cpol → Bool | .rsv5 | .rsv6 | .rsv7 => false | _ => true
def scopeLe5 : Scope → Bool | .rsv6 | .rsv7 => false | _ => true
def scopeLe3 : Scope → Bool | .thread | .group | .team | .gang => true | _ => false
/-- Words of a width (03 R109). -/
def widthWords (w : Fin 8) : Nat := if w.val ≤ 2 then 1 else if w.val = 3 then 2 else 4

def memPlain (f : FM) : Bool := f.b = .z && extPlain f.ext
def noOrder (f : FM) : Bool := f.scope = .thread && f.ord = .relaxed
/-- Global loads and stores; `load` tells which way D goes. -/
def okGlobal (load : Bool) (f : FM) : Bool :=
  memPlain f && noOrder f && cpolOk f.cpol && f.width.val ≤ 4
    && (if load then dstOk (widthWords f.width) f.d else srcOk (widthWords f.width) f.d 0) && baseOk f.a f.pa
/-- Scratch, pocket and constant accesses. -/
def okLocal (load : Bool) (lo hi : Nat) (f : FM) : Bool :=
  memPlain f && noOrder f && f.cpol = .dflt && lo ≤ f.width.val && f.width.val ≤ hi
    && (if load then dstOk (widthWords f.width) f.d else srcOk (widthWords f.width) f.d 0) && srcOk 1 f.a f.pa
/-- LDGA and STGR. -/
def okOrdered (load : Bool) (f : FM) : Bool :=
  memPlain f && scopeLe5 f.scope && f.scope ≠ .thread && f.ord = (if load then .acquire else .release) && cpolOk f.cpol
    && f.width.val ≤ 4
    && (if load then dstOk (widthWords f.width) f.d else srcOk (widthWords f.width) f.d 0) && baseOk f.a f.pa

/-- The pairs of 08 Table 8.5. -/
def atomPair (scr : Bool) (aop : Nat) (t : Ty) : Bool :=
  match aop with
  | 0 => tyWideOk t || t = .f32 || (!scr && (t = .f64 || t = .bf16 || t = .f16))
  | 1 | 2 => tyWideOk t
  | 3 | 4 | 5 => tyBitsOk t
  | _ => false
/-- The tags of 08 Table 8.6. -/
def redPair (aop : Nat) (t : Ty) : Bool :=
  match aop with
  | 0 | 1 | 2 => tyWideOk t
  | 3 | 4 | 5 => tyBitsOk t
  | 6 => t = .f32 || t = .bf16
  | _ => false
def extTy (e : MemExt) : Ty := tyOfCode (extAty e)
def atomWords (f : FM) : Nat := tyWords (extTy f.ext)
def atomAddr (scr : Bool) (f : FM) : Bool := if scr then srcOk 1 f.a f.pa else baseOk f.a f.pa
def atomOrder (scr : Bool) (f : FM) : Bool :=
  if scr then scopeLe3 f.scope && f.cpol = .dflt else scopeLe5 f.scope && cpolOk f.cpol
def okAtom (scr : Bool) (f : FM) : Bool :=
  extAext f.ext && f.width.val = 0 && atomOrder scr f && atomPair scr (extAop f.ext) (extTy f.ext)
    && dstOk (atomWords f) f.d && atomAddr scr f && srcOk (atomWords f) f.b 0 && extC f.ext = .z
def okCas (scr : Bool) (f : FM) : Bool :=
  extAext f.ext && f.width.val = 0 && atomOrder scr f && extAop f.ext = 0 && tyBitsOk (extTy f.ext)
    && dstOk (atomWords f) f.d && atomAddr scr f && srcOk (atomWords f) f.b 0 && srcOk (atomWords f) (extC f.ext) 0
def okXchg (f : FM) : Bool :=
  extPlain f.ext && (f.width.val = 2 || f.width.val = 3) && scopeLe5 f.scope && cpolOk f.cpol
    && dstOk (widthWords f.width) f.d && baseOk f.a f.pa && srcOk (widthWords f.width) f.b 0
def okRed (f : FM) : Bool :=
  extAext f.ext && f.width.val = 0 && scopeLe5 f.scope && (f.ord = .relaxed || f.ord = .release) && f.cpol = .dflt
    && redPair (extAop f.ext) (extTy f.ext) && f.d = .z && baseOk f.a f.pa && srcOk (atomWords f) f.b 0 && extC f.ext = .z
def okFence (f : FM) : Bool :=
  f.d = .z && opUnused f.a f.pa && f.b = .z && f.ext = .none && f.width.val ≤ 1 && scopeLe5 f.scope && f.ord ≠ .relaxed
    && f.cpol = .dflt
def okCctl (w : Nat) (f : FM) : Bool :=
  f.d = .z && baseOk f.a f.pa && srcOk 1 f.b 0 && extPlain f.ext && f.width.val = w && noOrder f
    && (if w = 0 then cpolOk f.cpol else f.cpol = .dflt)
def okPref (f : FM) : Bool :=
  f.d = .z && baseOk f.a f.pa && f.b = .z && extPlain f.ext && f.width.val = 0 && noOrder f && cpolOk f.cpol

/-! ## Mover, barriers, queues and deques (09 Table 9.1) -/

def permNone (f : F3) : Bool := f.pa.val = 0 && f.pb.val = 0
def okCpy (f : F3) (fx : DWord) : Bool :=
  permNone f && dstOk 1 f.d && f.b = .z && f.c = .z
    && (if fx = 0 then (match f.a with | .s n => n.val % 16 = 0 | _ => false) else fx = 1 && srcOk 1 f.a 0)
def okCpyf (f : F3) : Bool := permNone f && f.d = .z && f.a = .z && srcOk 1 f.b 0 && f.c = .z
def okCpyq (f : F3) : Bool := permNone f && dstOk 1 f.d && f.a = .z && constOk 0 3 f.b && f.c = .z
def okXcpy (f : F3) (fx : DWord) : Bool :=
  permNone f && f.d = .z && srcOk 2 f.a 0 && f.b = .z && f.c = .z && (fx.toNat < 32 || fx = 63)
def okBini (f : F3) : Bool := permNone f && f.d = .z && srcOk 1 f.a 0 && srcOk 1 f.b 0 && f.c = .z
def okBarv (f : F3) : Bool := permNone f && dstOk 1 f.d && srcOk 1 f.a 0 && srcOk 1 f.b 0 && constOk 0 2 f.c
def okBarx (f : F3) : Bool := permNone f && dstOk 1 f.d && srcOk 1 f.a 0 && srcOk 1 f.b 0 && f.c = .z
def okBwait (f : F3) : Bool := permNone f && predOk f.d && srcOk 1 f.a 0 && srcOk 1 f.b 0 && srcOk 1 f.c 0
def okBtry (f : F3) : Bool := permNone f && predOk f.d && srcOk 1 f.a 0 && srcOk 1 f.b 0 && f.c = .z
def okHbcfg (f : F3) : Bool := permNone f && f.d = .z && constOk 0 7 f.a && srcOk 1 f.b 0 && f.c = .z
def okHbar (f : F3) : Bool := permNone f && predOk f.d && constOk 0 7 f.a && f.b = .z && srcOk 1 f.c 0
def okHbara (f : F3) : Bool := permNone f && dstOk 1 f.d && constOk 0 7 f.a && f.b = .z && f.c = .z
def okHbarw (f : F3) : Bool := permNone f && predOk f.d && constOk 0 7 f.a && srcOk 1 f.b 0 && srcOk 1 f.c 0
def okQini (f : F3) : Bool := permNone f && f.d = .z && constOk 0 15 f.a && srcOk 1 f.b 0 && srcOk 1 f.c 0
def okQpush (f : F3) : Bool := permNone f && predOk f.d && constOk 0 15 f.a && srcOk 1 f.b 0 && srcOk 1 f.c 0
def okQpop (f : F3) : Bool := permNone f && dstOk 1 f.d && constOk 0 15 f.a && predOk f.b && srcOk 1 f.c 0
def okQtry (f : F3) : Bool := permNone f && dstOk 1 f.d && constOk 0 15 f.a && f.b = .z && f.c = .z
def okCset (f : F3) : Bool := permNone f && f.d = .z && constOk 0 15 f.a && srcOk 1 f.b 0 && f.c = .z
def okSign (f : F3) : Bool := permNone f && f.d = .z && constOk 0 15 f.a && f.b = .z && f.c = .z
def okDqpush (f : F3) : Bool := permNone f && predOk f.d && f.a = .z && srcOk 2 f.b 0 && f.c = .z
def okDqpop (f : F3) : Bool := permNone f && dstOk 2 f.d && f.a = .z && predOk f.b && srcOk 1 f.c 0
def okDqstl (f : F3) : Bool := permNone f && dstOk 2 f.d && srcOk 1 f.a 0 && predOk f.b && f.c = .z

/-! ## Matrix (10 Table 10.2) -/

def tileOk (o : Opnd) : Bool := constOk 0 15 o
/-- The tags of 10 Table 10.1 but none. -/
def tagOk (n : Nat) : Bool := n = 6 || n = 8 || (10 ≤ n && n ≤ 14)
/-- NSZ of a region field is not reserved (10 Table 10.3). -/
def regionOk (reg : Nat) : Bool := Word.bits reg 7 6 ≠ 3
def okTcfg (f : F3) : Bool := permNone f && tileOk f.d && srcOk 1 f.a 0 && srcOk 1 f.b 0 && f.c = .z
def okTld (f : F3) (fx : DWord) : Bool :=
  permNone f && tileOk f.d && srcOk 1 f.a 0 && srcOk 1 f.b 0 && fx.toNat < 32 && tagOk (fx.toNat % 16)
    && (if fx.toNat % 16 = 14 then fx.toNat < 16 && f.c ≠ .z && srcOk 1 f.c 0 else f.c = .z)
def okTldq (f : F3) (fx : DWord) : Bool :=
  permNone f && tileOk f.d && srcOk 1 f.a 0 && srcOk 1 f.b 0 && srcOk 1 f.c 0 && fx.toNat < 2 ^ 16 && fx ≠ 0 && fx.toNat % 4 = 0
def okTzr (f : F3) : Bool :=
  permNone f && tileOk f.d && f.a = .z && (match f.b with | .int n => tagOk n.val | _ => false) && f.c = .z
def okTmov (f : F3) : Bool := permNone f && tileOk f.d && tileOk f.a && f.b = .z && f.c = .z
/-- Tile A in D, tile B in A, cN or z in B, and the region; N = 256 asks for an even tile B (10 R286). -/
def okMmaShape (f : F3) (fx : DWord) : Bool :=
  permNone f && tileOk f.d && tileOk f.a && (f.b = .z || tileOk f.b) && fx.toNat < 256 && regionOk fx.toNat
    && (Word.bits fx.toNat 7 6 ≠ 2 || (match f.a with | .int n => n.val % 2 = 0 | _ => false))
def okMma (f : F3) (fx : DWord) : Bool := okMmaShape f fx && f.c = .z
def okMmas (f : F3) (fx : DWord) : Bool := okMmaShape f fx && srcOk 1 f.c 0
def okAzr (f : F3) : Bool :=
  permNone f && f.d = .z && srcOk 1 f.a 0 && srcOk 1 f.b 0 && (constOk 0 0 f.c || constOk 8 8 f.c)
def okAzrRelease (f : F3) : Bool := permNone f && f.d = .z && srcOk 1 f.a 0 && srcOk 1 f.b 0 && constOk 15 15 f.c
def okAld (f : F3) (fx : DWord) : Bool :=
  permNone f && f.d = .z && srcOk 1 f.a 0 && srcOk 1 f.b 0 && f.c = .z && fx.toNat < 2 ^ 12 && regionOk (fx.toNat % 256)
    && (Word.bits fx.toNat 11 8 = 0 || Word.bits fx.toNat 11 8 = 8)
/-- The bytes of a drained row of n elements (10 R299). -/
def drainRowLen (fmt n : Nat) : Nat := match fmt with | 0 => 4 * n | 1 => 2 * n | 4 => n / 2 | _ => n
def okAdrn (f : F3) (fx : DWord) : Bool :=
  let x := fx.toNat
  let fmt := Word.bits x 10 8
  let pitch := Word.bits x 31 16
  permNone f && srcOk 1 f.d 0 && srcOk 1 f.a 0 && srcOk 1 f.b 0 && srcOk (if Word.bit x 12 then 2 else 1) f.c 0
    && x < 2 ^ 32 && Word.bits x 15 14 = 0 && regionOk (x % 256) && fmt ≤ 4
    && (!Word.bit x 11 || fmt = 2 || fmt = 3)
    && pitch ≠ 0 && pitch % 16 = 0 && drainRowLen fmt (64 * 2 ^ Word.bits x 7 6) ≤ pitch
def okAmov (f : F3) (fx : DWord) : Bool :=
  permNone f && f.d = .z && srcOk 1 f.a 0 && f.b = .z && f.c = .z && fx.toNat < 2 ^ 16 && regionOk (fx.toNat % 256)
    && regionOk (fx.toNat / 256)
def okMxsc (f : F3) : Bool := permNone f && tileOk f.d && f.a = .z && srcOk 1 f.b 0 && f.c = .z
def okTstat (f : F3) : Bool :=
  permNone f && dstOk 1 f.d && f.c = .z
    && ((constOk 0 1 f.a && f.b = .z) || (constOk 2 2 f.a && tileOk f.b))

/-! ## System (11 Table 11.1) -/

/-- The width of a CSR in words; none where the number is unassigned (11 Table 11.2). -/
def csrSize (n : Nat) : Option Nat :=
  if n = 0x010 || n = 0x011 || n = 0x021 || n = 0x022 || n = 0x0A0 then some 1
  else if n = 0x020 || n = 0x023 || (0x040 ≤ n && n ≤ 0x05F) then some 2
  else none
/-- The words that an access moves, where the CSR number and W64 agree (11 R308). -/
def csrAccess (imm : BitVec 24) : Option Nat :=
  if 2 ^ 13 ≤ imm.toNat then none
  else
    match csrSize (imm.toNat % 2 ^ 12) with
    | some n => if Word.bit imm.toNat 12 then (if n = 2 then some 2 else none) else some 1
    | none => none
def okCsrr (f : FI) : Bool :=
  match csrAccess f.imm with | some n => dstOk n f.d && opUnused f.a f.pa | none => false
def okCsrw (f : FI) : Bool :=
  match csrAccess f.imm with | some n => f.d = .z && srcOk n f.a 0 && f.pa.val = 0 | none => false
def okSigacc (f : F2) : Bool :=
  f.d = .z && tyBitsOk f.ty && f.rnd = .rne && !f.sat && f.sub.val = 0 && srcOk (tyWords f.ty) f.a f.pa && opUnused f.b f.pb
def sysM (f : F2) : Bool := f.ty = .s32 && f.rnd = .rne && !f.sat && f.pa.val = 0 && f.pb.val = 0
def okClkr (f : F2) : Bool := sysM f && f.sub.val < 3 && dstOk (if f.sub.val = 0 then 2 else 1) f.d && f.a = .z && f.b = .z
def okRegq (f : F2) : Bool :=
  f.d = .z && constOk 0 3 f.a && constOk 0 3 f.b && f.pa.val = 0 && f.pb.val = 0 && f.ty ≠ .s32 && f.rnd = .rne && !f.sat
    && f.sub.val = 0
def okLaunch (f : F2) : Bool := sysM f && f.sub.val = 0 && dstOk 1 f.d && srcOk 2 f.a 0 && f.b = .z
def okTret (sub : Nat) (f : F2) : Bool := sysM f && f.sub.val = sub && f.d = .z && f.a = .z && f.b = .z
def okPcls (f : F2) : Bool := sysM f && f.sub.val < 4 && f.d = .z && f.a = .z && f.b = .z
def okErrr (f : F2) : Bool := sysM f && f.sub.val = 0 && predOk f.d && srcOk 1 f.a 0 && f.b = .z
def okSleep (f : F2) : Bool := sysM f && f.sub.val = 0 && f.d = .z && f.a = .z && srcOk 1 f.b 0
def okFlags (sub : Nat) (f : F2) : Bool := sysM f && f.sub.val = sub && dstOk 1 f.d && f.a = .z && srcOk 1 f.b 0

/-- A word of an unassigned opcode (03 R122). -/
def okUnassigned (op : Fin 512) : Bool := !opAssigned op.val

end Sys2Proof.Machine
end

