-- ==== Sys2Proof/WellFormed.lean ====
section
/-!
DEFINITION. The well-formed instructions: those whose fields hold values that their entries list, so that no ILLEGAL_FIELD check
of the word alone refuses them (03 R112, R119, R123).  The steps of the device's own agents have no word; whether one can
happen is its meaning's enabling condition.
-/
namespace Sys2Proof
open Sys2Proof.Machine

/-- Whether an instruction's fields are legal (03 R123; the entry tables of 04 to 11). -/
def Instr.wellFormed : Instr → Bool
  | .bra f => fiNone f
  | .call f => fiNone f
  | .loop f fx => okLoop f fx
  | .loopw f fx => okLoopw f fx
  | .trap f => okTrap f
  | .bkpt f => okBkpt f
  | .waitev f => okWaitev f
  | .nop f => f2None f
  | .brx f => okBrx f
  | .callx f => okBrx f
  | .ret f => f2None f
  | .endl f => okEndl f
  | .exit f => f2None f
  | .yield f => f2None f
  | .iadd f => okInt2 tyIsInt true f
  | .isub f => okInt2 tyIsInt true f
  | .imul f => okInt2 tyIsInt true f
  | .imulh f => okInt2 tyWideOk false f
  | .imin f => okInt2 tyIsInt false f
  | .imax f => okInt2 tyIsInt false f
  | .iabs f => okInt1 tySignedOk true (tyWords f.ty) f
  | .andB f => okInt2 tyBitsOk false f
  | .orB f => okInt2 tyBitsOk false f
  | .xorB f => okInt2 tyBitsOk false f
  | .andn f => okInt2 tyBitsOk false f
  | .shl f => okShift f
  | .shr f => okShift f
  | .sar f => okShift f
  | .rol f => okShift f
  | .popc f => okInt1 tyBitsOk false 1 f
  | .clz f => okInt1 tyBitsOk false 1 f
  | .ctz f => okInt1 tyBitsOk false 1 f
  | .brev f => okInt1 tyBitsOk false (tyWords f.ty) f
  | .bfx f => okBfx f
  | .lea f => okLea f
  | .icmp f => okIcmp f
  | .sel f => okSel f
  | .mov f => okMov f
  | .movToIndex f => okMovToIndex f
  | .movFromIndex f => okMovFromIndex f
  | .pick f => okPick f
  | .pickFirst f => okPickFirst f
  | .cvti f => okCvti f
  | .imad f => okF3 1 1 1 f
  | .imadwS32 f => okF3 2 1 2 f
  | .imadwN32 f => okF3 2 1 2 f
  | .lop3 f fx => okLop3 f fx
  | .fshl f => okF3 1 1 1 f
  | .bfi f => okF3 1 1 1 f
  | .prmt f => okF3 1 1 1 f
  | .movi f => okMovi f
  | .movh f => okMovh f
  | .fadd f => okFlt2 .f32 true f
  | .fsub f => okFlt2 .f32 true f
  | .fmul f => okFlt2 .f32 true f
  | .fmin f => okFlt2 .f32 false f
  | .fmax f => okFlt2 .f32 false f
  | .fcmp f => okFcmp .f32 f
  | .fclass f => okFclass f
  | .fcvt f => okFcvt f
  | .frnd f => okFlt1 true f
  | .fscl f => okFlt2 .f32 true f
  | .frcp f => okFlt1 false f
  | .frsq f => okFlt1 false f
  | .fsqrt f => okFlt1 true f
  | .fdivs f => okFdivs f
  | .fex2 f => okFlt1 false f
  | .flg2 f => okFlt1 false f
  | .fsin f => okFlt1 false f
  | .fcos f => okFlt1 false f
  | .dadd f => okFlt2 .f64 true f
  | .dsub f => okFlt2 .f64 true f
  | .dmul f => okFlt2 .f64 true f
  | .dcmp f => okFcmp .f64 f
  | .dcvt f => okDcvt f
  | .hadd2 f => okPacked true f
  | .hmul2 f => okPacked true f
  | .hmax2 f => okPacked false f
  | .cadd f => okCplx2 f
  | .cmul f => okCplx2 f
  | .ccnj f => okCcnj f
  | .ffma _ f => okF3 1 1 1 f
  | .dfma _ f => okF3 2 2 2 f
  | .hfma2Bf16 _ f => okF3 1 1 1 f
  | .hfma2F16 _ f => okF3 1 1 1 f
  | .cfma _ f => okF3 2 2 2 f
  | .cbfly _ f => okF3 4 2 2 f
  | .fdot2Bf16 _ f => okF3 1 1 1 f
  | .fdot2F16 _ f => okF3 1 1 1 f
  | .plop f => okPlop f
  | .pmovSave f => okPmovSave f
  | .pmovLoad f => okPmovLoad f
  | .pmovNz f => okPmovNz f
  | .pcmp f => okPcmp f
  | .psel f => okPlop f
  | .vote f => okVote f
  | .ballot f => okBallot f
  | .matchT f => okMatch f
  | .shfl f => okShfl f
  | .scani f => okFold f
  | .scanx f => okFold f
  | .redg f => okFold f
  | .rank f => okBallot f
  | .ldg f => okGlobal true f
  | .stg f => okGlobal false f
  | .lds f => okLocal true 0 3 f
  | .sts f => okLocal false 0 3 f
  | .ldk f => okLocal true 0 4 f
  | .stk f => okLocal false 0 4 f
  | .ldc f => okLocal true 0 4 f
  | .ldga f => okOrdered true f
  | .stgr f => okOrdered false f
  | .ldsx f => okLocal true 4 4 f
  | .stsx f => okLocal false 4 4 f
  | .atomg f => okAtom false f
  | .atoms f => okAtom true f
  | .casg f => okCas false f
  | .cass f => okCas true f
  | .xchg f => okXchg f
  | .red f => okRed f
  | .fence f => okFence f
  | .cctlPref f => okCctl 0 f
  | .cctlClean f => okCctl 1 f
  | .cctlInval f => okCctl 2 f
  | .cctlDiscard f => okCctl 3 f
  | .pref f => okPref f
  | .cpy f fx => okCpy f fx
  | .cpyg f fx => okCpy f fx
  | .cpys f fx => okCpy f fx
  | .cpyf f => okCpyf f
  | .cpyq f => okCpyq f
  | .xcpy f fx => okXcpy f fx
  | .bini f => okBini f
  | .barv f => okBarv f
  | .barx f => okBarx f
  | .bwait f => okBwait f
  | .btry f => okBtry f
  | .hbcfg f => okHbcfg f
  | .hbar f => okHbar f
  | .hbara f => okHbara f
  | .hbarw f => okHbarw f
  | .qini f => okQini f
  | .qpush f => okQpush f
  | .qpop f => okQpop f
  | .qtry f => okQtry f
  | .cset f => okCset f
  | .sign f => okSign f
  | .dqpush f => okDqpush f
  | .dqpop f => okDqpop f
  | .dqstl f => okDqstl f
  | .tcfg f => okTcfg f
  | .tld f fx => okTld f fx
  | .tldq f fx => okTldq f fx
  | .tzr f => okTzr f
  | .tmov f => okTmov f
  | .mma f fx => okMma f fx
  | .mmas f fx => okMmas f fx
  | .azr f => okAzr f
  | .azrRelease f => okAzrRelease f
  | .ald f fx => okAld f fx
  | .adrn f fx => okAdrn f fx
  | .amov f fx => okAmov f fx
  | .mxsc f => okMxsc f
  | .tstat f => okTstat f
  | .csrr f => okCsrr f
  | .csrw f => okCsrw f
  | .sigacc f => okSigacc f
  | .heart f => f2None f
  | .clkr f => okClkr f
  | .regq f => okRegq f
  | .launch f => okLaunch f
  | .tretResume f => okTret 0 f
  | .tretSkip f => okTret 1 f
  | .pcls f => okPcls f
  | .errr f => okErrr f
  | .sleep f => okSleep f
  | .flagsGet f => okFlags 0 f
  | .flagsClr f => okFlags 1 f
  | .flagsSet f => okFlags 2 f
  | .kill f => f2None f
  | .unassignedOpcode _ op _ => okUnassigned op
  | .blockFetch => true
  | .loadDataReturn _ _ => true
  | .writeAck _ _ => true
  | .scratchRequestServe _ => true
  | .waitTimeout _ => true
  | .sleepExpiry _ => true
  | .epochSweepEnd _ _ => true
  | .moverDescriptorStart _ => true
  | .moverWrite _ _ => true
  | .moverComplete _ _ => true
  | .copyEngineStart _ => true
  | .copyEngineComplete _ => true
  | .engineOpBegin _ _ => true
  | .engineOpComplete _ _ => true
  | .passGrant _ => true
  | .passComplete _ _ _ => true
  | .amaxMerge _ _ => true
  | .colourFlip _ _ => true
  | .homeRd _ => true
  | .homeWr _ => true
  | .homeAt _ => true
  | .homeReg _ => true
  | .homeFlush _ => true
  | .homeMpart _ => true
  | .homeLost _ _ => true
  | .homeBase _ => true
  | .homeMoveComplete _ => true
  | .mergeUnitReg _ _ => true
  | .mergeUnitFlush _ _ => true
  | .mergeUnitMreq _ _ => true
  | .mergeUnitRack _ _ => true
  | .coreRack _ _ => true
  | .coreMreq _ _ => true
  | .recordFetch _ => true
  | .teamPlace => true
  | .teamEnd _ => true
  | .launchComplete _ => true
  | .coreHalted _ => true
  | .contextSave _ => true
  | .contextRestore _ _ => true
  | .slotTableApply _ => true
  | .wallClockExpiry _ => true
  | .heartbeatExpiry _ => true
  | .scoreboardMismatch _ => true
  | .replayPlace => true
  | .authRunPlace => true
  | .runEnd _ => true
  | .versionCommit _ => true
  | .apronForced _ => true
  | .releaseAfterExpiry _ _ => true
  | .demeritDecay => true
  | .tlbinvDone _ => true
  | .migrationFenceDone _ => true
  | .powerUp => true
  | .bringUpPhaseEnd _ => true
  | .ringDoorbell _ _ _ => true
  | .lqctlWrite _ _ _ => true
  | .lcmdPreempt _ _ => true
  | .lcmdResume _ _ => true
  | .lcmdKill _ _ => true
  | .slotTableWrite _ _ _ _ => true
  | .chkctlWrite _ _ => true
  | .hostDebugResume _ _ => true
  | .tcmdRetry _ _ _ => true
  | .tcmdDeny _ _ _ => true
  | .tcmdResume _ _ _ => true
  | .tcmdSkip _ _ _ => true
  | .tcmdEnd _ _ _ => true
  | .tlbinv _ _ _ => true
  | .tlbWalk _ _ _ => true
  | .migrationFence _ _ _ => true
  | .erenWrite _ _ _ => true
  | .registerWrite _ _ _ => true
  | .patrolScrub _ => true
  | .deviceFatalError _ _ => true
  | .containmentReset _ => true
  | .clusterUnfence _ => true
  | .flitReceive _ _ => true
  | .receipt _ _ _ _ => true
  | .audit _ _ => true
  | .auditReceive _ => true
  | .creditParityFail _ _ => true
  | .auditRequest _ => true
  | .portDown _ => true
  | .bundleReroute _ _ => true
  | .linkTrained _ _ => true
  | .linkRetrainFail _ => true
  | .peerPacketReceive _ _ => true
  | .fabcmdSave _ => true
  | .fabcmdRestore _ => true
  | .fabcmdClear _ => true
  | .bar2Access _ _ _ => true
  | .vfFlr _ => true
  | .pfFlr => true
  | .devctlReset _ _ => true
  | .pwrctlWrite _ _ => true
  | .clockStepChange _ _ => true
  | .thermalTrip _ => true
  | .powerFault => true
  | .configUpdate _ _ => true
  | .keySet _ _ => true
  | .boundEvidence _ _ => true
  | .healthRecordRequest _ => true
  | .getVersion _ _ => true
  | .getCapabilities _ _ => true
  | .negotiateAlgorithms _ _ => true
  | .getDigests _ _ => true
  | .getCertificate _ _ => true
  | .challenge _ _ => true
  | .getMeasurements _ _ => true
  | .keyExchange _ _ => true
  | .finish _ _ => true
  | .firmwareLoad _ _ _ => true
  | .powerLoss => true
  | .matrixDutyThrottle _ _ => true
  | .managementCoreCopy _ _ _ _ => true
  | .ideKeyManagement _ _ => true

end Sys2Proof
end

