-- ==== Sys2Proof/Decode.lean ====
section
/-!
DEFINITION. The decoder and the encoder of instruction words (03 R104 to R124).  A word and the word after it are read as an
instruction, or rejected by name: an operand, field or extension value that its entry does not list.  A word of an unassigned
opcode is the row UNASSIGNED_OPCODE.
-/
namespace Sys2Proof
open Sys2Proof.Machine

/-! ## The codes of the fields -/

def rndOf : Nat → Rnd | 0 => .rne | 1 => .rtz | 2 => .rup | _ => .rdn
def rndCode : Rnd → Nat | .rne => 0 | .rtz => 1 | .rup => 2 | .rdn => 3
def scopeOf : Nat → Scope
  | 0 => .thread | 1 => .group | 2 => .team | 3 => .gang | 4 => .device | 5 => .system | 6 => .rsv6 | _ => .rsv7
def scopeCode : Scope → Nat
  | .thread => 0 | .group => 1 | .team => 2 | .gang => 3 | .device => 4 | .system => 5 | .rsv6 => 6 | .rsv7 => 7
def ordOf : Nat → Ord | 0 => .relaxed | 1 => .acquire | 2 => .release | _ => .acqRel
def ordCode : Ord → Nat | .relaxed => 0 | .acquire => 1 | .release => 2 | .acqRel => 3
def cpolOf : Nat → Cpol
  | 0 => .dflt | 1 => .stream | 2 => .keep | 3 => .noL1 | 4 => .noAlloc | 5 => .rsv5 | 6 => .rsv6 | _ => .rsv7
def cpolCode : Cpol → Nat
  | .dflt => 0 | .stream => 1 | .keep => 2 | .noL1 => 3 | .noAlloc => 4 | .rsv5 => 5 | .rsv6 => 6 | .rsv7 => 7
def clsCode : Cls → Nat | .inherit => 0 | .plain => 1 | .dup => 2 | .trip => 3
def fin8 (x : Nat) : Fin 8 := ⟨x % 8, Nat.mod_lt _ (by decide)⟩
def fin16 (x : Nat) : Fin 16 := ⟨x % 16, Nat.mod_lt _ (by decide)⟩
def bitNat (b : Bool) : Nat := if b then 1 else 0

/-! ## The formats (03 Tables 3.2 and 3.3) -/

def hdrOf (w : Nat) : Hdr :=
  { pk := Word.bit w 63, pcl := clsOfNat (Word.bits w 62 61), gn := Word.bit w 60, gp := fin8 (Word.bits w 59 57) }
def hdrCode (h : Hdr) : Nat := bitNat h.pk * 2 ^ 63 + clsCode h.pcl * 2 ^ 61 + bitNat h.gn * 2 ^ 60 + h.gp.val * 2 ^ 57

def f2Of (w : Nat) : F2 :=
  { h := hdrOf w, d := opndOf (Word.bits w 47 38), a := opndOf (Word.bits w 37 28), pa := fin16 (Word.bits w 27 24)
    b := opndOf (Word.bits w 23 14), pb := fin16 (Word.bits w 13 10), ty := tyOfCode (Word.bits w 9 6)
    rnd := rndOf (Word.bits w 5 4), sat := Word.bit w 3, sub := fin8 (Word.bits w 2 0) }
def f2Code (op : Nat) (f : F2) : Nat :=
  hdrCode f.h + op * 2 ^ 48 + opndCode f.d * 2 ^ 38 + opndCode f.a * 2 ^ 28 + f.pa.val * 2 ^ 24 + opndCode f.b * 2 ^ 14
    + f.pb.val * 2 ^ 10 + tyCode f.ty * 2 ^ 6 + rndCode f.rnd * 2 ^ 4 + bitNat f.sat * 2 ^ 3 + f.sub.val

def f3Of (w : Nat) : F3 :=
  { h := hdrOf w, d := opndOf (Word.bits w 47 38), a := opndOf (Word.bits w 37 28), pa := fin16 (Word.bits w 27 24)
    b := opndOf (Word.bits w 23 14), pb := fin16 (Word.bits w 13 10), c := opndOf (Word.bits w 9 0) }
def f3Code (op : Nat) (f : F3) : Nat :=
  hdrCode f.h + op * 2 ^ 48 + opndCode f.d * 2 ^ 38 + opndCode f.a * 2 ^ 28 + f.pa.val * 2 ^ 24 + opndCode f.b * 2 ^ 14
    + f.pb.val * 2 ^ 10 + opndCode f.c

def fiOf (w : Nat) : FI :=
  { h := hdrOf w, d := opndOf (Word.bits w 47 38), a := opndOf (Word.bits w 37 28), pa := fin16 (Word.bits w 27 24)
    imm := BitVec.ofNat 24 (Word.bits w 23 0) }
def fiCode (op : Nat) (f : FI) : Nat :=
  hdrCode f.h + op * 2 ^ 48 + opndCode f.d * 2 ^ 38 + opndCode f.a * 2 ^ 28 + f.pa.val * 2 ^ 24 + f.imm.toNat

/-- XF and the word it selects (03 Table 3.4, R114). -/
def extOf (xf : Nat) (fx : DWord) : MemExt :=
  match xf with
  | 0 => .none | 1 => .off fx | 2 => .aext fx | 3 => .rsv 0 | 4 => .rsv 1 | 5 => .rsv 2 | 6 => .rsv 3 | _ => .rsv 4
def extCode : MemExt → Nat
  | .none => 0 | .off _ => 1 | .aext _ => 2 | .rsv n => 3 + n.val
def extWords : MemExt → List DWord
  | .off fx | .aext fx => [fx]
  | _ => []
def fmOf (w : Nat) (fx : DWord) : FM :=
  { h := hdrOf w, d := opndOf (Word.bits w 47 38), a := opndOf (Word.bits w 37 28), pa := fin16 (Word.bits w 27 24)
    b := opndOf (Word.bits w 23 14), scope := scopeOf (Word.bits w 13 11), ord := ordOf (Word.bits w 10 9)
    cpol := cpolOf (Word.bits w 8 6), width := fin8 (Word.bits w 5 3), ext := extOf (Word.bits w 2 0) fx }
def fmCode (op : Nat) (f : FM) : Nat :=
  hdrCode f.h + op * 2 ^ 48 + opndCode f.d * 2 ^ 38 + opndCode f.a * 2 ^ 28 + f.pa.val * 2 ^ 24 + opndCode f.b * 2 ^ 14
    + scopeCode f.scope * 2 ^ 11 + ordCode f.ord * 2 ^ 9 + cpolCode f.cpol * 2 ^ 6 + f.width.val * 2 ^ 3 + extCode f.ext

/-! ## The opcode map (03 Table 3.10) -/

/-- Opcodes 0x001 to 0x007. -/
def asmFlow (k : Nat) (f : FI) (fx : DWord) : Instr :=
  match k with
  | 1 => .bra f
  | 2 => .call f
  | 3 => .loop f fx
  | 4 => .loopw f fx
  | 5 => .trap f
  | 6 => .bkpt f
  | _ => .waitev f

/-- Opcodes 0x020 to 0x026, from 0x020. -/
def asmControl (k : Nat) (f : F2) : Instr :=
  match k with
  | 0 => .nop f
  | 1 => .brx f
  | 2 => .callx f
  | 3 => .ret f
  | 4 => .endl f
  | 5 => .exit f
  | _ => .yield f

/-- Opcodes 0x040 to 0x059, from 0x040. -/
def asmInt (k : Nat) (f : F2) : Instr :=
  match k with
  | 0 => .iadd f
  | 1 => .isub f
  | 2 => .imul f
  | 3 => .imulh f
  | 4 => .imin f
  | 5 => .imax f
  | 6 => .iabs f
  | 7 => .andB f
  | 8 => .orB f
  | 9 => .xorB f
  | 10 => .andn f
  | 11 => .shl f
  | 12 => .shr f
  | 13 => .sar f
  | 14 => .rol f
  | 15 => .popc f
  | 16 => .clz f
  | 17 => .ctz f
  | 18 => .brev f
  | 19 => .bfx f
  | 20 => .lea f
  | 21 => .icmp f
  | 22 => .sel f
  | 23 => match f.sub.val with | 1 => .movToIndex f | 2 => .movFromIndex f | _ => .mov f
  | 24 => match f.sub.val with | 1 => .pickFirst f | _ => .pick f
  | _ => .cvti f

/-- Opcodes 0x080 to 0x086, from 0x080. -/
def asmInt3 (k : Nat) (f : F3) (fx : DWord) : Instr :=
  match k with
  | 0 => .imad f
  | 1 => .imadwS32 f
  | 2 => .imadwN32 f
  | 3 => .lop3 f fx
  | 4 => .fshl f
  | 5 => .bfi f
  | _ => .prmt f

/-- Opcodes 0x0A0 and 0x0A1, from 0x0A0. -/
def asmImm (k : Nat) (f : FI) : Instr :=
  match k with
  | 0 => .movi f
  | _ => .movh f

/-- Opcodes 0x0C0 to 0x0DC, from 0x0C0. -/
def asmFlt (k : Nat) (f : F2) : Instr :=
  match k with
  | 0 => .fadd f
  | 1 => .fsub f
  | 2 => .fmul f
  | 3 => .fmin f
  | 4 => .fmax f
  | 5 => .fcmp f
  | 6 => .fclass f
  | 7 => .fcvt f
  | 8 => .frnd f
  | 9 => .fscl f
  | 10 => .frcp f
  | 11 => .frsq f
  | 12 => .fsqrt f
  | 13 => .fdivs f
  | 14 => .fex2 f
  | 15 => .flg2 f
  | 16 => .fsin f
  | 17 => .fcos f
  | 18 => .dadd f
  | 19 => .dsub f
  | 20 => .dmul f
  | 21 => .dcmp f
  | 22 => .dcvt f
  | 23 => .hadd2 f
  | 24 => .hmul2 f
  | 25 => .hmax2 f
  | 26 => .cadd f
  | 27 => .cmul f
  | _ => .ccnj f

/-- Opcodes 0x100 to 0x11F: OP[1:0] is the rounding mode (03 R108); the group is the opcode less 0x100, divided by 4. -/
def asmFlt3 (k : Nat) (r : Rnd) (f : F3) : Instr :=
  match k with
  | 0 => .ffma r f
  | 1 => .dfma r f
  | 2 => .hfma2Bf16 r f
  | 3 => .hfma2F16 r f
  | 4 => .cfma r f
  | 5 => .cbfly r f
  | 6 => .fdot2Bf16 r f
  | _ => .fdot2F16 r f

/-- Opcodes 0x140 to 0x14B, from 0x140. -/
def asmCross (k : Nat) (f : F2) : Instr :=
  match k with
  | 0 => .plop f
  | 1 => match f.sub.val with | 1 => .pmovLoad f | 2 => .pmovNz f | _ => .pmovSave f
  | 2 => .pcmp f
  | 3 => .psel f
  | 4 => .vote f
  | 5 => .ballot f
  | 6 => .matchT f
  | 7 => .shfl f
  | 8 => .scani f
  | 9 => .scanx f
  | 10 => .redg f
  | _ => .rank f

/-- Opcodes 0x160 to 0x17A, from 0x160. -/
def asmMem (k : Nat) (f : FM) : Instr :=
  match k with
  | 0 => .ldg f
  | 1 => .stg f
  | 2 => .lds f
  | 3 => .sts f
  | 4 => .ldk f
  | 5 => .stk f
  | 6 => .ldc f
  | 7 => .ldga f
  | 8 => .stgr f
  | 9 => .ldsx f
  | 10 => .stsx f
  | 16 => .atomg f
  | 17 => .atoms f
  | 18 => .casg f
  | 19 => .cass f
  | 20 => .xchg f
  | 21 => .red f
  | 24 => .fence f
  | 25 => match f.width.val with | 1 => .cctlClean f | 2 => .cctlInval f | 3 => .cctlDiscard f | _ => .cctlPref f
  | _ => .pref f

/-- Opcodes 0x1B0 to 0x1C7, from 0x1B0. -/
def asmMove (k : Nat) (f : F3) (fx : DWord) : Instr :=
  match k with
  | 0 => .cpy f fx
  | 1 => .cpyg f fx
  | 2 => .cpys f fx
  | 3 => .cpyf f
  | 4 => .cpyq f
  | 5 => .xcpy f fx
  | 6 => .bini f
  | 7 => .barv f
  | 8 => .barx f
  | 9 => .bwait f
  | 10 => .btry f
  | 11 => .hbcfg f
  | 12 => .hbar f
  | 13 => .hbara f
  | 14 => .hbarw f
  | 15 => .qini f
  | 16 => .qpush f
  | 17 => .qpop f
  | 18 => .qtry f
  | 19 => .cset f
  | 20 => .sign f
  | 21 => .dqpush f
  | 22 => .dqpop f
  | _ => .dqstl f

/-- Opcodes 0x1D0 to 0x1DC, from 0x1D0. -/
def asmMatrix (k : Nat) (f : F3) (fx : DWord) : Instr :=
  match k with
  | 0 => .tcfg f
  | 1 => .tld f fx
  | 2 => .tldq f fx
  | 3 => .tzr f
  | 4 => .tmov f
  | 5 => .mma f fx
  | 6 => .mmas f fx
  | 7 => if f.c = .int 15 then .azrRelease f else .azr f
  | 8 => .ald f fx
  | 9 => .adrn f fx
  | 10 => .amov f fx
  | 11 => .mxsc f
  | _ => .tstat f

/-- Opcodes 0x1F0 and 0x1F1, from 0x1F0. -/
def asmCsr (k : Nat) (f : FI) : Instr :=
  match k with
  | 0 => .csrr f
  | _ => .csrw f

/-- Opcodes 0x1F2 to 0x1FC, from 0x1F2. -/
def asmSystem (k : Nat) (f : F2) : Instr :=
  match k with
  | 0 => .sigacc f
  | 1 => .heart f
  | 2 => .clkr f
  | 3 => .regq f
  | 4 => .launch f
  | 5 => match f.sub.val with | 1 => .tretSkip f | _ => .tretResume f
  | 6 => .pcls f
  | 7 => .errr f
  | 8 => .sleep f
  | 9 => match f.sub.val with | 1 => .flagsClr f | 2 => .flagsSet f | _ => .flagsGet f
  | _ => .kill f

/-- The instruction that a word of an opcode and the word after it spell, its fields not yet checked. -/
def spellAt (op w : Nat) (fx : DWord) : Instr :=
  if !opAssigned op then
    .unassignedOpcode (hdrOf w) ⟨op % 512, Nat.mod_lt _ (by decide)⟩ (BitVec.ofNat 48 w)
  else if op < 0x020 then asmFlow op (fiOf w) fx
  else if op < 0x040 then asmControl (op - 0x020) (f2Of w)
  else if op < 0x080 then asmInt (op - 0x040) (f2Of w)
  else if op < 0x0A0 then asmInt3 (op - 0x080) (f3Of w) fx
  else if op < 0x0C0 then asmImm (op - 0x0A0) (fiOf w)
  else if op < 0x100 then asmFlt (op - 0x0C0) (f2Of w)
  else if op < 0x140 then asmFlt3 ((op - 0x100) / 4) (rndOf (op % 4)) (f3Of w)
  else if op < 0x160 then asmCross (op - 0x140) (f2Of w)
  else if op < 0x1B0 then asmMem (op - 0x160) (fmOf w fx)
  else if op < 0x1D0 then asmMove (op - 0x1B0) (f3Of w) fx
  else if op < 0x1F0 then asmMatrix (op - 0x1D0) (f3Of w) fx
  else if op < 0x1F2 then asmCsr (op - 0x1F0) (fiOf w)
  else asmSystem (op - 0x1F2) (f2Of w)

/-- The instruction that a word and the word after it spell, its fields not yet checked. -/
def spell (w : Nat) (fx : DWord) : Instr := spellAt (opOf w) w fx

/-- What the decoder answers: an instruction, or its reason to reject the word (03 Table 3.11). -/
inductive Decoded where
  | ok (i : Instr)
  | illegalField
deriving DecidableEq, Repr

/-- Decode a word with the word after it (which a word of 8 bytes does not look at). -/
def decode (w fx : DWord) : Decoded :=
  let i := spell w.toNat fx
  if i.wellFormed then .ok i else .illegalField

/-- The number spelled by a list of bytes, lowest first, as eight bytes from a place. -/
def wordAt (bs : List Byte) (i : Nat) : DWord := BitVec.ofNat 64 (Word.ofBytes ((bs.drop i).take 8))

/-- Decode the bytes at the front of a list (01 R10: little-endian; bytes past its end read as 0), and the bytes that follow. -/
def decodeBytes (bs : List Byte) : Decoded × List Byte :=
  (decode (wordAt bs 0) (wordAt bs 8), bs.drop (wordSize (wordAt bs 0).toNat))

/-- The instruction that the decoder reads from bits numbered as the opcode table numbers them. -/
def decodeTableWord (nbits w : Nat) : Option Instr :=
  match (decodeBytes (Word.toBytes 16 (w % 2 ^ nbits))).1 with
  | .ok i => some i
  | .illegalField => none

/-! ## The encoder -/

/-- The words of an instruction (03 R104 to R111); a step of one of the device's agents has none. -/
def encode : Instr → List DWord
  | .bra f => [BitVec.ofNat 64 (fiCode 0x001 f)]
  | .call f => [BitVec.ofNat 64 (fiCode 0x002 f)]
  | .loop f fx => [BitVec.ofNat 64 (fiCode 0x003 f), fx]
  | .loopw f fx => [BitVec.ofNat 64 (fiCode 0x004 f), fx]
  | .trap f => [BitVec.ofNat 64 (fiCode 0x005 f)]
  | .bkpt f => [BitVec.ofNat 64 (fiCode 0x006 f)]
  | .waitev f => [BitVec.ofNat 64 (fiCode 0x007 f)]
  | .nop f => [BitVec.ofNat 64 (f2Code 0x020 f)]
  | .brx f => [BitVec.ofNat 64 (f2Code 0x021 f)]
  | .callx f => [BitVec.ofNat 64 (f2Code 0x022 f)]
  | .ret f => [BitVec.ofNat 64 (f2Code 0x023 f)]
  | .endl f => [BitVec.ofNat 64 (f2Code 0x024 f)]
  | .exit f => [BitVec.ofNat 64 (f2Code 0x025 f)]
  | .yield f => [BitVec.ofNat 64 (f2Code 0x026 f)]
  | .iadd f => [BitVec.ofNat 64 (f2Code 0x040 f)]
  | .isub f => [BitVec.ofNat 64 (f2Code 0x041 f)]
  | .imul f => [BitVec.ofNat 64 (f2Code 0x042 f)]
  | .imulh f => [BitVec.ofNat 64 (f2Code 0x043 f)]
  | .imin f => [BitVec.ofNat 64 (f2Code 0x044 f)]
  | .imax f => [BitVec.ofNat 64 (f2Code 0x045 f)]
  | .iabs f => [BitVec.ofNat 64 (f2Code 0x046 f)]
  | .andB f => [BitVec.ofNat 64 (f2Code 0x047 f)]
  | .orB f => [BitVec.ofNat 64 (f2Code 0x048 f)]
  | .xorB f => [BitVec.ofNat 64 (f2Code 0x049 f)]
  | .andn f => [BitVec.ofNat 64 (f2Code 0x04A f)]
  | .shl f => [BitVec.ofNat 64 (f2Code 0x04B f)]
  | .shr f => [BitVec.ofNat 64 (f2Code 0x04C f)]
  | .sar f => [BitVec.ofNat 64 (f2Code 0x04D f)]
  | .rol f => [BitVec.ofNat 64 (f2Code 0x04E f)]
  | .popc f => [BitVec.ofNat 64 (f2Code 0x04F f)]
  | .clz f => [BitVec.ofNat 64 (f2Code 0x050 f)]
  | .ctz f => [BitVec.ofNat 64 (f2Code 0x051 f)]
  | .brev f => [BitVec.ofNat 64 (f2Code 0x052 f)]
  | .bfx f => [BitVec.ofNat 64 (f2Code 0x053 f)]
  | .lea f => [BitVec.ofNat 64 (f2Code 0x054 f)]
  | .icmp f => [BitVec.ofNat 64 (f2Code 0x055 f)]
  | .sel f => [BitVec.ofNat 64 (f2Code 0x056 f)]
  | .mov f => [BitVec.ofNat 64 (f2Code 0x057 f)]
  | .movToIndex f => [BitVec.ofNat 64 (f2Code 0x057 f)]
  | .movFromIndex f => [BitVec.ofNat 64 (f2Code 0x057 f)]
  | .pick f => [BitVec.ofNat 64 (f2Code 0x058 f)]
  | .pickFirst f => [BitVec.ofNat 64 (f2Code 0x058 f)]
  | .cvti f => [BitVec.ofNat 64 (f2Code 0x059 f)]
  | .imad f => [BitVec.ofNat 64 (f3Code 0x080 f)]
  | .imadwS32 f => [BitVec.ofNat 64 (f3Code 0x081 f)]
  | .imadwN32 f => [BitVec.ofNat 64 (f3Code 0x082 f)]
  | .lop3 f fx => [BitVec.ofNat 64 (f3Code 0x083 f), fx]
  | .fshl f => [BitVec.ofNat 64 (f3Code 0x084 f)]
  | .bfi f => [BitVec.ofNat 64 (f3Code 0x085 f)]
  | .prmt f => [BitVec.ofNat 64 (f3Code 0x086 f)]
  | .movi f => [BitVec.ofNat 64 (fiCode 0x0A0 f)]
  | .movh f => [BitVec.ofNat 64 (fiCode 0x0A1 f)]
  | .fadd f => [BitVec.ofNat 64 (f2Code 0x0C0 f)]
  | .fsub f => [BitVec.ofNat 64 (f2Code 0x0C1 f)]
  | .fmul f => [BitVec.ofNat 64 (f2Code 0x0C2 f)]
  | .fmin f => [BitVec.ofNat 64 (f2Code 0x0C3 f)]
  | .fmax f => [BitVec.ofNat 64 (f2Code 0x0C4 f)]
  | .fcmp f => [BitVec.ofNat 64 (f2Code 0x0C5 f)]
  | .fclass f => [BitVec.ofNat 64 (f2Code 0x0C6 f)]
  | .fcvt f => [BitVec.ofNat 64 (f2Code 0x0C7 f)]
  | .frnd f => [BitVec.ofNat 64 (f2Code 0x0C8 f)]
  | .fscl f => [BitVec.ofNat 64 (f2Code 0x0C9 f)]
  | .frcp f => [BitVec.ofNat 64 (f2Code 0x0CA f)]
  | .frsq f => [BitVec.ofNat 64 (f2Code 0x0CB f)]
  | .fsqrt f => [BitVec.ofNat 64 (f2Code 0x0CC f)]
  | .fdivs f => [BitVec.ofNat 64 (f2Code 0x0CD f)]
  | .fex2 f => [BitVec.ofNat 64 (f2Code 0x0CE f)]
  | .flg2 f => [BitVec.ofNat 64 (f2Code 0x0CF f)]
  | .fsin f => [BitVec.ofNat 64 (f2Code 0x0D0 f)]
  | .fcos f => [BitVec.ofNat 64 (f2Code 0x0D1 f)]
  | .dadd f => [BitVec.ofNat 64 (f2Code 0x0D2 f)]
  | .dsub f => [BitVec.ofNat 64 (f2Code 0x0D3 f)]
  | .dmul f => [BitVec.ofNat 64 (f2Code 0x0D4 f)]
  | .dcmp f => [BitVec.ofNat 64 (f2Code 0x0D5 f)]
  | .dcvt f => [BitVec.ofNat 64 (f2Code 0x0D6 f)]
  | .hadd2 f => [BitVec.ofNat 64 (f2Code 0x0D7 f)]
  | .hmul2 f => [BitVec.ofNat 64 (f2Code 0x0D8 f)]
  | .hmax2 f => [BitVec.ofNat 64 (f2Code 0x0D9 f)]
  | .cadd f => [BitVec.ofNat 64 (f2Code 0x0DA f)]
  | .cmul f => [BitVec.ofNat 64 (f2Code 0x0DB f)]
  | .ccnj f => [BitVec.ofNat 64 (f2Code 0x0DC f)]
  | .ffma r f => [BitVec.ofNat 64 (f3Code (0x100 + rndCode r) f)]
  | .dfma r f => [BitVec.ofNat 64 (f3Code (0x104 + rndCode r) f)]
  | .hfma2Bf16 r f => [BitVec.ofNat 64 (f3Code (0x108 + rndCode r) f)]
  | .hfma2F16 r f => [BitVec.ofNat 64 (f3Code (0x10C + rndCode r) f)]
  | .cfma r f => [BitVec.ofNat 64 (f3Code (0x110 + rndCode r) f)]
  | .cbfly r f => [BitVec.ofNat 64 (f3Code (0x114 + rndCode r) f)]
  | .fdot2Bf16 r f => [BitVec.ofNat 64 (f3Code (0x118 + rndCode r) f)]
  | .fdot2F16 r f => [BitVec.ofNat 64 (f3Code (0x11C + rndCode r) f)]
  | .plop f => [BitVec.ofNat 64 (f2Code 0x140 f)]
  | .pmovSave f => [BitVec.ofNat 64 (f2Code 0x141 f)]
  | .pmovLoad f => [BitVec.ofNat 64 (f2Code 0x141 f)]
  | .pmovNz f => [BitVec.ofNat 64 (f2Code 0x141 f)]
  | .pcmp f => [BitVec.ofNat 64 (f2Code 0x142 f)]
  | .psel f => [BitVec.ofNat 64 (f2Code 0x143 f)]
  | .vote f => [BitVec.ofNat 64 (f2Code 0x144 f)]
  | .ballot f => [BitVec.ofNat 64 (f2Code 0x145 f)]
  | .matchT f => [BitVec.ofNat 64 (f2Code 0x146 f)]
  | .shfl f => [BitVec.ofNat 64 (f2Code 0x147 f)]
  | .scani f => [BitVec.ofNat 64 (f2Code 0x148 f)]
  | .scanx f => [BitVec.ofNat 64 (f2Code 0x149 f)]
  | .redg f => [BitVec.ofNat 64 (f2Code 0x14A f)]
  | .rank f => [BitVec.ofNat 64 (f2Code 0x14B f)]
  | .ldg f => BitVec.ofNat 64 (fmCode 0x160 f) :: extWords f.ext
  | .stg f => BitVec.ofNat 64 (fmCode 0x161 f) :: extWords f.ext
  | .lds f => BitVec.ofNat 64 (fmCode 0x162 f) :: extWords f.ext
  | .sts f => BitVec.ofNat 64 (fmCode 0x163 f) :: extWords f.ext
  | .ldk f => BitVec.ofNat 64 (fmCode 0x164 f) :: extWords f.ext
  | .stk f => BitVec.ofNat 64 (fmCode 0x165 f) :: extWords f.ext
  | .ldc f => BitVec.ofNat 64 (fmCode 0x166 f) :: extWords f.ext
  | .ldga f => BitVec.ofNat 64 (fmCode 0x167 f) :: extWords f.ext
  | .stgr f => BitVec.ofNat 64 (fmCode 0x168 f) :: extWords f.ext
  | .ldsx f => BitVec.ofNat 64 (fmCode 0x169 f) :: extWords f.ext
  | .stsx f => BitVec.ofNat 64 (fmCode 0x16A f) :: extWords f.ext
  | .atomg f => BitVec.ofNat 64 (fmCode 0x170 f) :: extWords f.ext
  | .atoms f => BitVec.ofNat 64 (fmCode 0x171 f) :: extWords f.ext
  | .casg f => BitVec.ofNat 64 (fmCode 0x172 f) :: extWords f.ext
  | .cass f => BitVec.ofNat 64 (fmCode 0x173 f) :: extWords f.ext
  | .xchg f => BitVec.ofNat 64 (fmCode 0x174 f) :: extWords f.ext
  | .red f => BitVec.ofNat 64 (fmCode 0x175 f) :: extWords f.ext
  | .fence f => BitVec.ofNat 64 (fmCode 0x178 f) :: extWords f.ext
  | .cctlPref f => BitVec.ofNat 64 (fmCode 0x179 f) :: extWords f.ext
  | .cctlClean f => BitVec.ofNat 64 (fmCode 0x179 f) :: extWords f.ext
  | .cctlInval f => BitVec.ofNat 64 (fmCode 0x179 f) :: extWords f.ext
  | .cctlDiscard f => BitVec.ofNat 64 (fmCode 0x179 f) :: extWords f.ext
  | .pref f => BitVec.ofNat 64 (fmCode 0x17A f) :: extWords f.ext
  | .cpy f fx => [BitVec.ofNat 64 (f3Code 0x1B0 f), fx]
  | .cpyg f fx => [BitVec.ofNat 64 (f3Code 0x1B1 f), fx]
  | .cpys f fx => [BitVec.ofNat 64 (f3Code 0x1B2 f), fx]
  | .cpyf f => [BitVec.ofNat 64 (f3Code 0x1B3 f)]
  | .cpyq f => [BitVec.ofNat 64 (f3Code 0x1B4 f)]
  | .xcpy f fx => [BitVec.ofNat 64 (f3Code 0x1B5 f), fx]
  | .bini f => [BitVec.ofNat 64 (f3Code 0x1B6 f)]
  | .barv f => [BitVec.ofNat 64 (f3Code 0x1B7 f)]
  | .barx f => [BitVec.ofNat 64 (f3Code 0x1B8 f)]
  | .bwait f => [BitVec.ofNat 64 (f3Code 0x1B9 f)]
  | .btry f => [BitVec.ofNat 64 (f3Code 0x1BA f)]
  | .hbcfg f => [BitVec.ofNat 64 (f3Code 0x1BB f)]
  | .hbar f => [BitVec.ofNat 64 (f3Code 0x1BC f)]
  | .hbara f => [BitVec.ofNat 64 (f3Code 0x1BD f)]
  | .hbarw f => [BitVec.ofNat 64 (f3Code 0x1BE f)]
  | .qini f => [BitVec.ofNat 64 (f3Code 0x1BF f)]
  | .qpush f => [BitVec.ofNat 64 (f3Code 0x1C0 f)]
  | .qpop f => [BitVec.ofNat 64 (f3Code 0x1C1 f)]
  | .qtry f => [BitVec.ofNat 64 (f3Code 0x1C2 f)]
  | .cset f => [BitVec.ofNat 64 (f3Code 0x1C3 f)]
  | .sign f => [BitVec.ofNat 64 (f3Code 0x1C4 f)]
  | .dqpush f => [BitVec.ofNat 64 (f3Code 0x1C5 f)]
  | .dqpop f => [BitVec.ofNat 64 (f3Code 0x1C6 f)]
  | .dqstl f => [BitVec.ofNat 64 (f3Code 0x1C7 f)]
  | .tcfg f => [BitVec.ofNat 64 (f3Code 0x1D0 f)]
  | .tld f fx => [BitVec.ofNat 64 (f3Code 0x1D1 f), fx]
  | .tldq f fx => [BitVec.ofNat 64 (f3Code 0x1D2 f), fx]
  | .tzr f => [BitVec.ofNat 64 (f3Code 0x1D3 f)]
  | .tmov f => [BitVec.ofNat 64 (f3Code 0x1D4 f)]
  | .mma f fx => [BitVec.ofNat 64 (f3Code 0x1D5 f), fx]
  | .mmas f fx => [BitVec.ofNat 64 (f3Code 0x1D6 f), fx]
  | .azr f => [BitVec.ofNat 64 (f3Code 0x1D7 f)]
  | .azrRelease f => [BitVec.ofNat 64 (f3Code 0x1D7 f)]
  | .ald f fx => [BitVec.ofNat 64 (f3Code 0x1D8 f), fx]
  | .adrn f fx => [BitVec.ofNat 64 (f3Code 0x1D9 f), fx]
  | .amov f fx => [BitVec.ofNat 64 (f3Code 0x1DA f), fx]
  | .mxsc f => [BitVec.ofNat 64 (f3Code 0x1DB f)]
  | .tstat f => [BitVec.ofNat 64 (f3Code 0x1DC f)]
  | .csrr f => [BitVec.ofNat 64 (fiCode 0x1F0 f)]
  | .csrw f => [BitVec.ofNat 64 (fiCode 0x1F1 f)]
  | .sigacc f => [BitVec.ofNat 64 (f2Code 0x1F2 f)]
  | .heart f => [BitVec.ofNat 64 (f2Code 0x1F3 f)]
  | .clkr f => [BitVec.ofNat 64 (f2Code 0x1F4 f)]
  | .regq f => [BitVec.ofNat 64 (f2Code 0x1F5 f)]
  | .launch f => [BitVec.ofNat 64 (f2Code 0x1F6 f)]
  | .tretResume f => [BitVec.ofNat 64 (f2Code 0x1F7 f)]
  | .tretSkip f => [BitVec.ofNat 64 (f2Code 0x1F7 f)]
  | .pcls f => [BitVec.ofNat 64 (f2Code 0x1F8 f)]
  | .errr f => [BitVec.ofNat 64 (f2Code 0x1F9 f)]
  | .sleep f => [BitVec.ofNat 64 (f2Code 0x1FA f)]
  | .flagsGet f => [BitVec.ofNat 64 (f2Code 0x1FB f)]
  | .flagsClr f => [BitVec.ofNat 64 (f2Code 0x1FB f)]
  | .flagsSet f => [BitVec.ofNat 64 (f2Code 0x1FB f)]
  | .kill f => [BitVec.ofNat 64 (f2Code 0x1FC f)]
  | .unassignedOpcode h op low => [BitVec.ofNat 64 (hdrCode h + op.val * 2 ^ 48 + low.toNat)]
  | .blockFetch => []
  | .loadDataReturn _ _ => []
  | .writeAck _ _ => []
  | .scratchRequestServe _ => []
  | .waitTimeout _ => []
  | .sleepExpiry _ => []
  | .epochSweepEnd _ _ => []
  | .moverDescriptorStart _ => []
  | .moverWrite _ _ => []
  | .moverComplete _ _ => []
  | .copyEngineStart _ => []
  | .copyEngineComplete _ => []
  | .engineOpBegin _ _ => []
  | .engineOpComplete _ _ => []
  | .passGrant _ => []
  | .passComplete _ _ _ => []
  | .amaxMerge _ _ => []
  | .colourFlip _ _ => []
  | .homeRd _ => []
  | .homeWr _ => []
  | .homeAt _ => []
  | .homeReg _ => []
  | .homeFlush _ => []
  | .homeMpart _ => []
  | .homeLost _ _ => []
  | .homeBase _ => []
  | .homeMoveComplete _ => []
  | .mergeUnitReg _ _ => []
  | .mergeUnitFlush _ _ => []
  | .mergeUnitMreq _ _ => []
  | .mergeUnitRack _ _ => []
  | .coreRack _ _ => []
  | .coreMreq _ _ => []
  | .recordFetch _ => []
  | .teamPlace => []
  | .teamEnd _ => []
  | .launchComplete _ => []
  | .coreHalted _ => []
  | .contextSave _ => []
  | .contextRestore _ _ => []
  | .slotTableApply _ => []
  | .wallClockExpiry _ => []
  | .heartbeatExpiry _ => []
  | .scoreboardMismatch _ => []
  | .replayPlace => []
  | .authRunPlace => []
  | .runEnd _ => []
  | .versionCommit _ => []
  | .apronForced _ => []
  | .releaseAfterExpiry _ _ => []
  | .demeritDecay => []
  | .tlbinvDone _ => []
  | .migrationFenceDone _ => []
  | .powerUp => []
  | .bringUpPhaseEnd _ => []
  | .ringDoorbell _ _ _ => []
  | .lqctlWrite _ _ _ => []
  | .lcmdPreempt _ _ => []
  | .lcmdResume _ _ => []
  | .lcmdKill _ _ => []
  | .slotTableWrite _ _ _ _ => []
  | .chkctlWrite _ _ => []
  | .hostDebugResume _ _ => []
  | .tcmdRetry _ _ _ => []
  | .tcmdDeny _ _ _ => []
  | .tcmdResume _ _ _ => []
  | .tcmdSkip _ _ _ => []
  | .tcmdEnd _ _ _ => []
  | .tlbinv _ _ _ => []
  | .tlbWalk _ _ _ => []
  | .migrationFence _ _ _ => []
  | .erenWrite _ _ _ => []
  | .registerWrite _ _ _ => []
  | .patrolScrub _ => []
  | .deviceFatalError _ _ => []
  | .containmentReset _ => []
  | .clusterUnfence _ => []
  | .flitReceive _ _ => []
  | .receipt _ _ _ _ => []
  | .audit _ _ => []
  | .auditReceive _ => []
  | .creditParityFail _ _ => []
  | .auditRequest _ => []
  | .portDown _ => []
  | .bundleReroute _ _ => []
  | .linkTrained _ _ => []
  | .linkRetrainFail _ => []
  | .peerPacketReceive _ _ => []
  | .fabcmdSave _ => []
  | .fabcmdRestore _ => []
  | .fabcmdClear _ => []
  | .bar2Access _ _ _ => []
  | .vfFlr _ => []
  | .pfFlr => []
  | .devctlReset _ _ => []
  | .pwrctlWrite _ _ => []
  | .clockStepChange _ _ => []
  | .thermalTrip _ => []
  | .powerFault => []
  | .configUpdate _ _ => []
  | .keySet _ _ => []
  | .boundEvidence _ _ => []
  | .healthRecordRequest _ => []
  | .getVersion _ _ => []
  | .getCapabilities _ _ => []
  | .negotiateAlgorithms _ _ => []
  | .getDigests _ _ => []
  | .getCertificate _ _ => []
  | .challenge _ _ => []
  | .getMeasurements _ _ => []
  | .keyExchange _ _ => []
  | .finish _ _ => []
  | .firmwareLoad _ _ _ => []
  | .powerLoss => []
  | .matrixDutyThrottle _ _ => []
  | .managementCoreCopy _ _ _ _ => []
  | .ideKeyManagement _ _ => []

end Sys2Proof
end

