-- ==== Sys2Proof/Machine/Ring.lean ====
section
/-!
DEFINITION. What surrounds an act in a step: the time that passes before it, the array errors that the outside brings (16 R443,
Table 16.8), and the records that it raised, offered to their contexts' error rings (16 R441).
-/
namespace Sys2Proof.Machine
open Sys2Proof

/-! ## Error rings -/

/-- Records that an error ring holds (16 Table 16.6): 2^ERLOG, an ERLOG outside 6 to 15 taken as 6. -/
def Ctx.ringSize (c : Ctx) : Nat := 2 ^ (if 6 ≤ c.erlog && c.erlog ≤ 15 then c.erlog else 6)
def Ctx.ringFull (c : Ctx) : Bool := c.ringSize ≤ (c.ertail + (2 ^ 32 - c.erhead)) % 2 ^ 32
/-- The address of the ring slot that the next record takes. -/
def Ctx.ringSlot (c : Ctx) : Nat := c.erbase + 64 * (c.ertail % c.ringSize)

/-- A record that its ring does not take (16 R441). -/
def State.ringDrop (s : State) (tenant : Nat) : State :=
  s.modCtx tenant (fun c => { c with erdrop := (c.erdrop + 1) % 2 ^ 32, erover := true })

/-- Offer a record to the error ring of its context (16 R441): the record as relaxed stores, then ERTAIL as a release at system
scope, then the error vector. -/
def State.offerRecord (s : State) (r : ErrRec) : State :=
  let c := s.ctx r.tenant
  if !c.eren then s
  else if c.ringFull then s.ringDrop r.tenant
  else
    match translateUnit s r.tenant c.ringSlot with
    | (.ok x _, s) =>
      if x.w && x.attr ≠ PAttr.prot then
        let s := (physWrite s x.host (x.phys c.ringSlot) { r with overflow := r.overflow || c.erover }.bytes false).2
        ((s.modCtx r.tenant (fun c => { c with ertail := (c.ertail + 1) % 2 ^ 32, erover := false })).bumpClock 4).emit (.msixErr r.tenant)
      else s.ringDrop r.tenant
    | (.unmapped _, s) => s.ringDrop r.tenant

/-- Offer records one after another; `fuel` bounds the records that the writes themselves raise. -/
def offerAll : Nat → State → State
  | 0, s => { s with recQ := [] }
  | n + 1, s =>
    match s.recQ with
    | [] => s
    | r :: rs => offerAll n ({ s with recQ := rs }.offerRecord r)

def State.drainRecords (s : State) : State := offerAll (2 * s.recQ.length + 8) s

/-! ## Array errors -/

/-- The arrays in the order in which the health record counts them (15 Table 15.16; log 11). -/
def arrFiles : Nat := 0
def arrState : Nat := 1
def arrMatrix : Nat := 2
def arrMerge : Nat := 3
def arrQueues : Nat := 4
def arrCaches : Nat := 5
def arrMemory : Nat := 6

/-- Count an uncorrectable error of an array and raise its record (16 R443). -/
def State.ue (s : State) (arr : Nat) (tk : Option Nat) (r : ErrRec) : State := (s.count (16 + arr)).raise tk r

def State.ueThread (s : State) (arr t : Nat) : State :=
  s.ue arr (some (s.group s.cur).team) (ErrRec.ofThread s s.cur t recECC_UE)
def State.ueTeam (s : State) (tk unit : Nat) (arr : Nat) : State := s.ue arr (some tk) (ErrRec.ofTeam s tk recECC_UE unit)
def State.ueCore (s : State) (c arr : Nat) : State :=
  s.ue arr none { ErrRec.device s recECC_UE 2 (Config.dieOf c) with core := c, quad := Config.quadOf c, cluster := Config.clusterOf c }
def State.ueQuad (s : State) (q : Nat) : State :=
  s.ue arrMatrix none { ErrRec.device s recECC_UE 3 (Config.dieOfCluster (Config.clusterOfQuad q)) with
    quad := q, cluster := Config.clusterOfQuad q }

/-- An entry of a cluster's L2 TLB, or of the walkers' cache of its die, fails its parity. -/
def State.ueWalk (s : State) (cl : Nat) : State :=
  s.ue arrCaches none { ErrRec.device s recECC_UE 15 (Config.dieOfCluster cl) with cluster := cl }

/-- Poison one word of a file. -/
def poisonWord (f : RegFile) (n : Nat) : RegFile := kvPut RegWord.zero f n { kvGetD RegWord.zero f n with pois := true }
/-- Poison one element of a partial. -/
def poisonSlot (tag : RedTag) (f : Slots) (off : Nat) : Slots := kvSet f off { kvGetD tag.ident f off with pois := true }

/-- An uncorrectable error in memory, or in a dirty L2 line: all four chunks are poisoned (16 R445). -/
def State.ueMemory (s : State) (pa : Nat) : State :=
  let dirty := ((kvGet s.l2 (pa / 64)).bind (·.back)).isSome
  let unit := if dirty then 4 else if pa ≤ 0x7FFFFFFFFF then 5 else 6
  let s := s.ue arrMemory none { ErrRec.device s recECC_UE unit (homeDie pa) with addr := pa / 64 * 64, index := if dirty then homeSlice pa else Config.memIndex pa }
  { s with mpois := [0, 1, 2, 3].foldl (fun m i => setInsert m (pa / 64 * 4 + i)) s.mpois }

/-- One array error (16 Table 16.8). -/
def State.hit (s : State) (h : Hit) : State :=
  let gk := s.cur
  let tk := (s.group gk).team
  match h with
  | .vreg t n => (s.ueThread arrFiles t).modThread gk t (fun th => { th with v := poisonWord th.v n })
  | .sreg n => (s.ueThread arrFiles 32).modGroup gk (fun g => { g with s := poisonWord g.s n })
  | .pocket t w => (s.ueThread arrFiles t).modThread gk t (fun th => { th with pocket := poisonWord th.pocket w })
  | .scratch w => (s.ueTeam tk 2 arrFiles).modTeam tk (fun tm => { tm with scratch := poisonWord tm.scratch w })
  | .threadState t => (s.ueThread arrState t).killThread gk t recPOISON
  | .groupState => (s.ueThread arrState 32).killThreads gk recPOISON (s.group gk).live
  | .tile q t w =>
    (s.ueQuad q).modQuad q (fun e => { e with tiles := kvMod e.tiles t (fun x => { x with data := poisonWord x.data w }) })
  | .sidecar q t w =>
    (s.ueQuad q).modQuad q (fun e => { e with tiles := kvMod e.tiles t (fun x => { x with side := poisonWord x.side w }) })
  | .acc q w => (s.ueQuad q).modQuad q (fun e => { e with acc := poisonWord e.acc w })
  | .redElem c line off =>
    (s.ueCore c arrMerge).modCore c (fun k => { k with red := k.red.map (fun e => if e.line = line then { e with slots := poisonSlot e.tag e.slots off } else e) })
  | .muElem cl line off =>
    (s.ue arrMerge none { ErrRec.device s recECC_UE 14 (Config.dieOfCluster cl) with cluster := cl, addr := 64 * line }).modCluster cl
      (fun k => { k with mus := k.mus.map (fun e => if e.line = line then { e with slots := poisonSlot e.tag e.slots off } else e) })
  | .homeElem line off =>
    let s := s.ue arrMerge none { ErrRec.device s recECC_UE 4 (homeDie (64 * line)) with addr := 64 * line, index := homeSlice (64 * line) }
    { s with homes := kvMod s.homes line (fun e => { e with ha := poisonSlot e.op e.ha off }) }
  | .sideChunk c i =>
    (s.ueCore c arrQueues).modCore c (fun k => { k with slog := k.slog.modify i (fun e => { e with pois := true }) })
  | .dequeEntry c i =>
    (s.ueCore c arrQueues).modCore c (fun k => { k with deque := k.deque.map (fun d => { d with entries := d.entries.modify i (fun e => (e.1, true)) }) })
  | .teamState k =>
    (s.team k).groups.foldl (fun s g => s.killThreads g recPOISON (s.group g).live) (s.ueTeam k 2 arrQueues)
  | .logWord k =>
    if (s.team k).kind = .original then s
    else (s.ueMemory ((s.launch (s.team k).kid).logOf (s.team k).tid)).modTeam k (fun tm =>
      { tm with ended := some (tm.ended.getD 0), chk := { tm.chk with logBad := true } })
  | .image k sect off flip crc => s.modTeam k (fun tm => { tm with image := tm.image.map (fun im => im.alter sect off flip crc) })
  | .memLine pa => s.ueMemory pa
  | .l2Line pa flip lost => { s with l2 := kvMod s.l2 (pa / 64) (fun e => if e.back.isNone then { e with check := e.check ^^^ BitVec.ofNat 64 flip, lost := lost } else e) }
  | .l1Line c line => (s.ueCore c arrCaches).l1Drop c line
  | .codeBlock c tenant addr =>
    (s.ueCore c arrCaches).modCore c (fun k => { k with icache := k.icache.filter (fun b => !(b.tenant == tenant && b.addr == addr)) })
  | .tlb c i => (s.ueCore c arrCaches).modCore c (fun k => { k with tlb := k.tlb.eraseIdx i })
  | .l2Tlb cl i => (s.ueWalk cl).modCluster cl (fun k => { k with tlb := k.tlb.eraseIdx i })
  | .walkPtr i => { s.ueWalk (Config.clustersPerDie * (s.walkPtrs[i]?.map (·.die)).getD 0) with walkPtrs := s.walkPtrs.eraseIdx i }
  | .loopBuf n => (s.ueTeam tk 2 arrCaches).modGroup gk (fun g => { g with loops := g.loops.modify n (fun l => { l with buf := [] }) })
  | .corrected arr unit die lane index => (s.count (9 + arr % 7)).raise none (ErrRec.ofUnit s recECC_CE unit die lane index)

/-! ## Time -/

/-- Whether a launch's wall-clock time runs: a team of it is on its core and no group of it is halted (14 R395, 04 R154). -/
def State.wallRuns (s : State) (kid : Nat) : Bool :=
  s.teams.any (fun e => e.2.kid == kid && e.2.resid.onCore)
    && !s.groups.any (fun e => (s.team e.2.team).kid == kid && (match e.2.run with | .halted _ => true | _ => false))

/-- Whether a team's heartbeat window stands still: it is saved out, or a group of it is halted (14 R396). -/
def State.beatStands (s : State) (tk : Nat) : Bool :=
  !(s.team tk).resid.onCore
    || s.groups.any (fun e => e.2.team == tk && (match e.2.run with | .halted _ => true | _ => false))

/-- The slices whose Apron is full, and since when (15 Table 15.11). -/
def State.noteFull (s : State) : State :=
  if s.apron.isEmpty && s.fullAt.isEmpty then s
  else
    let full := (s.apron.filter (fun v => s.apronFull v.line)).foldl (fun m v => setInsert m (homeSlice (64 * v.line))) []
    { s with fullAt := full.map (fun i => (i, kvGetD s.clk.toNat s.fullAt i)) }

/-- The time of a turn passes (log 2). -/
def State.passTime (s : State) (dCycles dClk : Nat) : State :=
  let s := s.noteFull
  { s with
    cycle := s.cycle + dCycles
    clk := s.clk + BitVec.ofNat 64 dClk
    launches := s.launches.map (fun e => if s.wallRuns e.1 then (e.1, { e.2 with wallUsed := e.2.wallUsed + dClk }) else e)
    teams := s.teams.map (fun e => if s.beatStands e.1 then (e.1, { e.2 with beatAt := e.2.beatAt + dClk }) else e) }

/-- What sensors now show (18 Table 18.1). -/
def State.feel (s : State) : State :=
  match s.env.sense with
  | some (w, t) => { s with modw := w, tmax := t }
  | none => s

/-- Begin a turn: its time passes, its environment is at hand, its act's group is the issuing group, its array errors happen. -/
def State.beginTurn (s : State) (t : Turn) : State :=
  let s := ({ s.passTime t.dCycles t.dClk with env := t.env } : State).feel
  let s := match t.act with
    | .issue gk => { s with cur := gk }
    | .event _ => s
  t.hits.foldl State.hit s

/-- The time that the executing threads of the turn's instruction took has passed (01 R34): no later reading of %clk is smaller. -/
def State.laneTime (s : State) : State := s.passTime 0 s.env.lane.sum

/-- End a turn: its instruction's own time has passed, and the records raised in it go to their rings. -/
def State.endTurn (s : State) : State := { s.laneTime.drainRecords with env := Env.quiet }

end Sys2Proof.Machine
end

