-- ==== Sys2Proof/Machine/Turns.lean ====
section
/-!
DEFINITION. Which instruction a turn runs: the choice of a group on its lane (01 R44), the entry of its block, and the reading of
its next word (03 R100 to R114, 04 R150); the encodings that are no instruction (03 R123); and what the device does when the
agenda names nothing (log 1).
-/
namespace Sys2Proof.Machine
open Sys2Proof

/-! ## Whether a group may issue -/

/-- A group that issues or that takes up an instruction that waits to begin: its team is on its core and not ended, it is not
parked, and some thread is live (01 R42, R45; 14 R388; 16 R437). -/
def State.groupReady (s : State) (gk : Nat) : Bool :=
  match kvGet s.groups gk with
  | none => false
  | some g =>
    (s.team g.team).resid == .placed && (s.team g.team).ended.isNone && !g.parked && !g.issuing.isEmpty
      && (match g.run with | .running | .room | .release => true | _ => false)

/-- Whether an instruction of a group is in progress on its lane (01 R44): some of its threads have passed and some have not. -/
def State.inProgress (s : State) (gk : Nat) : Bool :=
  let g := s.group gk
  g.begun && (s.team g.team).resid == .placed && (s.team g.team).ended.isNone && !g.live.isEmpty

/-- YIELD defers a group behind another one that has not issued since (04 R155). -/
def State.yields (s : State) (g other : Group) : Bool := s.cycle < g.yieldUntil && other.issued < g.issued

/-- A ready group goes before another on their lane: the one that issued less recently, unless it yields (01 R44, 04 R155). -/
def State.before (s : State) (a b : Group) : Bool := s.yields b a || (!s.yields a b && a.issued < b.issued)

/-- Whether a tenant's turn on a lane falls to a group (01 R44): no other group of the tenant there has an instruction in progress, and,
unless its own is, no ready one goes before it. -/
def State.laneTurn (s : State) (gk : Nat) : Bool :=
  let g := s.group gk
  s.groups.all (fun e =>
    e.1 == gk || e.2.lane ≠ g.lane || s.coreOf e.1 ≠ s.coreOf gk || s.tenantOf e.1 ≠ s.tenantOf gk
      || (!s.inProgress e.1 && (g.begun || !(s.groupReady e.1 && e.2.run == .running && s.before e.2 g))))

/-- Whether a tenant has a ready group, or an instruction in progress, on a lane of a core (14 R385). -/
def State.tenantWants (s : State) (core lane tenant : Nat) : Bool :=
  s.groups.any (fun e => e.2.lane == lane && s.coreOf e.1 == core && s.tenantOf e.1 == tenant && (s.groupReady e.1 || s.inProgress e.1))

/-- The tenant that a lane issues for in the present cycle (14 R383 to R385): the one that entry (cycle mod 64) of the core's slot table
names; with LEND = 1, the first from it upward, in the order of the tenant numbers with wrap-around, that wants the cycle, an invalid
entry being lent from tenant 0 on. -/
def State.laneTenant (s : State) (core lane : Nat) : Option Nat :=
  let k := s.core core
  let e := (k.slotsOn.getD (s.cycle % 64) 0).toNat
  let own := if e.testBit 7 && e % 32 < Config.tenants then some (e % 32) else none
  if k.lendOn then ((List.range Config.tenants).map (fun i => (own.getD 0 + i) % Config.tenants)).find? (s.tenantWants core lane) else own

/-- Whether a group may issue now (01 R44, R59; 14 R383 to R385). -/
def State.mayIssue (s : State) (gk : Nat) : Bool :=
  s.groupReady gk && s.laneTurn gk && s.laneTenant (s.coreOf gk) (s.group gk).lane == some (s.tenantOf gk)

/-! ## The word that a group issues -/

/-- What a turn comes to: an instruction; a word whose fields are illegal, with its header and size; an instruction whose FX word
would lie past the end of its block; nothing. -/
inductive Chosen where
  | run (i : Instr)
  | illegal (h : Hdr) (size : Nat)
  | pastEnd (h : Hdr)
  | idle
deriving DecidableEq, Repr

/-- Read the instruction at the issuing set's PC (03 R104, R114, R123). -/
def State.readInstr (s : State) (gk : Nat) : Chosen :=
  let g := s.group gk
  let th := g.thread (g.issuing.headD 0)
  let pc := th.pc.toNat
  let blk := th.blk.toNat
  match th.ent, s.codeWord gk blk pc with
  | some e, some w =>
    if wordSize w = 16 && blk + 8 + 8 * e.len < pc + 16 then .pastEnd (hdrOf w)
    else
      match decode (BitVec.ofNat 64 w) (BitVec.ofNat 64 ((s.codeWord gk blk (pc + 8)).getD 0)) with
      | .ok i => .run i
      | .illegalField => .illegal (hdrOf w) (wordSize w)
  | _, _ => .idle

/-- What a turn's act comes to.  An event is a step of one of the device's agents; the entry of a block is the group's own. -/
def State.chosen (s : State) : Act → Chosen
  | .issue gk =>
    if !s.mayIssue gk then .idle
    else if !s.entered gk then .run .blockFetch
    else s.readInstr gk
  | .event i => if (encode i).isEmpty && i ≠ .blockFetch then .run i else .idle

/-- The state in which the chosen instruction runs: the issuing group is at hand and takes up what it waited to begin. -/
def State.toIssue (s : State) : Act → State
  | .issue gk => ({ s with cur := gk } : State).modGroup gk (fun g => { g with run := .running })
  | .event _ => s

/-- A word with an illegal field (03 R119, R123, R124). -/
def takeIllegal (h : Hdr) (size : Nat) (s : State) : Out :=
  runInstr h size (fun _ _ => some (0x02, 0)) (fun s _ => .done s) s

/-- An instruction whose FX word lies past its block (03 R114): DESC, or, with an empty EXEC, 8 bytes passed over. -/
def takePastEnd (h : Hdr) (s : State) : Out :=
  let is := s.issue h 8
  s.inGroup
    (if is.ex.isEmpty then (s.advanceAll is.key 8 is.issuing).complete h is
     else s.takeTrap is.key { Trap.atInstr 0x04 is with size := 16 })

/-! ## What happens when the agenda is empty (log 1) -/

/-- The events that messages in flight call for (13 Table 13.3). -/
def netEvents (s : State) : List Instr :=
  s.net.flatMap (fun m =>
    match m.dst, m.body with
    | .home, .reg _ => [.homeReg m.line]
    | .home, .flush _ _ _ => [.homeFlush m.line]
    | .home, .mpart _ _ _ => [.homeMpart m.line]
    | .home, .lost cl => [.homeLost m.line cl]
    | .home, .acc (.rd _ _ _ _ _ _) => [.homeRd m.line]
    | .home, .acc (.wr _ _ _ _ _) => [.homeWr m.line]
    | .home, .acc (.at _ _ _ _ _ _ _) => [.homeAt m.line]
    | .unit cl, .reg _ => [.mergeUnitReg cl m.line]
    | .unit cl, .flush _ _ _ => [.mergeUnitFlush cl m.line]
    | .unit cl, .rack _ => [.mergeUnitRack cl m.line]
    | .unit cl, _ => [.mergeUnitMreq cl m.line]
    | .core c, .rack _ => [.coreRack c m.line]
    | .core c, _ => [.coreMreq c m.line]
    | _, _ => [])

/-- The events of groups: returns, acknowledgements, ends of waits. -/
def groupEvents (s : State) : List Instr :=
  s.groups.flatMap (fun e =>
    e.2.pend.map (fun p => .loadDataReturn e.1 p.tok) ++ e.2.unacked.map (fun t => .writeAck e.1 t)
      ++ (match e.2.run with
          | .bank _ => [.scratchRequestServe e.1]
          | .sleep _ => [.sleepExpiry e.1]
          | .running | .room | .release => []
          | _ => [.waitTimeout e.1]))

/-- The events of cores: movers, sweeps, slot tables. -/
def coreEvents (s : State) : List Instr :=
  s.cores.flatMap (fun e =>
    (if e.2.moves.isEmpty then [] else [.moverDescriptorStart e.1])
      ++ e.2.moves.flatMap (fun m => [.moverWrite e.1 m.id, .moverComplete e.1 m.id])
      ++ e.2.sweeps.map (fun w => .epochSweepEnd e.1 w.1) ++ [.slotTableApply e.1])

/-- The events of matrix engines and copy engines. -/
def engineEvents (s : State) : List Instr :=
  s.quads.flatMap (fun e =>
    .passGrant e.1 :: e.2.res.flatMap (fun r => r.2.ops.flatMap (fun o =>
      [.engineOpBegin e.1 o.id, .engineOpComplete e.1 o.id, .amaxMerge e.1 o.id]
        ++ o.inArray.map (fun p => .passComplete e.1 o.id p))))
    ++ s.engines.flatMap (fun e => [.copyEngineStart e.1, .copyEngineComplete e.1])

/-- The events of the dispatcher, the watchdog, the Sleeve and the Apron. -/
def dispatchEvents (s : State) : List Instr :=
  s.rings.map (fun e => .recordFetch e.1)
    ++ s.gangs.flatMap (fun e => [.coreHalted e.1, .contextRestore e.1 []] ++ (List.range e.2.colours.length).map (fun k => .colourFlip e.1 k))
    ++ s.teams.flatMap (fun e => [.teamEnd e.1, .runEnd e.1, .contextSave e.1, .heartbeatExpiry e.1])
    ++ s.launches.flatMap (fun e => [.launchComplete e.1, .wallClockExpiry e.1])
    ++ s.apron.flatMap (fun v => [.versionCommit v.line, .releaseAfterExpiry v.line v.entry])
    ++ s.fullAt.map (fun e => .apronForced e.1)
    ++ s.homes.flatMap (fun e => [.homeBase e.1, .homeMoveComplete e.1])
    ++ s.ctxs.flatMap (fun e => [.tlbinvDone e.1, .migrationFenceDone e.1])
    ++ [.teamPlace, .replayPlace, .authRunPlace]

/-- The acts that the device tries on its own, in this order: bring-up; then its engines; then its groups. -/
def State.candidates (s : State) : List Act :=
  if !s.ready then
    if s.fail then []
    else if s.phase = 0 then [.event .powerUp]
    else [.event (.bringUpPhaseEnd none)]
  else
    (netEvents s ++ groupEvents s ++ coreEvents s ++ engineEvents s ++ dispatchEvents s).map .event
      ++ (s.groups.foldl (fun l e => insertBy (fun k => (s.group k).issued) e.1 l) []).map .issue

/-- A turn of the device's own: one core cycle and one nanosecond pass. -/
def Turn.own (a : Act) : Turn := { dCycles := 1, dClk := 1, env := Env.quiet, hits := [], act := a }

/-! ## Placing one instruction where the next step fetches -/

/-- The launch under which a placed instruction runs: one role of one group with a full allocation. -/
def fetchLaunch (s : State) : Launch :=
  { Launch.none with
    kid := kvFresh s.nextKid s.launches, seq := s.stamp
    r := { LaunchRec.none with entry := 0x1000, roles := [⟨128, 128, 256, 1⟩], scratch := 65536 } }

/-- The block of a placed instruction: its two words, after a descriptor. -/
def fetchBlockOf (w : Nat) : CBlock :=
  { tenant := 0, addr := 0x1000, ent := ⟨2, 128, 32, .inherit⟩, words := [BitVec.ofNat 64 w, BitVec.ofNat 64 (w / 2 ^ 64)] }

/-- A state in which a new group of core 0 has entered a block that starts with an instruction, and has the next turn. -/
def State.placeWord (s : State) (w : Nat) : State :=
  let l := fetchLaunch s
  let (tk, s) := s.startTeam l .original 0 0 none none 0 [0]
  let s := { s with launches := kvSet s.launches l.kid l
                    gangs := kvSet s.gangs tk { kid := l.kid, members := [tk], cluster := 0, colours := [] }
                    agenda := { Turn.own (.issue (tk + 1)) with dCycles := 0, dClk := 0 } :: s.agenda }
  let s := s.modCore 0 (fun k => { k with icache := fetchBlockOf w :: k.icache })
  s.modGroup (tk + 1) (fun g =>
    { g with threads := g.threads.map (fun th => { th with ent := some (fetchBlockOf w).ent }) })

end Sys2Proof.Machine
end

