-- ==== Sys2Proof/Machine/Step.lean ====
section
/-!
DEFINITION. One step of the machine: the turn at the head of the agenda, or, when the agenda is empty, one of the device's own
(log 1).
-/
namespace Sys2Proof.Machine
open Sys2Proof

/-- Run what an act comes to. -/
def perform (s : State) (a : Act) : Host.Outcome State Fault Refusal :=
  match s.chosen a with
  | .run i => exec i (s.toIssue a)
  | .illegal h size => takeIllegal h size (s.toIssue a)
  | .pastEnd h => takePastEnd h (s.toIssue a)
  | .idle => .next s

/-- Let a turn end. -/
def closeTurn : Host.Outcome State Fault Refusal → Host.Outcome State Fault Refusal
  | .next s => .next s.endTurn
  | .fault r => .fault r
  | .refused r => .refused r

/-- Whether an act changes the machine at once. -/
def acts (s : State) (a : Act) : Bool :=
  match perform s a with
  | .next s' => decide (s' ≠ s)
  | _ => true

/-- The device's own choice when the agenda is empty, once the turn's time has passed: its first candidate that does something, else to
let time pass. -/
def ownAct (s : State) : Act := (s.candidates.find? (acts s)).getD (.issue 0)

/-- The state at the beginning of a turn of the device's own: one core cycle and one nanosecond have passed. -/
def State.beginOwn (s : State) : State := s.beginTurn (Turn.own (.event .powerUp))

/-- A step. -/
def step (s : State) : Host.Outcome State Fault Refusal :=
  match s.agenda with
  | t :: ts => closeTurn (perform (({ s with agenda := ts } : State).beginTurn t) t.act)
  | [] => closeTurn (perform s.beginOwn (ownAct s.beginOwn))

/-- The state s with an instruction stored where the next step fetches: its bits are the low nbits of w, the bits above are 0. -/
def State.withFetchWord (s : State) (nbits w : Nat) : State := s.placeWord (w % 2 ^ nbits)

end Sys2Proof.Machine
end

