-- ==== Sys2Proof/Safety.lean ====
section
/-!
DEFINITION. What the claims about runs are stated in: a step that goes on, and the conditions that every state of a run meets.
-/
namespace Sys2Proof.Machine
open Sys2Proof

/-- A step goes on: it ends in a next state, not in a fault or a refusal. -/
def goesOn (o : Host.Outcome State Fault Refusal) : Prop := ∃ t, o = .next t

/-- The memories keep their canonical form: rising addresses, and no entry equal to what an unlisted address reads as. -/
def State.memoryWf (s : State) : Prop := Memory.wf s.mem = true ∧ Memory.wf s.host = true

/-- The machine after a number of steps, while every step goes on. -/
def runs : Nat → State → State → Prop
  | 0, s, t => s = t
  | n + 1, s, t => ∃ u, step s = .next u ∧ runs n u t

end Sys2Proof.Machine
end

