-- ==== Sys2Proof/Certificates/Slice0/Obligations.lean ====
section
/-!
DEFINITION. The statements for the provers, with the conditions and the results that they speak of.
-/
namespace Sys2Proof.Claims
open Sys2Proof Sys2Proof.Machine

/-! ## The issue of an instruction -/

/-- The current group can issue: it is there, EXEC is not empty, and the turn brings no upset and no pre-emption (logs 1, 11). -/
def ready (h : Hdr) (size : Nat) (s : State) : Bool :=
  (kvGet s.groups s.cur).isSome && !(s.issue h size).ex.isEmpty && s.env.votes.isEmpty && s.env.cut.isNone

/-- The state once the guarded-off threads of the issuing set have passed over the instruction (01 R42). -/
def begun (h : Hdr) (size : Nat) (s : State) : State := s.advanceAll s.cur size (s.issue h size).guardedOff

/-- The state in which an instruction-level trap is taken: every thread of the issuing set stands at the instruction (01 R51). -/
def stood (h : Hdr) (size : Nat) (s : State) : State := (begun h size s).putBack s s.cur (s.issue h size).guardedOff

/-- With the park marker, the group once what has returned to it is in its registers (01 R45). -/
def landed (pk : Bool) (g : Group) : Group := if pk then g.land else g

/-- What every completed instruction leaves of its group (01 R44, R45; 15 R410): no resumption, its place in the order of issue, one
more completed instruction unless it is in its handler, and, with the park marker, the returned words in their registers and the park. -/
def closed (h : Hdr) (s : State) (g : Group) : Group :=
  { landed h.pk g with
    resume := none, begun := false, issued := s.stamp, seq := if g.inHandler then g.seq else (g.seq + 1) % 2 ^ 32
    parked := h.pk && s.outstanding s.cur }

/-! ## The lane instructions (05, 06) -/

/-- The lane instructions: header, size, and operands with the function from source values to the result and the flags. -/
def laneOf : Instr → Option (Hdr × Nat × LaneSpec)
  | .iadd f => some (f.h, 8, specArith f (· + ·))
  | .isub f => some (f.h, 8, specArith f (· - ·))
  | .imul f => some (f.h, 8, specArith f (· * ·))
  | .imulh f => some (f.h, 8, specArith f (fun a b => (a * b).fdiv (2 ^ tyWidth f.ty : Nat)))
  | .imin f => some (f.h, 8, specArith f (fun a b => if a ≤ b then a else b))
  | .imax f => some (f.h, 8, specArith f (fun a b => if a ≤ b then b else a))
  | .iabs f => some (f.h, 8, spec1 f (tyWords f.ty) (tyWords f.ty) (fun a => tyResult f.ty f.sat (tyVal f.ty a).natAbs))
  | .andB f => some (f.h, 8, specBits f (· &&& ·))
  | .orB f => some (f.h, 8, specBits f (· ||| ·))
  | .xorB f => some (f.h, 8, specBits f (· ^^^ ·))
  | .andn f => some (f.h, 8, specBits f andNot)
  | .shl f => some (f.h, 8, specShift f shiftLeft)
  | .shr f => some (f.h, 8, specShift f shiftRight)
  | .sar f => some (f.h, 8, specShift f shiftArith)
  | .rol f => some (f.h, 8, specShift f rotLeft)
  | .popc f => some (f.h, 8, specCount f popcount)
  | .clz f => some (f.h, 8, specCount f leadingZeros)
  | .ctz f => some (f.h, 8, specCount f trailingZeros)
  | .brev f => some (f.h, 8, spec1 f (tyWords f.ty) (tyWords f.ty) (bitReverse (tyWidth f.ty)))
  | .bfx f => some (f.h, 8, spec2 f 1 (bitField (f.ty == .s32)))
  | .lea f => some (f.h, 8, specLea f)
  | .icmp f => some (f.h, 8, specIcmp f)
  | .sel f => some (f.h, 8, specSel f)
  | .mov f => some (f.h, 8, spec1 f (tyWords f.ty) (tyWords f.ty) id)
  | .movToIndex f => some (f.h, 8, specToIndex f)
  | .movFromIndex f => some (f.h, 8, specFromIndex f)
  | .cvti f => some (f.h, 8, spec1 f (tyWords f.ty) (tyWords (tyOfCode f.sub.val)) (fun a => tyResult f.ty f.sat (tyVal (tyOfCode f.sub.val) a)))
  | .imad f => some (f.h, 8, spec3 f 1 1 (fun a b c => (a * b + c) % 2 ^ 32))
  | .imadwS32 f => some (f.h, 8, spec3 f 2 2 (fun a b c => Word.ofSigned 64 (Word.toSigned 32 a * Word.toSigned 32 b + c)))
  | .imadwN32 f => some (f.h, 8, spec3 f 2 2 (fun a b c => (a * b + c) % 2 ^ 64))
  | .lop3 f fx => some (f.h, 16, spec3 f 1 1 (lop3Fn (fx.toNat % 256)))
  | .fshl f => some (f.h, 8, spec3 f 1 1 (fun a b c => (a * 2 ^ 32 + b) * 2 ^ min c 32 / 2 ^ 32 % 2 ^ 32))
  | .bfi f => some (f.h, 8, spec3 f 1 1 bfiFn)
  | .prmt f => some (f.h, 8, spec3 f 1 1 prmtFn)
  | .movi f => some (f.h, 8, specMovi f)
  | .movh f => some (f.h, 8, specMovh f)
  | .fadd f => some (f.h, 8, fspec2 f 1 .w (addFn .f32 f.rnd))
  | .fsub f => some (f.h, 8, fspec2 f 1 .w (subFn .f32 f.rnd))
  | .fmul f => some (f.h, 8, fspec2 f 1 .w (mulFn .f32 f.rnd))
  | .fmin f => some (f.h, 8, fspec2 f 1 .w (fun a b => (fMinMax .f32 false a b).out))
  | .fmax f => some (f.h, 8, fspec2 f 1 .w (fun a b => (fMinMax .f32 true a b).out))
  | .fcmp f => some (f.h, 8, fspecCmp f 1 .w .f32)
  | .fclass f => some (f.h, 8, fspec1 f 1 (tyWords f.ty) (tyC f.ty) (fun a => (fClass ((tyFmt f.ty).getD .f32) a, 0)))
  | .fcvt f => some (f.h, 8, fspec1 f 1 1 (tyC (fcvtSrc f.sub)) (convert (fcvtSrc f.sub) f.ty f.rnd f.sat))
  | .frnd f => some (f.h, 8, fspec1 f 1 1 .w (fun a => (roundIntegral .f32 f.rnd a).out))
  | .fscl f => some (f.h, 8, fspec2 f 1 .w (fsclFn f.rnd))
  | .frcp f => some (f.h, 8, fspec1 f 1 1 .w (fun a => (approxFrcp (dec .f32 a)).out))
  | .frsq f => some (f.h, 8, fspec1 f 1 1 .w (fun a => (approxFrsq (dec .f32 a)).out))
  | .fsqrt f => some (f.h, 8, fspec1 f 1 1 .w (fun a => (exactFsqrt f.rnd a).out))
  | .fdivs f => some (f.h, 8, fspecDivs f)
  | .fex2 f => some (f.h, 8, fspec1 f 1 1 .w (fun a => (approxFex2 (dec .f32 a)).out))
  | .flg2 f => some (f.h, 8, fspec1 f 1 1 .w (fun a => (approxFlg2 (dec .f32 a)).out))
  | .fsin f => some (f.h, 8, fspec1 f 1 1 .w (fun a => (approxFsin (dec .f32 a)).out))
  | .fcos f => some (f.h, 8, fspec1 f 1 1 .w (fun a => (approxFcos (dec .f32 a)).out))
  | .dadd f => some (f.h, 8, fspec2 f 2 .f64 (addFn .f64 f.rnd))
  | .dsub f => some (f.h, 8, fspec2 f 2 .f64 (subFn .f64 f.rnd))
  | .dmul f => some (f.h, 8, fspec2 f 2 .f64 (mulFn .f64 f.rnd))
  | .dcmp f => some (f.h, 8, fspecCmp f 2 .f64 .f64)
  | .dcvt f => some (f.h, 8, fspec1 f (tyWords f.ty) (tyWords (dcvtSrc f.sub)) (tyC (dcvtSrc f.sub)) (convert (dcvtSrc f.sub) f.ty f.rnd f.sat))
  | .hadd2 f => some (f.h, 8, fspec2 f 1 (packC f.ty) (each2 (addFn (packF f.ty) f.rnd)))
  | .hmul2 f => some (f.h, 8, fspec2 f 1 (packC f.ty) (each2 (mulFn (packF f.ty) f.rnd)))
  | .hmax2 f => some (f.h, 8, fspec2 f 1 (packC f.ty) (each2 (fun a b => (fMinMax (packF f.ty) true a b).out)))
  | .cadd f => some (f.h, 8, fspec2 f 2 .w (caddFn f.rnd))
  | .cmul f => some (f.h, 8, fspec2 f 2 .w (cmulFn f.rnd))
  | .ccnj f => some (f.h, 8, fspec1 f 2 2 .w (fun a => (a ^^^ 2 ^ 63, 0)))
  | .ffma r f => some (f.h, 8, fspec3 f 1 1 1 1 .w .w (fmaFn .f32 r))
  | .dfma r f => some (f.h, 8, fspec3 f 2 2 2 2 .f64 .f64 (fmaFn .f64 r))
  | .hfma2Bf16 r f => some (f.h, 8, fspec3 f 1 1 1 1 .pbf16 .pbf16 (each3 (fmaFn .bf16 r)))
  | .hfma2F16 r f => some (f.h, 8, fspec3 f 1 1 1 1 .pf16 .pf16 (each3 (fmaFn .f16 r)))
  | .cfma r f => some (f.h, 8, fspec3 f 2 2 2 2 .w .w (cfmaFn r))
  | .cbfly r f => some (f.h, 8, fspec3 f 4 2 2 2 .w .w (cbflyFn r))
  | .fdot2Bf16 r f => some (f.h, 8, fspec3 f 1 1 1 1 .pbf16 .w (dot2Fn .bf16 r))
  | .fdot2F16 r f => some (f.h, 8, fspec3 f 1 1 1 1 .pf16 .w (dot2Fn .f16 r))
  | .plop f => some (f.h, 8, specPlop f)
  | .pmovSave f => some (f.h, 8, specPmovSave f)
  | .pmovLoad f => some (f.h, 8, specPmovLoad f)
  | .pmovNz f => some (f.h, 8, specPmovNz f)
  | .pcmp f => some (f.h, 8, specPcmp f)
  | .psel f => some (f.h, 8, specPsel f)
  | _ => none

/-- The result and the flags of a thread, from its sources as they stand before the instruction (01 R49, 05 R175). -/
def laneValue (sp : LaneSpec) (s : State) (is : Issue) (t : Nat) : Nat × FFlags := sp.f (sp.srcs.map (fun x => (s.srcOf is t x).val))

/-- Whether a source of a thread was read from a dead thread (01 R49). -/
def laneDead (sp : LaneSpec) (s : State) (is : Issue) (t : Nat) : Bool := sp.srcs.any (fun x => (s.srcOf is t x).dead)

/-- No thread of a list traps on an index or reads a poisoned word; a reading of %clk stands in no log. -/
def laneClear (sp : LaneSpec) (s : State) (is : Issue) (ts : List Nat) : Bool :=
  (sp.check s is).isNone && (!sp.readsClk || (!(s.launchOf is.key).checked && !s.isRerun is.key))
    && ts.all (fun t => !indexBound (s.roleOf is.key).vregs ((s.group is.key).thread t) sp.dst sp.srcs
      && !sp.srcs.any (fun x => (s.srcOf is t x).pois))

/-- A thread once a result is in its destination (01 R28, R29; 03 Table 3.5): z and p7 discard it. -/
def written (d : DstSpec) (x : Nat) (th : Thread) : Thread :=
  match d with
  | .reg (.v n) k => th.setV n.val (wordsOf k x)
  | .reg (.x i) k => th.setV (th.idx i.val) (wordsOf k x)
  | .reg _ _ => th
  | .pred p => th.setPred p (x % 2 = 1)
  | .preds => { th with p := BitVec.ofNat 7 x }
  | .idx i => { th with x := kvPut 0 th.x i (BitVec.ofNat 8 x) }

/-- gstat once some threads have raised their flags and their dead reads (01 R38, R49). -/
def raised (sp : LaneSpec) (s : State) (is : Issue) (ts : List Nat) (w : Word) : Word :=
  ts.foldl (fun w t => w ||| (laneValue sp s is t).2.zeroExtend 32 ||| (if laneDead sp s is t then 64 else 0)) w

/-- The group after a lane instruction with a destination per thread: each thread of EXEC has its result and passes over the
instruction, a guarded-off thread passes over it, no other thread changes. -/
def laneGroup (sp : LaneSpec) (s : State) (is : Issue) (g : Group) : Group :=
  { g with
    threads := (List.range g.threads.length).map (fun t =>
      if is.ex.contains t then (written sp.dst (laneValue sp s is t).1 (g.thread t)).advance is.size
      else if is.issuing.contains t then (g.thread t).advance is.size
      else g.thread t)
    gstat := raised sp s is is.ex g.gstat }

/-- The group after a uniform instruction (01 R48): the register is written once, from the values of the lowest thread. -/
def uniGroup (sp : LaneSpec) (o : Opnd) (k : Nat) (s : State) (is : Issue) (g : Group) : Group :=
  { (match o with | .s n => g.setS n.val (wordsOf k (laneValue sp s is is.lowest).1) | _ => g) with
    threads := (List.range g.threads.length).map (fun t => if is.issuing.contains t then (g.thread t).advance is.size else g.thread t)
    gstat := raised sp s is [is.lowest] g.gstat }

/-- A state that differs in its current group, and in the stamp of the next issue. -/
def afterGroup (s : State) (g : Group) : State := { s with groups := kvSet s.groups s.cur g, stamp := s.stamp + 1 }


/-! ## Group-once instructions (04 R135, 09 R251, 11 R306) -/

/-- A group-once instruction can run: besides `ready`, its operands are readable by the group, within the allocation (01 R26, 04
R135), its v[xn] destination is in bounds, and no source is poisoned. -/
def readyOnce (h : Hdr) (size : Nat) (d : Opnd × Nat) (srcs : List (Opnd × Nat)) (s : State) : Bool :=
  ready h size s && (onceCheck s (s.issue h size) d srcs).isNone
    && ((begun h size s).onceIdx (s.issue h size) d.1 d.2).isNone
    && srcs.all (fun x => !((begun h size s).onceSrc (s.issue h size) x.1 x.2).pois)

/-- A source of a group-once instruction: read once, as the lowest thread of EXEC reads it. -/
def arg (h : Hdr) (size : Nat) (s : State) (o : Opnd) (n : Nat) : Nat := ((begun h size s).onceSrc (s.issue h size) o n).val

/-- Complete an instruction in a state: EXEC passes over it, and it is closed. -/
def finished (h : Hdr) (size : Nat) (s u : State) : State :=
  (u.advanceAll s.cur size (s.issue h size).ex).complete h (s.issue h size)

/-- Whether the group is that of an original run of a launch that is not checked: it keeps no replay log (15 R409). -/
def unlogged (s : State) : Bool := !(s.launchOf s.cur).checked && !s.isRerun s.cur

/-! ## Control flow (04) -/

/-- The transfers: header, whether the return address is pushed, and the kind of target. -/
def transferOf : Instr → Option (Hdr × Bool × Target)
  | .bra f => some (f.h, false, .rel f.imm)
  | .call f => some (f.h, true, .rel f.imm)
  | .brx f => some (f.h, false, .reg f.a f.pa)
  | .callx f => some (f.h, true, .reg f.a f.pa)
  | .ret f => some (f.h, false, .stack)
  | _ => none

/-- The checks of a transfer's operand before any thread (01 R26, R51). -/
def transferOk (g : Target) (s : State) (is : Issue) : Bool :=
  match g with
  | .reg a pa => (operandCheck (s.roleOf is.key).vregs (s.roleOf is.key).sregs (.reg .z 1) [.reg a pa 2 .w] false).isNone && !opIsClk a
  | _ => true

/-- The target of a thread (04 R140, R142): relative to the instruction, an operand's 64 bits, or the top of its pocket stack. -/
def targetOf (g : Target) (is : Issue) (s : State) (t : Nat) : Nat :=
  match g with
  | .rel imm => Word.ofSigned 64 (is.w + 8 * imm.toInt)
  | .reg a pa => (s.source is t a pa 2 .w).val
  | .stack => Word.ofBytes (fileRead ((s.group is.key).thread t).pocket ((s.group is.key).thread t).psp.toNat 8)

/-- Whether a thread can transfer before its target is looked at: its operand is in bounds and not poisoned, and its pocket stack
has the room or the entry. -/
def stackOk (call : Bool) (g : Target) (is : Issue) (s : State) (t : Nat) : Bool :=
  let th := (s.group is.key).thread t
  (!call || 8 ≤ th.psp.toNat) &&
  (match g with
  | .rel _ => true
  | .reg a pa => !idxOut (s.roleOf is.key).vregs th a 2 && !(s.source is t a pa 2 .w).pois
  | .stack => th.psp.toNat + 8 ≤ (s.roleOf is.key).pocket && !filePoisAny th.pocket th.psp.toNat 8)

/-- A thread after its transfer (01 R40, 04 R140, R142): at the word after the target's descriptor, the return address pushed or
popped. -/
def moved (call : Bool) (g : Target) (w x : Nat) (th : Thread) : Thread :=
  (if call then { th with pocket := fileWrite th.pocket (th.psp.toNat - 8) (Word.toBytes 8 (w + 8)) false, psp := th.psp - 8 }
   else if g = .stack then { th with psp := th.psp + 8 } else th).enter x

/-- Threads transfer in ascending order, each once its target has been found to be a descriptor (04 R139); `none` where one fails.
`s0` is the state in which their operands are read. -/
def transfers (call : Bool) (g : Target) (is : Issue) (s0 : State) : List Nat → State → Option State
  | [], u => some u
  | t :: ts, u =>
    match checkTarget u is.key (targetOf g is s0 t) with
    | (none, u) =>
      transfers call g is s0 ts ((u.modThread is.key t (moved call g is.w (targetOf g is s0 t))).deadRead is.key
        (match g with | .reg a pa => (s0.source is t a pa 2 .w).dead | _ => false))
    | _ => none

/-- A group whose threads in a list become other threads by a function of their index. -/
def onThreads (g : Group) (ts : List Nat) (f : Nat → Thread → Thread) : Group :=
  { g with threads := (List.range g.threads.length).map (fun t => if ts.contains t then f t (g.thread t) else g.thread t) }

/-- The group of an issue once every thread of the issuing set has passed over the instruction. -/
def passed (is : Issue) (g : Group) : Group := onThreads g is.issuing (fun _ th => th.advance is.size)

/-- Whether a thread leaves a loop at ENDL by its predicate (04 R147). -/
def exits (f : F2) (th : Thread) : Bool := f.a ≠ .z && (th.pred (opNum f.a) ^^ f.sub.val.testBit 0)

/-- The loop that an ENDL ends, when it stands at the loop's end (04 R147). -/
def loopEnds (f : F2) (s : State) : Bool :=
  let l := (s.group s.cur).loops.getD (opNum f.d) LoopReg.idle
  l.active && (s.issue f.h 8).w == l.endAt

/-- The span that LOOP and LOOPW load, if the checks of 04 R145 and R146 pass, and the state that the loading leaves. -/
def spanOf (n : Nat) (imm : BitVec 24) (isW : Bool) (body : Nat) (s : State) : Option (List DWord × State) :=
  let g := s.group s.cur
  let len := imm.toNat - 1
  if (List.range 4).any (fun m => n ≤ m && (g.loops.getD m LoopReg.idle).active) then none
  else if imm.toInt < 3 || 1025 < imm.toInt then none
  else
    match checkTarget s s.cur body with
    | (none, u) =>
      match loadSpan (u.coreOf s.cur) (u.tenantOf s.cur) len body len u with
      | (.ok ws, u) => if startsAt ws 0 (len - 1) && endlFits n isW (ws.getD (len - 1) 0).toNat then some (ws, u) else none
      | _ => none
    | _ => none

/-- The loop register that LOOP or LOOPW sets up (04 R145). -/
def loopOf (body len rem max : Nat) (ws : List DWord) : LoopReg :=
  { active := true, rem := rem, max := max, body := BitVec.ofNat 57 body, len := len, buf := ws }

/-! ## Results of group-once instructions -/

/-- The group once a result of n words is in its destination (09 R251, 11 R306): a uniform register is written once, any other
destination in every thread of EXEC; the issuing set passes over the instruction. -/
def delivered (d : Opnd) (n x : Nat) (is : Issue) (g : Group) : Group :=
  match d with
  | .s k => passed is (g.setS k.val (wordsOf n x))
  | _ => onThreads g is.issuing (fun t th => (if is.ex.contains t then written (.reg d n) x th else th).advance is.size)

/-- The group once a predicate is in every thread of EXEC and the issuing set has passed. -/
def predicated (pd : Nat) (b : Bool) (is : Issue) (g : Group) : Group := onThreads (passed is g) is.ex (fun _ th => th.setPred pd b)

/-- The values of the control and status registers (11 Table 11.2). -/
def csrValue (s : State) (n : Nat) : Nat :=
  let g := s.group s.cur
  if n = 0x010 then g.gstat.toNat
  else if n = 0x011 then g.gclass.toNat
  else if n = 0x020 then g.tvec.toNat
  else if n = 0x021 then g.tcause.toNat
  else if n = 0x022 then g.texec.toNat
  else if n = 0x023 then g.taddr.toNat
  else if n = 0x0A0 then (s.core (s.coreOf s.cur)).cpdg.toNat
  else (g.tpc.getD (n - 0x040) 0).toNat

/-- The group after a CSRW (11 Table 11.2): gstat clears the flags that are written as 1, and the read-only registers ignore it. -/
def csrWritten (n x : Nat) (g : Group) : Group :=
  if n = 0x010 then { g with gstat := g.gstat &&& ~~~ (BitVec.ofNat 32 (x &&& 0x5F)) }
  else if n = 0x011 then { g with gclass := BitVec.ofNat 32 (x % 4) }
  else if n = 0x020 then { g with tvec := BitVec.ofNat 64 x }
  else g

/-- The event of a SIGACC (15 Table 15.3). -/
def sigEvent (f : F2) (g : Group) (t x : Nat) : SigEvent :=
  { kind := 0x0B, mask := 0, aux := tyCode f.ty * 2 ^ 16 + g.gid * 2 ^ 8 + t, addr := 0, d0 := BitVec.ofNat 64 x, d1 := 0 }

/-! ## Traps (11 R310, R311; 16 R434) -/

/-- The state in which a trap's record has been written (16 R440). -/
def recorded (s : State) (gk : Nat) (t : Trap) : State :=
  s.raiseThread gk (t.rthr.getD t.ridx) recTRAP (fun r =>
    { r with code := t.code, addr := t.addr, poison := t.pois, widx := t.rwidx.getD t.widx, desc := t.desc, ended := false })

/-- A group that enters its handler (11 R310): the PC vector, EXEC, the cause with HANDLER, the resume index and the address are
saved, and every live thread goes to the block at tvec; nothing else of it changes. -/
def handled (g : Group) (t : Trap) : Group :=
  { g with
    tpc := g.threads.map Thread.pcEntry
    tplace := g.threads.map Thread.place
    texec := BitVec.ofNat 32 (maskOf t.ex)
    tcause := BitVec.ofNat 32 (2 ^ 31 + t.widx % 4096 * 2 ^ 16 + (if t.done then 2 ^ 15 else 0) + kindCode t.kind * 2 ^ 13
      + t.ridx % 32 * 2 ^ 8 + t.code % 256)
    gstat := (g.gstat &&& ~~~ (BitVec.ofNat 32 0x1F0000)) ||| BitVec.ofNat 32 (t.ridx % 32 * 2 ^ 16)
    taddr := if [0x20, 0x21, 0x22, 0x23, 0x24].contains t.code then BitVec.ofNat 64 t.addr else 0
    tsize := t.size
    resume := none
    begun := false
    threads := g.threads.map (fun th => if th.st = .live then
      { th with pc := BitVec.ofNat 57 (g.tvec.toNat + 8), blk := BitVec.ofNat 57 g.tvec.toNat, ent := none, vw := [] } else th) }

/-- A live thread back at its saved place (11 R311). -/
def backAt (g : Group) (t : Nat) (th : Thread) : Thread :=
  if th.st = .live then
    let p := g.tplace.getD t th.place
    { th with pc := (g.tpc.getD t 0).truncate 57, blk := p.blk, ent := p.ent, vw := p.vw.foldl setInsert th.vw, entAt := p.entAt }
  else th

/-- The group after TRET (11 R311): HANDLER is clear and live threads are back at their saved places; after a complete instruction
nothing more; else TRET.skip passes the threads of the trapping EXEC from the resume index up over it, and TRET.resume has them
execute it. -/
def returned (skip : Bool) (g : Group) : Group :=
  let ridx := Word.bits g.tcause.toNat 12 8
  let back := { g with threads := (List.range g.threads.length).map (fun t => backAt g t (g.thread t)), tcause := g.tcause &&& 0x7FFFFFFF
                       resume := none }
  if g.tcause.getLsbD 15 then back
  else if skip then
    onThreads back ((ofMask g.texec.toNat).filter (fun t => ridx ≤ t && (back.thread t).st == .live)) (fun _ th => th.advance g.tsize)
  else { back with resume := some ⟨ofMask g.texec.toNat, ridx⟩ }

/-! ## Cross-thread instructions (07) -/

/-- The participants that a test holds of. -/
def those (ps : List (Nat × Nat)) (p : Nat × Nat → Bool) : List Nat := (ps.filter p).map (·.1)

/-- The running combination of values in order (07 R211), with the flags that it raises; `none` for no value. -/
def running (f : F2) : List Nat → Option (Nat × FFlags)
  | [] => none
  | a :: as => some (as.foldl (fun x b => let y := combine f.sub f.ty f.rnd x.1 b; (y.1, x.2 ||| y.2)) (entering f.ty a, 0))

def runValue (f : F2) (as : List Nat) : Nat := match running f as with | none => identOf f.sub f.ty | some x => x.1
def runFlags (f : F2) (as : List Nat) : FFlags := match running f as with | none => 0 | some x => x.2

/-- A cross-thread instruction as 07 describes it: header, destination, whether it has no uniform form, its source registers, what a
participant contributes, and each participant's result, with the flags, from all contributions. -/
structure Cross where
  h     : Hdr
  dst   : DstSpec
  noUni : Bool
  srcs  : List SrcSpec
  src   : Issue → State → Nat → Src
  res   : List (Nat × Nat) → Nat → Nat
  fl    : List (Nat × Nat) → FFlags

def crossOf : Instr → Option Cross
  | .vote f => some ⟨f.h, if f.sub.val.testBit 2 then .pred (opNum f.d) else .reg f.d 1, false, [], fun is s t => s.srcOf is t (.pred (opNum f.a)),
      fun ps _ => toBit (match f.sub.val % 4 with
        | 0 => ps.all (fun p => p.2 = 1)
        | 1 => ps.any (fun p => p.2 = 1)
        | 2 => ps.all (fun p => p.2 = 1) || ps.all (fun p => p.2 ≠ 1)
        | _ => ps.all (fun p => p.2 ≠ 1)), fun _ => 0⟩
  | .ballot f => some ⟨f.h, .reg f.d 1, false, [], fun is s t => s.srcOf is t (.pred (opNum f.a)),
      fun ps _ => maskOf (those ps (fun p => p.2 = 1)), fun _ => 0⟩
  | .matchT f => some ⟨f.h, .reg f.d 1, true, [.reg f.a 0 (tyWords f.ty) (tyC f.ty)], fun is s t => s.srcOf is t (.reg f.a 0 (tyWords f.ty) (tyC f.ty)),
      fun ps t => maskOf (those ps (fun p => p.2 % 2 ^ tyWidth f.ty = (ps.lookup t).getD 0 % 2 ^ tyWidth f.ty)), fun _ => 0⟩
  | .rank f => some ⟨f.h, .reg f.d 1, true, [], fun is s t => s.srcOf is t (.pred (opNum f.a)),
      fun ps t => (those ps (fun p => p.1 < t && p.2 = 1)).length, fun _ => 0⟩
  | .scani f => some ⟨f.h, .reg f.d (tyWords f.ty), true, [.reg f.a 0 (tyWords f.ty) (tyC f.ty)],
      fun is s t => s.srcOf is t (.reg f.a 0 (tyWords f.ty) (tyC f.ty)),
      fun ps t => runValue f ((ps.filter (fun p => p.1 ≤ t)).map (·.2)), fun ps => runFlags f (ps.map (·.2))⟩
  | .scanx f => some ⟨f.h, .reg f.d (tyWords f.ty), true, [.reg f.a 0 (tyWords f.ty) (tyC f.ty)],
      fun is s t => s.srcOf is t (.reg f.a 0 (tyWords f.ty) (tyC f.ty)),
      fun ps t => runValue f ((ps.filter (fun p => p.1 < t)).map (·.2)), fun ps => runFlags f (ps.map (·.2))⟩
  | .redg f => some ⟨f.h, .reg f.d (tyWords f.ty), false, [.reg f.a 0 (tyWords f.ty) (tyC f.ty)],
      fun is s t => s.srcOf is t (.reg f.a 0 (tyWords f.ty) (tyC f.ty)),
      fun ps _ => runValue f (ps.map (·.2)), fun ps => runFlags f (ps.map (·.2))⟩
  | .shfl f => some ⟨f.h, .reg f.d (tyWords f.ty), true, [.reg f.a 0 (tyWords f.ty) (tyC f.ty), .reg f.b 0 1 .w],
      fun is s t =>
        let b := s.source is t f.b 0 1 .w
        if b.pois then b else routedRead is s s t (shflSrc f.sub.val t b.val) f.a (tyWords f.ty) (tyC f.ty),
      fun ps t => (ps.lookup t).getD 0, fun _ => 0⟩
  | .pick f => some (pickOf f (fun is s => (s.source is is.lowest f.b 0 1 .w).val % 32))
  | .pickFirst f => some (pickOf f (fun is _ => is.lowest))
  | _ => none
where
  /-- PICK: every participant takes one routed read. -/
  pickOf (f : F2) (j : Issue → State → Nat) : Cross :=
    ⟨f.h, .reg f.d (tyWords f.ty), false, [.reg f.a 0 (tyWords f.ty) (tyC f.ty), .reg f.b 0 1 .w],
      fun is s _ =>
        let b := s.source is is.lowest f.b 0 1 .w
        if b.pois then b else routedRead is s s is.lowest (j is s) f.a (tyWords f.ty) (tyC f.ty),
      fun ps t => (ps.lookup t).getD 0, fun _ => 0⟩

/-- Whether PICK's source of the thread number varies, and whether SHFL's destination overlaps what it reads (07 R206, R214). -/
def crossBad : Instr → Bool
  | .shfl f => shflOverlap f
  | .pick f | .pickFirst f => opVaries f.b
  | _ => false

/-- A cross-thread instruction can run: its registers are within the allocation, no uniform destination where there is no such form,
no participant's contribution is poisoned, and no participant reads %clk. -/
def crossClear (i : Instr) (c : Cross) (s : State) : Bool :=
  let is := s.issue c.h 8
  let r := s.roleOf s.cur
  let out := fun (x : SrcSpec) => match x with | .reg o _ n _ => regOut r.vregs r.sregs o n | _ => false
  ready c.h 8 s && !crossBad i && !(c.dst.isUniform && c.noUni) && !(match c.dst with | .reg o n => regOut r.vregs r.sregs o n | _ => false)
    && !c.srcs.any (fun x => out x || (match x with | .reg o _ _ _ => opIsClk o | _ => false))
    && is.ex.all (fun t => !(c.src is s t).pois)

/-- The group after a cross-thread instruction: each participant takes its result (a uniform register takes the common one, once),
the issuing set passes, and gstat takes the flags and the dead read. -/
def crossGroup (c : Cross) (s : State) (g : Group) : Group :=
  let is := s.issue c.h 8
  let ps := is.ex.map (fun t => (t, (c.src is s t).val))
  let g := match c.dst with
    | .reg (.s k) n => passed is (g.setS k.val (wordsOf n (c.res ps is.lowest)))
    | d => onThreads g is.issuing (fun t th => (if is.ex.contains t then written d (c.res ps t) th else th).advance 8)
  { g with gstat := g.gstat ||| (c.fl ps).zeroExtend 32 ||| (if is.ex.any (fun t => (c.src is s t).dead) then 64 else 0) }

/-! ## Memory and atomic instructions (08) -/

/-- A memory instruction as 08 describes it: its fields, whether it runs once, its destination in words, its sources with the address
first, its address width, whether it writes, releases and acquires, and what one thread's turn, the n-th of the instruction, does at its
address: `none` where it traps or waits.  `s` is the state in which the sources are read, `u` the state at the turn. -/
structure Mem where
  f     : FM
  once  : Bool
  dst   : Opnd × Nat
  srcs  : List SrcSpec
  abits : Nat
  wr    : Bool
  rel   : Bool
  acq   : Bool
  act   : State → Issue → Nat → Nat → Nat → State → Option State

/-- A source's value. -/
def srcVal (s : State) (is : Issue) (t : Nat) (x : SrcSpec) : Nat := (s.srcOf is t x).val

/-- The address of a thread (08 R219, R220, R222): the sum of the operand and the offset, modulo the width. -/
def memAddr (m : Mem) (s : State) (is : Issue) (t : Nat) : Nat :=
  Word.ofSigned m.abits ((match m.srcs with | x :: _ => (srcVal s is t x : Int) | [] => 0) + extOff m.f.ext)

/-- An outstanding result with its words fixed (01 R45, 08 R229), in the request that the turn has opened (08 R226); a load keeps how it is
issued again (14 R388). -/
def pend (t : Nat) (d : Opnd) (ws : List RegWord) (u : State) (again : Option Again := none) : State :=
  { u.modGroup u.cur (fun g => { g with
      pend := g.pend ++ [⟨u.stamp, t, true, u.env.req.map (·.2), again, false, (u.loadDsts u.cur t d ws.length).zip ws⟩] }) with stamp := u.stamp + 1 }

/-- A global access that its page permits and that finds a slot of its lane, at a device address that no update-only state concerns, of a
launch that is not checked, on a core with an empty side log (08 R224, R226, R243; 13): its translation, its place, and the state that
translating leaves. -/
def place (va n : Nat) (cp : Cpol) (align : Nat) (nd : Need) (u : State) : Option (Xlat × Nat × State) :=
  if !(u.core (u.coreOf u.cur)).slog.isEmpty then none
  else
    match u.gCheck u.cur ⟨va, n, cp⟩ align nd with
    | (.ok x pa, v) =>
      if outside x pa || !v.inMap pa || (v.launchOf v.cur).checked || v.isRerun v.cur || !(linesOf pa n).all v.linePlain
          || v.laneFull v.cur u.env.req then none
      else some (x, pa, v)
    | _ => none

/-- Where a write finds its place: the group's outstanding loads of its bytes precede it (12 R335). -/
def placeW (va n : Nat) (cp : Cpol) (nd : Need) (u : State) : Option (Xlat × Nat × State) :=
  place va n cp n nd (u.settleLoads u.cur false va n)

/-- The words at a place of memory, with their poison. -/
def wordsAt (u : State) (pa n : Nat) : List RegWord := loadWords pa (u.memRead pa n) (fun a => u.memPois a 1)

/-- A load (08 R225): from a valid copy of the line in L1 where the hint lets it, which shows the writes that are on their way (12 R341),
else through L2, filling L1 (12 R326, R331). -/
def loadTurn (d : Opnd) (t va : Nat) (x : Xlat) (pa n : Nat) (cp : Cpol) (u : State) : Option State :=
  let c := u.coreOf u.cur
  let again : Option Again := some (.glob va n cp (u.loadDsts u.cur t d (wordsFor n)))
  match (if usesL1 cp x pa then u.l1Copy c .plain (pa / 64) else none) with
  | some l =>
    (u.addProducers (u.group u.cur).team ((l.from_.filter (fun e => pa % 64 ≤ e.1 && e.1 < pa % 64 + n)).map (·.2))).map (fun u =>
      pend t d (loadWords (pa % 64) ((l.data.drop (pa % 64)).take n) (fun a => l.pois.contains (a / 16))) (u.seesLine u.cur (pa / 64)) again)
  | none =>
    let v := (if usesL1 cp x pa then u else u.l1Drop c (pa / 64)).l2Touch (pa / 64) (useOf cp x pa)
    let w := if usesL1 cp x pa then v.l1Fill c (pa / 64) .plain cp (v.lineCells (pa / 64)) else v
    some (pend t d (wordsAt w pa n) w again)

/-- A load that acquires (12 R335, R339): from the home, and the core keeps no copy of the line. -/
def acquireTurn (d : Opnd) (t : Nat) (x : Xlat) (pa n : Nat) (cp : Cpol) (u : State) : State :=
  let v := (linesOf pa n).foldl (fun s l => s.l2Touch l (useOf cp x pa)) (u.l1Drop (u.coreOf u.cur) (pa / 64))
  pend t d (wordsAt v pa n) v

/-- A load from constant memory (08 R222; 12 Table 12.1): from the launch's constant line in L1, else through L2, filling it; words beyond the
bytes that the launch supplies are 0. -/
def constTurn (d : Opnd) (t : Nat) (x : Xlat) (pa n k : Nat) (u : State) : State :=
  let c := u.coreOf u.cur
  let view : L1View := .const (u.launchOf u.cur).kid
  let l1 := usesL1 .dflt x pa && decide (pa % 64 + k ≤ 64)
  let all (ws : List RegWord) : List RegWord := ws ++ List.replicate (wordsFor n - ws.length) RegWord.zero
  match (if l1 then u.l1Copy c view (pa / 64) else none) with
  | some l => pend t d (all (loadWords 0 ((l.data.drop (pa % 64)).take k) (fun a => l.pois.contains ((a + pa % 64) / 16)))) u
  | none =>
    let v := (linesOf pa k).foldl (fun s l => s.l2Touch l (useOf .dflt x pa)) u
    pend t d (all (wordsAt v pa k)) (if l1 then v.l1Fill c (pa / 64) view .dflt (v.lineCells (pa / 64)) else v)

/-- A store (08 R225): its bytes are in memory and in a valid copy of L1, its write is performed, and the home's die knows the clock of the
core's die (12 R342). -/
def storeTurn (x : Xlat) (pa : Nat) (cp : Cpol) (bs : List Byte) (u : State) : State :=
  ((((({ u with stamp := u.stamp + 1 } : State).l1Store (u.coreOf u.cur) .plain pa bs).plainWrite pa bs false (useOf cp x pa)).carryClock
    (u.coreOf u.cur) pa).performed u.cur u.stamp)

/-- An atomic (08 R233): the old value is its result; a poisoned element stays; a compare and swap writes only where it compares
equal. -/
def atomicTurn (d : Opnd) (t : Nat) (x : Xlat) (pa n : Nat) (cp : Cpol) (op : AtomOp) (u : State) : State :=
  let use := useOf cp x pa
  let v := (({ u with stamp := u.stamp + 1 } : State).l1Drop (u.coreOf u.cur) (pa / 64)).l2Touch (pa / 64) use
  let old := Word.ofBytes (v.memRead pa n)
  let p := v.memPois pa n
  let w := if p then v
    else match op with
      | .cas b _ => if old = b % 2 ^ (8 * n) then v.plainWrite pa (Word.toBytes n (atomNew op n old)) false use else v
      | _ => v.plainWrite pa (Word.toBytes n (atomNew op n old)) false use
  (pend t d (wordsFrom (Word.toBytes n old) p) (w.carryClock (u.coreOf u.cur) pa)).performed u.cur u.stamp

/-- The same on a team's scratch (08 R220, R233). -/
def scrAtomicTurn (d : Opnd) (t : Nat) (p : ScrAt) (n : Nat) (op : AtomOp) (u : State) : State :=
  let f := (u.team p.tk).scratch
  let old := Word.ofBytes (fileRead f p.off n)
  let pois := filePoisAny f p.off n
  let put := fun (v : State) => v.modTeam p.tk (fun tm => { tm with scratch := fileWrite tm.scratch p.off (Word.toBytes n (atomNew op n old)) false })
  pend t d (wordsFrom (Word.toBytes n old) pois)
    (if pois then u else match op with | .cas b _ => if old = b % 2 ^ (8 * n) then put u else u | _ => put u)

/-- A scratch address that its team may access and that its banks serve in the cycle of the turn; a remote one in a launch that is not
checked (08 R220, R224; 12 R325): the place, and the state in which the banks are given. -/
def scrPlaceOf (a n pos : Nat) (u : State) : Option (ScrAt × State) :=
  match u.scrCheck (u.group u.cur).team a n n with
  | .ok p =>
    let r := u.scrRequest (u.team p.tk).core (u.teamOf u.cur).kid (if p.remote then rankRemote else rankLane (u.group u.cur).lane)
      (scrWordsOf p.off n) (u.cycle + pos)
    if (p.remote && ((u.launchOf u.cur).checked || u.isRerun u.cur)) || r.1 ≠ u.cycle + pos then none else some (p, r.2)
  | .error _ => none

/-- The same for a write: the group's outstanding loads of its bytes precede it (12 R335). -/
def scrPlaceW (a n pos : Nat) (u : State) : Option (ScrAt × State) :=
  (scrPlaceOf a n pos u).map (fun r => (r.1, r.2.settleLoads u.cur true r.1.addr n))

def pocketOk (a n : Nat) (u : State) : Bool := a + n ≤ (u.roleOf u.cur).pocket && a % n = 0

/-- The address register of a width in bits. -/
def addrSrc (f : FM) (abits : Nat) : SrcSpec := .reg f.a f.pa (abits / 32) .w

def loadMem (f : FM) (abits : Nat) (acq : Bool) (act : State → Issue → Nat → Nat → Nat → State → Option State) : Mem :=
  ⟨f, opIsUniform f.d, (f.d, wordsFor (widthBytes f.width)), [addrSrc f abits], abits, false, false, acq, act⟩
def storeMem (f : FM) (abits : Nat) (rel : Bool) (act : State → Issue → Nat → Nat → Nat → State → Option State) : Mem :=
  ⟨f, uniOperand f.a && uniOperand f.d, noDst, [addrSrc f abits, .reg f.d 0 (wordsFor (widthBytes f.width)) .w], abits, true, rel, false, act⟩
def atomMem (f : FM) (abits n : Nat) (cf : CFmt) (cas : Bool) (act : State → Issue → Nat → Nat → Nat → State → Option State) : Mem :=
  ⟨f, opIsUniform f.d, (f.d, wordsFor n), [addrSrc f abits, .reg f.b 0 (wordsFor n) cf] ++ (if cas then [.reg (extC f.ext) 0 (wordsFor n) .w] else []),
    abits, true, isRel f.ord, isAcq f.ord, act⟩

/-- The second and third sources. -/
def second (m : List SrcSpec) (s : State) (is : Issue) (t : Nat) : Nat := match m with | _ :: x :: _ => srcVal s is t x | _ => 0
def third (m : List SrcSpec) (s : State) (is : Issue) (t : Nat) : Nat := match m with | _ :: _ :: x :: _ => srcVal s is t x | _ => 0

def dataOf (f : FM) : SrcSpec := .reg f.d 0 (wordsFor (widthBytes f.width)) .w
def bOf (f : FM) (n : Nat) (cf : CFmt) : SrcSpec := .reg f.b 0 (wordsFor n) cf
def cOf (f : FM) (n : Nat) : SrcSpec := .reg (extC f.ext) 0 (wordsFor n) .w

/-- What CCTL and PREF do at a line (08 R239, R240; 12 R326, R331): bring it into L2, and into L1 where the hint and the page let it; write it
back; write it back and drop it from L2 and the core's L1; a line in the update-only state is merged first.  An unmapped address holds no
line. -/
inductive LineOp where
  | pref (cp : Cpol)
  | clean
  | inval

def lineTurn (op : LineOp) (va : Nat) (u : State) : State :=
  match lineXlat u u.cur va with
  | (none, u) => u
  | (some (x, pa), u) =>
    match op with
    | .pref cp =>
      let tk := (u.group u.cur).team
      if x.r && effAttr x pa = .wb && u.inMap pa && u.linePlain (pa / 64) then
        let v := u.l2Touch (pa / 64) (useOf cp x pa)
        let cells := if (u.launchOf u.cur).checked then v.composed tk (pa / 64) else v.lineCells (pa / 64)
        if usesL1 cp x pa then v.l1Fill (u.coreOf u.cur) (pa / 64) (v.viewOf tk) cp cells else v
      else u
    | .clean => if outside x pa || !u.inMap pa then u else (u.settle (pa / 64)).clean (pa / 64)
    | .inval =>
      if outside x pa || !u.inMap pa then u else ((u.settle (pa / 64)).l2Drop (pa / 64)).l1Drop (u.coreOf u.cur) (pa / 64)

/-- CCTL on the range of each thread (08 R240). -/
def cctlMem (f : FM) (op : LineOp) : Mem :=
  ⟨f, uniOperand f.a && uniOperand f.b, noDst, [addrSrc f 64, .reg f.b 0 1 .w], 64, false, false, false, fun s is t _ a u =>
    let n := srcVal s is t (.reg f.b 0 1 .w)
    if 2 ^ 57 < a + n || 2 ^ 57 ≤ a then none
    else some (if u.isRerun u.cur then u else (if n = 0 then [] else linesOf a n).foldl (fun u l => lineTurn op (l * 64) u) u)⟩

def memOf : Instr → Option Mem
  | .pref f => some ⟨f, uniOperand f.a, noDst, [addrSrc f 64], 64, false, false, false, fun _ _ _ _ a u =>
      some (if u.isRerun u.cur then u else lineTurn (.pref f.cpol) a u)⟩
  | .cctlPref f => some (cctlMem f (.pref f.cpol))
  | .cctlClean f => some (cctlMem f .clean)
  | .cctlInval f => some (cctlMem f .inval)
  | .ldg f => some (loadMem f 64 false (fun _ _ t _ a u =>
      (place a (widthBytes f.width) f.cpol (widthBytes f.width) ⟨true, false, false, false⟩ u).bind (fun r =>
        loadTurn f.d t a r.1 r.2.1 (widthBytes f.width) f.cpol r.2.2)))
  | .ldga f => some (loadMem f 64 true (fun _ _ t _ a u =>
      (place a (widthBytes f.width) f.cpol (widthBytes f.width) ⟨true, false, false, false⟩ u).map (fun r =>
        acquireTurn f.d t r.1 r.2.1 (widthBytes f.width) f.cpol r.2.2)))
  | .stg f => some (storeMem f 64 false (fun s is t _ a u =>
      (placeW a (widthBytes f.width) f.cpol ⟨false, true, false, false⟩ u).map (fun r =>
        storeTurn r.1 r.2.1 f.cpol (Word.toBytes (widthBytes f.width) (srcVal s is t (dataOf f))) r.2.2)))
  | .stgr f => some (storeMem f 64 true (fun s is t _ a u =>
      (placeW a (widthBytes f.width) f.cpol ⟨false, true, false, false⟩ u).map (fun r =>
        storeTurn r.1 r.2.1 f.cpol (Word.toBytes (widthBytes f.width) (srcVal s is t (dataOf f))) r.2.2)))
  | .lds f | .ldsx f => some (loadMem f 32 false (fun _ _ t pos a u =>
      let n := widthBytes f.width
      (scrPlaceOf a n pos u).map (fun r =>
        pend t f.d (loadWords r.1.off (fileRead (u.team r.1.tk).scratch r.1.off n) (fun i => filePoisAny (u.team r.1.tk).scratch i 1)) r.2
          (some (.scr r.1.addr n (u.loadDsts u.cur t f.d (wordsFor n)))))))
  | .sts f | .stsx f => some (storeMem f 32 false (fun s is t pos a u =>
      (scrPlaceW a (widthBytes f.width) pos u).map (fun r =>
        r.2.modTeam r.1.tk (fun tm => { tm with
          scratch := fileWrite tm.scratch r.1.off (Word.toBytes (widthBytes f.width) (srcVal s is t (dataOf f))) false }))))
  | .ldk f => some (loadMem f 32 false (fun _ _ t _ a u =>
      if pocketOk a (widthBytes f.width) u then
        let k := ((u.group u.cur).thread t).pocket
        some (pend t f.d (loadWords a (fileRead k a (widthBytes f.width)) (filePois k)) u)
      else none))
  | .stk f => some (storeMem f 32 false (fun s is t _ a u =>
      if pocketOk a (widthBytes f.width) u then
        some (u.modThread u.cur t (fun th => { th with
          pocket := fileWrite th.pocket a (Word.toBytes (widthBytes f.width) (srcVal s is t (dataOf f))) false }))
      else none))
  | .ldc f => some (loadMem f 32 false (fun _ _ t _ a u =>
      let n := widthBytes f.width
      let r := (u.launchOf u.cur).r
      let k := min n (r.constLen - a)
      if 65536 < a + n || a % n ≠ 0 then none
      else if k = 0 then some (pend t f.d (wordsFrom (List.replicate n 0) false) u)
      else (place ((r.const + a) % 2 ^ 64) k .dflt 1 ⟨true, false, false, false⟩ u).map (fun q => constTurn f.d t q.1 q.2.1 n k q.2.2)))
  | .atomg f =>
    let ty := tyOfCode (extAty f.ext)
    let n := tyWidth ty / 8
    some (atomMem f 64 n (tyC ty) false (fun s is t _ a u =>
      (placeW a n f.cpol ⟨true, true, true, false⟩ u).map (fun r =>
        atomicTurn f.d t r.1 r.2.1 n f.cpol (.rmw (extAop f.ext) ty (srcVal s is t (bOf f n (tyC ty)) % 2 ^ (8 * n))) r.2.2)))
  | .casg f =>
    let n := tyWidth (tyOfCode (extAty f.ext)) / 8
    some (atomMem f 64 n .w true (fun s is t _ a u =>
      (placeW a n f.cpol ⟨true, true, true, false⟩ u).map (fun r =>
        atomicTurn f.d t r.1 r.2.1 n f.cpol (.cas (srcVal s is t (bOf f n .w) % 2 ^ (8 * n)) (srcVal s is t (cOf f n) % 2 ^ (8 * n))) r.2.2)))
  | .xchg f =>
    let n := widthBytes f.width
    some (atomMem f 64 n .w false (fun s is t _ a u =>
      (placeW a n f.cpol ⟨true, true, true, false⟩ u).map (fun r =>
        atomicTurn f.d t r.1 r.2.1 n f.cpol (.xchg (srcVal s is t (bOf f n .w) % 2 ^ (8 * n))) r.2.2)))
  | .atoms f =>
    let ty := tyOfCode (extAty f.ext)
    let n := tyWidth ty / 8
    some (atomMem f 32 n (tyC ty) false (fun s is t pos a u =>
      (scrPlaceW a n pos u).map (fun r => scrAtomicTurn f.d t r.1 n (.rmw (extAop f.ext) ty (srcVal s is t (bOf f n (tyC ty)) % 2 ^ (8 * n))) r.2)))
  | .cass f =>
    let n := tyWidth (tyOfCode (extAty f.ext)) / 8
    some (atomMem f 32 n .w true (fun s is t pos a u =>
      (scrPlaceW a n pos u).map (fun r =>
        scrAtomicTurn f.d t r.1 n (.cas (srcVal s is t (bOf f n .w) % 2 ^ (8 * n)) (srcVal s is t (cOf f n) % 2 ^ (8 * n))) r.2)))
  | .red f =>
    let ty := tyOfCode (extAty f.ext)
    let tag : RedTag := ⟨extAop f.ext, ty⟩
    some ⟨f, uniOperand f.a && uniOperand f.b, noDst, [addrSrc f 64, bOf f (tyWidth ty / 8) (tyC ty)], 64, true, isRel f.ord, false, fun s is t _ a u =>
      (placeW a tag.size f.cpol ⟨false, true, false, true⟩ u).bind (fun r =>
        if r.2.2.mustHold (u.group u.cur).team (r.2.1 / 64) (r.2.1 % 64) tag.size then none
        else match (({ r.2.2 with stamp := r.2.2.stamp + 1 } : State).modGroup u.cur (fun g =>
              { g with unapplied := g.unapplied ++ [r.2.2.stamp] })).contribute (u.teamOf u.cur).core u.cur r.2.2.stamp r.2.1 tag
              (srcVal s is t (bOf f (tyWidth ty / 8) (tyC ty)) % 2 ^ (8 * tag.size)) false true with
          | .ok v => some v
          | .wait _ => none)⟩
  | _ => none

/-- The Reproducible attribute bars a floating-point add of ATOMG and ATOMS (08 R249). -/
def memBarred : Instr → State → Bool
  | .atomg f, s | .atoms f, s => ordersMatter f && (s.launchOf s.cur).r.repro
  | _, _ => false

/-- The instruction's own operands are in order for some threads: its registers are within the allocation and in bounds, no source is
poisoned, none reads %clk, no held-over scratch request of it has been served. -/
def memClear (m : Mem) (s : State) (is : Issue) (ts : List Nat) : Bool :=
  (operandCheck (s.roleOf s.cur).vregs (s.roleOf s.cur).sregs (.reg m.dst.1 m.dst.2) m.srcs false).isNone && !(s.group s.cur).served
    && !m.srcs.any (fun x => match x with | .reg o _ _ _ => opIsClk o | _ => false)
    && ts.all (fun t => !indexBound (s.roleOf s.cur).vregs ((s.group s.cur).thread t) (.reg m.dst.1 m.dst.2) m.srcs
      && !m.srcs.any (fun x => (s.srcOf is t x).pois))

/-- One thread's turn, the `pos`-th: a release waits for the group's earlier accesses; then the access, the dead read, and the release; the first
write after a FENCE that releases is a release too (08 R225; 12 R338, R344). -/
def memTurn (m : Mem) (s : State) (is : Issue) (t pos : Nat) (u : State) : Option State :=
  if m.rel && !u.releaseReady u.cur m.f.scope then none
  else (m.act s is t pos (memAddr m s is t) { u with env := { u.env with rel := m.rel || (m.wr && (u.group u.cur).fenced) } }).map (fun u =>
    let u := u.deadRead u.cur (m.srcs.any (fun x => (s.srcOf is t x).dead))
    let u := if m.wr && (u.group u.cur).fenced then u.modGroup u.cur (fun g => { g with fenced := false }) else u
    if m.rel then u.release u.cur m.f.scope else u)

/-- The turns of threads in ascending order. -/
def memTurns (m : Mem) (s : State) (is : Issue) : List Nat → State → Option State
  | [], u => some u
  | t :: ts, u => (memTurn m s is t (posOf t is.ex) u).bind (fun u => memTurns m s is ts (u.modThread u.cur t (fun th => th.advance is.size)))

/-- The state after a memory instruction's turns. -/
def memState (m : Mem) (size : Nat) (s : State) : Option State :=
  let is := s.issue m.f.h size
  ((if m.once then (memTurn m s is is.lowest 0 (begun m.f.h size s)).map (fun u => u.advanceAll u.cur size is.ex)
    else memTurns m s is is.ex (begun m.f.h size s))).map (fun u => if m.acq then u.acquire u.cur m.f.scope else u)

/-- The bytes of device memory that a turn of a global store or atomic writes, its address translated by the heap window (16 R451). -/
def storedAt (i : Instr) (m : Mem) (s : State) (is : Issue) (t : Nat) (a : Nat) : Bool :=
  let n := match i with
    | .stg f | .stgr f | .xchg f => widthBytes f.width
    | .atomg f | .casg f => tyWidth (tyOfCode (extAty f.ext)) / 8
    | _ => 0
  match windowXlat (s.ctx (s.tenantOf s.cur)) (memAddr m s is t) with
  | some x => x.phys (memAddr m s is t) ≤ a && a < x.phys (memAddr m s is t) + n
  | none => false

/-- The bytes that one access of a memory instruction touches. -/
def accessBytes : Instr → Nat
  | .ldg f | .ldga f | .stg f | .stgr f | .lds f | .ldsx f | .sts f | .stsx f | .ldk f | .stk f | .xchg f => widthBytes f.width
  | .atomg f | .casg f | .atoms f | .cass f | .red f => tyWidth (tyOfCode (extAty f.ext)) / 8
  | _ => 1

/-- The space of a memory instruction (08 R218). -/
inductive Space where
  | global | scratch | pocket | other
deriving DecidableEq, Repr

def spaceOf : Instr → Space
  | .ldg _ | .ldga _ | .stg _ | .stgr _ | .atomg _ | .casg _ | .xchg _ | .red _ => .global
  | .lds _ | .ldsx _ | .sts _ | .stsx _ | .atoms _ | .cass _ => .scratch
  | .ldk _ | .stk _ => .pocket
  | _ => .other

/-! ## Barriers, colours, queues, deques, convergence (09) -/

/-- A scratch address of 16 aligned bytes that an arrival may name, in a launch without a replay log (09 R252, R267). -/
def barrierAt (addr : Nat) (u : State) : Option ScrAt :=
  match u.scrCheck (u.group u.cur).team addr 16 16 with | .ok p => some p | .error _ => none

/-- The scope at which an arrival is a release (09 R267). -/
def arriveScope (p : ScrAt) : Scope := if p.remote then .gang else .team

/-- What the model keeps of an arrival beside the object (log 42): what another team has given, and the turn of a phase that ends. -/
def noted (p : ScrAt) (a : Arrival) (now ends : Bool) (u : State) : State :=
  let u := if p.remote then u.modGiven p.tk p.off (fun g => g.add a now) else u
  if ends then u.modGiven p.tk p.off Given.turn else u

/-- No group waits on a queue. -/
def noQueueWaiters (s : State) : Bool := s.groups.all (fun e => match e.2.run with | .qpush _ _ _ _ _ | .qpop _ _ _ _ _ => false | _ => true)
/-- No group waits on a deque. -/
def noDequeWaiters (s : State) : Bool := s.groups.all (fun e => match e.2.run with | .dqpop _ _ _ _ => false | _ => true)

/-- Complete an instruction, and then do what its completion sets off. -/
def finishedThen (h : Hdr) (size : Nat) (s u : State) (post : State → State) : State :=
  (post (u.advanceAll s.cur size (s.issue h size).ex)).complete h (s.issue h size)

/-- A group that waits in an instruction with its threads at it: the wait, where it goes on, and its threads as they were. -/
def waitsIn (h : Hdr) (s : State) (r : RunSt) (u : State) : Prop :=
  (u.group s.cur).run = r ∧ (u.group s.cur).resume = some ⟨(s.issue h 8).ex, (s.issue h 8).lowest⟩
    ∧ (u.group s.cur).threads = ((begun h 8 s).group s.cur).threads ∧ u.mem = s.mem

/-- A wait that ends true at once (09 R269, R271; 14 R396): a beat, the predicate, an acquire. -/
def trueNow (h : Hdr) (s u : State) (pd : Nat) (beats : Bool) (sc : Scope) : State :=
  finishedThen h 8 s ((if beats then u.beat s.cur else u).putPreds s.cur pd (s.issue h 8).ex true) (fun u => u.acquire s.cur sc)
/-- One that ends false at once. -/
def falseNow (h : Hdr) (s u : State) (pd : Nat) : State := finished h 8 s (u.putPreds s.cur pd (s.issue h 8).ex false)

/-- The operands of a queue instruction are in order: its value registers fit a slot, and the queue is set up and the team's. -/
def readyQueue (h : Hdr) (d : Opnd × Nat) (srcs : List (Opnd × Nat)) (val : Opnd) (q : Nat) (r : QueueReg) (s : State) : Bool :=
  readyOnce h 8 d srcs s && decide (s.ownQueue s.cur q = some r) && !slotMisfit val r.words

/-- The current group's core. -/
def coreNow (s : State) : Nat := s.coreOf s.cur

/-! ## Copies (09) -/

/-- The instructions that issue a descriptor to the mover. -/
def copyOf : Instr → Option (F3 × DWord × CpyKind)
  | .cpy f fx => some (f, fx, .box)
  | .cpyg f fx => some (f, fx, .gather)
  | .cpys f fx => some (f, fx, .scatter)
  | _ => none

/-- The 64 bytes of a descriptor, from 16 uniform registers or from an aligned own-scratch record without poison (09 R255). -/
def descBytes (f : F3) (fx : DWord) (s : State) : Option (List Byte) :=
  if fx.getLsbD 0 then
    if readyOnce f.h 16 (f.d, 1) [(f.a, 1)] s then
      match (begun f.h 16 s).ownCheck (s.group s.cur).team (arg f.h 16 s f.a 1) 64 64 with
      | .ok off => if (begun f.h 16 s).scrPois (s.group s.cur).team off 64 then none else some ((begun f.h 16 s).scrRead (s.group s.cur).team off 64)
      | .error _ => none
    else none
  else if readyOnce f.h 16 (f.d, 1) [(f.a, 16)] s then some (Word.toBytes 64 (arg f.h 16 s f.a 16))
  else none

/-- A descriptor as it is queued (09 R256): nothing moved, to start after the group's writes that are not yet performed (12 R348). -/
def queuedMove (s : State) (d : Desc) : Move :=
  { id := s.stamp, team := (s.group s.cur).team, gk := s.cur, d := d, st := .queued, pos := 0, counted := 0, h0 := 0, h1 := 0, carry := [], tail := [],
    digDone := false, idx := 0, after := s.unperformed s.cur, log := none, logAt := none }

/-- A group that waits in an instruction of a size, to begin it again. -/
def waitsAt (h : Hdr) (size : Nat) (s u : State) : Prop :=
  (u.group s.cur).run = .room ∧ (u.group s.cur).resume = some ⟨(s.issue h size).ex, (s.issue h size).lowest⟩
    ∧ (u.group s.cur).threads = ((begun h size s).group s.cur).threads ∧ u.mem = s.mem

/-- What a descriptor has left to move in its current row, and within a line of its global side (09 R257). -/
def pieceAt (m : Move) : Nat × Nat × Nat :=
  let a := m.d.rowAt (m.pos / m.d.row) m.idx
  let o := m.pos % m.d.row
  (a.1 + o, a.2 + o, m.pieceLen (a.1 + o) false)
/-! ## Matrix engines (10) -/

/-- A matrix instruction can run: as other group-once instructions, with no deferred trap that waits for its group (10 R292). -/
def readyMat (h : Hdr) (size : Nat) (d : Opnd × Nat) (srcs : List (Opnd × Nat)) (s : State) : Bool :=
  readyOnce h size d srcs s && (s.group s.cur).deferred.isEmpty

/-- The matrix engine of the current group's quad, and its team. -/
def quadNow (s : State) : Quad := s.quad (s.quadOfGroup s.cur)
def teamNow (s : State) : Nat := (s.group s.cur).team

/-- Whether the team holds a reservation or one is free; the engine once it holds one (10 R280). -/
def canReserve (q : Quad) (tk : Nat) : Bool := (q.resOf tk).isSome || (List.range 16).any (fun i => (kvGet q.res i).isNone)
def reserved (q : Quad) (tk : Nat) : Quad :=
  if (q.resOf tk).isSome then q
  else match (List.range 16).find? (fun i => (kvGet q.res i).isNone) with
    | some i => { q with res := kvSet q.res i ⟨tk, 0, []⟩ }
    | none => q

/-- A state in which an operation has been posted as the last one of the team's reservation (10 R283), after a change of the engine's
configuration; one with a long-latency result holds its scoreboard (01 R45). -/
def posted (long : Bool) (kind : MatKind) (conf : Quad → Quad) (s : State) : State :=
  let id := if long then s.stamp + 1 else s.stamp
  let op : MatOp := { id := id, gk := s.cur, tok := if long then some s.stamp else none, at_ := s.cycle, kind := kind, begun := false, granted := 0,
                      inArray := [], amax := none, after := s.unperformed s.cur }
  let s := if long then s.addPend s.cur ⟨s.stamp, 33, true, none, none, false, []⟩ else s
  ({ s with stamp := id + 1 } : State).modQuad (s.quadOfGroup s.cur)
    (fun q => (conf q).modRes (teamNow s) (fun r => { r with ops := r.ops ++ [op] }))

/-- The instruction is done: the operation is posted and EXEC passes. -/
def posts (h : Hdr) (size : Nat) (s : State) (long : Bool) (kind : MatKind) (conf : Quad → Quad) : State :=
  finished h size s (posted long kind conf (begun h size s))

/-- Give a tile its tag, or its whole configuration. -/
def tagged (t tag : Nat) (q : Quad) : Quad := q.setTile t { q.tile t with tag := tag }
def shaped (t : Nat) (owner : Option Nat) (rows bytes tag : Nat) (q : Quad) : Quad :=
  q.setTile t { q.tile t with owner := owner, rows := rows, bytes := bytes, tag := tag }

/-- The shape of a tile that the team owns, else nothing. -/
def shape (s : State) (t : Nat) : Nat × Nat :=
  if ((quadNow s).tile t).owner = some (teamNow s) then (((quadNow s).tile t).rows, ((quadNow s).tile t).bytes) else (0, 0)

/-- Whether scratch footprints lie in the team's own scratch and are aligned (08 R224; 10 R286). -/
def feet (s : State) (fs : List (Nat × Nat × Nat)) : Bool :=
  fs.all (fun x => match s.ownCheck (teamNow s) x.1 x.2.1 x.2.2 with | .ok _ => true | .error _ => false)

/-- An instruction-level trap of a matrix instruction. -/
def matTraps (i : Instr) (h : Hdr) (size : Nat) (s : State) (code : Nat) : Prop :=
  exec i s = .next ((stood h size s).takeTrap s.cur (Trap.atInstr code (s.issue h size)))

/-- Claim row blocks for the team: the new ones take the tag in all their element blocks (10 R282). -/
def claimed (tk : Nat) (rbs : List Nat) (tag : Nat) (q : Quad) : Quad :=
  let new := rbs.filter (fun rb => kvGet q.rbs rb ≠ some tk)
  { q.setEtags (new.flatMap (fun rb => [4 * rb, 4 * rb + 1, 4 * rb + 2, 4 * rb + 3])) tag with rbs := new.foldl (fun m rb => kvSet m rb tk) q.rbs }

/-- A transposed, an mx4, or a plain load's footprints (10 R288). -/
def tldFeet (tag : Nat) (tr : Bool) (rows bytes a pitch c : Nat) : List (Nat × Nat × Nat) :=
  let n := if tr then (if rows = 0 then 0 else tagK tag bytes) else rows
  let row := if tr then rows * tagBytes tag else bytes
  (a, if n = 0 then 0 else (n - 1) * pitch + row, 16) :: (if tag = 0xE then [(c, rows * (bytes / 16), 16)] else [])
/-! ## Events -/

/-- Whether the team of a group is the original of a launch that is not checked. -/
def plainRun (s : State) (gk : Nat) : Bool := !(s.launchOf gk).checked && (s.teamOf gk).kind == .original

/-- The messages that an event delivers: their destination, their line, their kinds (13 Table 13.3). -/
def messageOf : Instr → Option (Node × Nat × (MsgBody → Bool))
  | .homeRd l => some (.home, l, fun b => match b with | .acc (.rd _ _ _ _ _ _) => true | _ => false)
  | .homeWr l => some (.home, l, fun b => match b with | .acc (.wr _ _ _ _ _) => true | _ => false)
  | .homeAt l => some (.home, l, fun b => match b with | .acc (.at _ _ _ _ _ _ _) => true | _ => false)
  | .homeReg l => some (.home, l, fun b => match b with | .reg _ => true | _ => false)
  | .homeFlush l => some (.home, l, fun b => match b with | .flush _ _ _ => true | _ => false)
  | .homeMpart l => some (.home, l, fun b => match b with | .mpart _ _ _ => true | _ => false)
  | .homeLost l cl => some (.home, l, fun b => match b with | .lost c => c == cl | _ => false)
  | .mergeUnitReg cl l => some (.unit cl, l, fun b => match b with | .reg _ => true | _ => false)
  | .mergeUnitFlush cl l => some (.unit cl, l, fun b => match b with | .flush _ _ _ => true | _ => false)
  | .mergeUnitMreq cl l => some (.unit cl, l, fun b => match b with | .mreq _ _ | .mpart _ _ _ => true | _ => false)
  | .mergeUnitRack cl l => some (.unit cl, l, fun b => match b with | .rack _ => true | _ => false)
  | .coreRack c l => some (.core c, l, fun b => match b with | .rack _ => true | _ => false)
  | .coreMreq c l => some (.core c, l, fun b => match b with | .mreq _ _ => true | _ => false)
  | _ => none

/-- The first message of its kind about its line that no message before it holds back (13 R360, R363). -/
def firstOf (dst : Node) (line : Nat) (p : MsgBody → Bool) (pre : List NetMsg) (m : NetMsg) : Bool :=
  m.dst == dst && m.line == line && p m.body && !pre.any (fun e => blocks m e)
    && pre.all (fun e => !(e.dst == dst && e.line == line && p e.body))

/-- A command of a function that reaches a context, on a launch that it may name (16 R435, Table 16.6). -/
def commands (s : State) (fn t kid : Nat) : Bool := s.hostOpen && t ≤ 16 && (fn = 0 || fn = t) && s.mayName fn kid

/-- An SPDM request that is answered (18 R501): it and its answer are in the transcript of the function's session. -/
def answered (s : State) (fn : Nat) (req : List Byte) (code : Nat) (body : List Byte → List Byte) (f : Session → Session) : State :=
  let x := s.session fn
  let rsp := [0x13, BitVec.ofNat 8 code, 0, 0] ++ body (x.transcript ++ req)
  (s.setSession fn (f { x with transcript := x.transcript ++ req ++ rsp })).emit (.bytes 0 rsp)
/-! ## Encodings, steps and reset (01 R42, R51; 03 R104 to R124; log 1) -/

/-- A group's next word, in the block that its issuing set has entered: w, and the word fx after it, which a 16-byte instruction takes
from the same block. -/
def nextWord (s : State) (gk : Nat) (w fx : DWord) : Prop :=
  let th := (s.group gk).thread ((s.group gk).issuing.headD 0)
  ∃ e, th.ent = some e ∧ s.codeWord gk th.blk.toNat th.pc.toNat = some w.toNat
    ∧ fx.toNat = (s.codeWord gk th.blk.toNat (th.pc.toNat + 8)).getD 0
    ∧ (wordSize w.toNat = 16 → th.pc.toNat + 16 ≤ th.blk.toNat + 8 + 8 * e.len)

/-- The state that the turn of a group finds once time has passed and its own changes are made (logs 1, 2). -/
def turned (s : State) (t : Turn) (ts : List Turn) : State := ({ s with agenda := ts } : State).beginTurn t

/-- A group whose issuing set has passed over an instruction. -/
def passedOver (size : Nat) (is : Issue) (g : Group) : Group :=
  { g with threads := (List.range g.threads.length).map (fun t => if is.issuing.contains t then (g.thread t).advance size else g.thread t) }

/-- The value of a register operand of a thread after an instruction, read as a source of k words. -/
def readBack (u : State) (is : Issue) (t : Nat) (o : Opnd) (k : Nat) : Nat := (u.source is t o 0 k .w).val

/-- A lane instruction with a vector destination runs, and each thread of EXEC then holds in it the value that a rule gives from the
state before. -/
def gives (i : Instr) (d : Opnd) (k : Nat) (v : State → Issue → Nat → Nat) : Prop :=
  ∀ (h : Hdr) (size : Nat) (sp : LaneSpec) (s : State) (n : Fin 256), laneOf i = some (h, size, sp) → i.wellFormed = true → ready h size s = true → d = .v n →
    laneClear sp s (s.issue h size) (s.issue h size).ex = true →
    ∃ u, exec i s = .next u ∧ ∀ t ∈ (s.issue h size).ex, readBack u (s.issue h size) t d k = v s (s.issue h size) t

/-- A source of a thread, of n words. -/
def src (s : State) (is : Issue) (t : Nat) (o : Opnd) (pm : Perm) (n : Nat) : Nat := (s.source is t o pm n .w).val

/-- The signed value of the low w bits of x. -/
def signed (w x : Nat) : Int := if x % 2 ^ w < 2 ^ (w - 1) then ((x % 2 ^ w : Nat) : Int) else ((x % 2 ^ w : Nat) : Int) - (2 : Int) ^ w
end Sys2Proof.Claims

open Sys2Proof Sys2Proof.Machine Sys2Proof.Claims

/-- LANE INSTRUCTIONS COMPLETE, AND THEIR FRAME (01 R42, R49, R53; 05 R160; 06): a lane instruction whose destination is not a
uniform register gives the state in which each thread of EXEC holds its own result and has passed over the instruction, the
guarded-off threads have passed over it, the flags stand OR-ed in gstat, and nothing else but the issue's own fields differs: no
other register, no other group, no byte of memory. -/
def Obligations.LaneInstructionsComplete : Prop :=
  ∀ (i : Instr) (h : Hdr) (size : Nat) (sp : LaneSpec) (s : State), laneOf i = some (h, size, sp) → ready h size s = true →
    sp.dst.isUniform = false → laneClear sp s (s.issue h size) (s.issue h size).ex = true →
    exec i s = .next (afterGroup s (closed h s (laneGroup sp s (s.issue h size) (s.group s.cur))))

/-- UNIFORM INSTRUCTIONS (01 R48): with a uniform destination the instruction runs once for the group and writes once. -/
def Obligations.UniformInstructionsComplete : Prop :=
  ∀ (i : Instr) (h : Hdr) (size : Nat) (sp : LaneSpec) (o : Opnd) (k : Nat) (s : State), laneOf i = some (h, size, sp) →
    ready h size s = true → sp.dst = .reg o k → opIsUniform o = true →
    laneClear sp s (s.issue h size) [(s.issue h size).lowest] = true →
    exec i s = .next (afterGroup s (closed h s (uniGroup sp o k s (s.issue h size) (s.group s.cur))))
/-- TRANSFERS (04 R139 to R142; 01 R40): when the target of each thread of EXEC is a descriptor and its pocket stack serves, BRA,
BRX, CALL, CALLX and RET send each thread to the word after that descriptor; CALL and CALLX push the address of the next word, RET
pops; the guarded-off threads pass over the instruction. -/
def Obligations.TransfersComplete : Prop :=
  ∀ (i : Instr) (h : Hdr) (call : Bool) (g : Target) (s u : State), transferOf i = some (h, call, g) → ready h 8 s = true →
    transferOk g s (s.issue h 8) = true → (s.issue h 8).ex.all (stackOk call g (s.issue h 8) s) = true →
    transfers call g (s.issue h 8) s (s.issue h 8).ex (begun h 8 s) = some u →
    exec i s = .next (afterGroup u (closed h u (u.group u.cur)))

/-- A TRANSFER THAT FAILS (04 R139, R140, R142): at the first thread of EXEC, a target that is not a multiple of 8 or not below 2^57
traps 0x03; a CALL without 8 bytes of pocket stack, after its target has been checked, and a RET past its end trap 0x21 with the
stack's top as the address. -/
def Obligations.TransfersTrap : Prop :=
  ∀ (i : Instr) (h : Hdr) (call : Bool) (g : Target) (s : State) (t : Nat) (ts : List Nat), transferOf i = some (h, call, g) →
    ready h 8 s = true → transferOk g s (s.issue h 8) = true → (s.issue h 8).ex = t :: ts →
    let is := s.issue h 8
    let x := targetOf g is s t
    let psp := ((s.group s.cur).thread t).psp.toNat
    (stackOk false g is s t = true → (2 ^ 57 ≤ x ∨ x % 8 ≠ 0) →
      exec i s = .next ((begun h 8 s).takeTrap s.cur (Trap.of 0x03 .thread is t 0)))
    ∧ (∀ u, call = true → stackOk false g is s t = true → checkTarget (begun h 8 s) s.cur x = (none, u) → psp < 8 →
      exec i s = .next (u.takeTrap s.cur (Trap.of 0x21 .thread is t psp)))
    ∧ (g = .stack → (s.roleOf s.cur).pocket < psp + 8 →
      exec i s = .next ((begun h 8 s).takeTrap s.cur (Trap.of 0x21 .thread is t psp)))

/-- LOOP AND LOOPW (04 R145, R146): with no active loop at or above kN, a span in bounds whose blocks load and which ends with the
ENDL that fits, LOOP sets kN up with its count and LOOPW with its maximum, and EXEC enters the body; a LOOP with count 0 sends EXEC
past the span; a LOOP with a count above its maximum traps 0x11. -/
def Obligations.LoopsBegin : Prop :=
  (∀ (f : FI) (fx : DWord) (s : State), readyOnce f.h 16 noDst [(f.a, 1)] s = true →
    let is := s.issue f.h 16
    let body := is.w + 16
    let count := arg f.h 16 s f.a 1
    let max := Word.bits fx.toNat 31 0
    (∀ ws u, spanOf (opNum f.d) f.imm false body (begun f.h 16 s) = some (ws, u) → count ≤ max →
      exec (.loop f fx) s = .next (afterGroup u (closed f.h u
        (if count = 0 then onThreads (u.group u.cur) is.ex (fun _ th => th.skipSpan body ws)
         else { onThreads (u.group u.cur) is.ex (fun _ th => th.enter body) with
                loops := (u.group u.cur).loops.set (opNum f.d) (loopOf body (f.imm.toNat - 1) count max ws) }))))
    ∧ (∀ ws u, spanOf (opNum f.d) f.imm false body (begun f.h 16 s) = some (ws, u) → max < count →
      exec (.loop f fx) s = .next ((stood f.h 16 s).takeTrap s.cur (Trap.atInstr 0x11 is))))
  ∧ (∀ (f : FI) (fx : DWord) (s : State), readyOnce f.h 16 noDst [] s = true →
    ∀ ws u, spanOf (opNum f.d) f.imm true ((s.issue f.h 16).w + 16) (begun f.h 16 s) = some (ws, u) →
      exec (.loopw f fx) s = .next (afterGroup u (closed f.h u
        { onThreads (u.group u.cur) (s.issue f.h 16).ex (fun _ th => th.enter ((s.issue f.h 16).w + 16)) with
          loops := (u.group u.cur).loops.set (opNum f.d)
            (loopOf ((s.issue f.h 16).w + 16) (f.imm.toNat - 1) (Word.bits fx.toNat 31 0) (Word.bits fx.toNat 31 0) ws) })))

/-- ENDL (04 R147): away from the end of an active kN it is passed over; at the end, the threads that leave pass over it and the
others go back to the body's first instruction, REM counting down once or the loop becoming inactive; a LOOPW that has used its
maximum traps 0x10 at the first thread that would go back. -/
def Obligations.EndlDecides : Prop :=
  ∀ (f : F2) (s : State), ready f.h 8 s = true →
    let is := s.issue f.h 8
    let g := s.group s.cur
    let l := g.loops.getD (opNum f.d) LoopReg.idle
    let isW := f.sub.val.testBit 1
    let leaves := fun t => exits f (g.thread t) || (l.rem == 1 && !isW)
    (loopEnds f s = false → exec (.endl f) s = .next (afterGroup s (closed f.h s (passed is g))))
    ∧ (loopEnds f s = true → (l.rem ≠ 1 ∨ is.ex.all leaves = true) →
      exec (.endl f) s = .next (afterGroup s (closed f.h s
        { onThreads (onThreads g (is.issuing.filter (fun t => !is.ex.contains t || leaves t)) (fun _ th => th.advance 8))
            (is.ex.filter (fun t => !leaves t)) (fun _ th => th.enter l.body.toNat) with
          loops := g.loops.set (opNum f.d) (if is.ex.all leaves then { l with active := false } else { l with rem := l.rem - 1 }) })))
    ∧ (∀ t ts, loopEnds f s = true → l.rem = 1 → isW = true → is.ex = t :: ts → exits f (g.thread t) = false →
      exec (.endl f) s = .next ((begun f.h 8 s).takeTrap s.cur
        { Trap.of 0x10 .thread is t 0 with desc := l.body.toNat, rwidx := some (opNum f.d) }))

/-- HINTS AND EVENTS (04 R154 to R156): NOP only passes; YIELD defers the group for at most 64 cycles; BKPT is a NOP but in the original run of a launch with
the debug attribute, where it halts the group with its tag; WAITEV with a wake pending takes it and writes true, with a window of
0 writes false, and else waits with its instruction still to come. -/
def Obligations.HintsAndEvents : Prop :=
  (∀ (f : F2) (s : State), ready f.h 8 s = true →
    exec (.nop f) s = .next (afterGroup s (closed f.h s (passed (s.issue f.h 8) (s.group s.cur))))
    ∧ exec (.yield f) s = .next (afterGroup s (closed f.h s
        { passed (s.issue f.h 8) (s.group s.cur) with yieldUntil := s.cycle + 64 })))
  ∧ (∀ (f : FI) (s : State), ready f.h 8 s = true →
    (((s.launchOf s.cur).r.debug = false ∨ s.isRerun s.cur = true) →
      exec (.bkpt f) s = .next (afterGroup s (closed f.h s (passed (s.issue f.h 8) (s.group s.cur)))))
    ∧ ((s.launchOf s.cur).r.debug = true → s.isRerun s.cur = false → ∃ u, exec (.bkpt f) s = .next u
        ∧ (u.group s.cur).run = .halted (f.imm.toNat % 65536)
        ∧ (u.group s.cur).threads = (landed f.h.pk (passed (s.issue f.h 8) (s.group s.cur))).threads
        ∧ u.mem = s.mem ∧ u.recQ.length = s.recQ.length + 1))
  ∧ (∀ (f : FI) (s : State), ready f.h 8 s = true → unlogged s = true →
    let is := s.issue f.h 8
    let outcome := fun b => onThreads (passed is (s.group s.cur)) is.ex (fun _ th => th.setPred (opNum f.d) b)
    ((s.group s.cur).wake = true →
      exec (.waitev f) s = .next (afterGroup s (closed f.h s { outcome true with wake := false })))
    ∧ ((s.group s.cur).wake = false → f.imm = 0 → exec (.waitev f) s = .next (afterGroup s (closed f.h s (outcome false))))
    ∧ ((s.group s.cur).wake = false → f.imm ≠ 0 → ∃ u, exec (.waitev f) s = .next u
        ∧ (u.group s.cur).run = .event (opNum f.d) is.ex (s.cycle + f.imm.toNat)
        ∧ (u.group s.cur).resume = some ⟨is.ex, is.lowest⟩
        ∧ (u.group s.cur).threads = ((begun f.h 8 s).group s.cur).threads ∧ u.mem = s.mem ∧ u.teams = s.teams))

/-- EXIT AND KILL (04 R152; 01 R41, R54): the threads of EXEC end, exited or dead, and their PCs never change again; the guarded-off
threads pass; EXIT counts in the team's exits, KILL leaves one record per thread; no byte of memory changes.  Its quad
has no convergence register and its team no open REGQ here, since those follow their members. -/
def Obligations.ThreadsEnd : Prop :=
  ∀ (f : F2) (s : State), ready f.h 8 s = true →
    (s.quad (Config.quadOf (s.coreOf s.cur))).conv = [] → (s.teamOf s.cur).regq = none →
    (kvGet s.teams (s.group s.cur).team).isSome = true →
    let is := s.issue f.h 8
    let g := (begun f.h 8 s).group s.cur
    (∃ u, exec (.exit f) s = .next u
      ∧ (u.group s.cur).threads = (landed f.h.pk (onThreads g is.ex (fun _ th => { th with st := .exited }))).threads
      ∧ (u.team g.team).exits = (s.team g.team).exits + is.ex.length ∧ u.mem = s.mem)
    ∧ (∃ u, exec (.kill f) s = .next u
      ∧ (u.group s.cur).threads = (landed f.h.pk (onThreads g is.ex (fun _ th => { th with st := .dead }))).threads
      ∧ u.recQ.length = s.recQ.length + is.ex.length ∧ u.mem = s.mem)

/-- CONTROL AND STATUS REGISTERS (11 R308): CSRR delivers the register's value, zero-extended to the width that it reads; CSRW writes
gstat's flags by writing 1s, CLS, tvec and the core's cpdg, and changes no read-only register. -/
def Obligations.CsrAccess : Prop :=
  (∀ (f : FI) (s : State), readyOnce f.h 8 (f.d, csrWords f.imm) [] s = true → (csrNum f.imm ≠ 0x0A0 ∨ unlogged s = true) →
    exec (.csrr f) s = .next (afterGroup s (closed f.h s
      (delivered f.d (csrWords f.imm) (csrValue s (csrNum f.imm) % 2 ^ (32 * csrWords f.imm)) (s.issue f.h 8) (s.group s.cur)))))
  ∧ (∀ (f : FI) (s : State), readyOnce f.h 8 noDst [(f.a, csrWords f.imm)] s = true →
    let x := arg f.h 8 s f.a (csrWords f.imm) % 2 ^ (32 * csrWords f.imm)
    let s' := if csrNum f.imm = 0x0A0 ∧ s.isRerun s.cur = false then s.modCore (s.coreOf s.cur) (fun k => { k with cpdg := BitVec.ofNat 32 x }) else s
    exec (.csrw f) s = .next (afterGroup s' (closed f.h s' (csrWritten (csrNum f.imm) x (passed (s.issue f.h 8) (s.group s.cur))))))

/-- SIGACC AND HEART (11 R314, R315, Table 11.5; 15 R406): SIGACC adds to a checked team's signature the hash of one event, or of one
event for each thread of EXEC, in ascending order, when its operand is per thread, and changes no register; HEART of a persistent launch
restarts the team's heartbeat window, and in a later run only completes. -/
def Obligations.SignatureAndHeart : Prop :=
  (∀ (f : F2) (s : State), (match f.a with | .v _ | .x _ => false | _ => true) = true → readyOnce f.h 8 noDst [(f.a, tyWords f.ty)] s = true →
    exec (.sigacc f) s = .next (finished f.h 8 s ((begun f.h 8 s).fold (s.group s.cur).team
      (sigEvent f (s.group s.cur) 32 (arg f.h 8 s f.a (tyWords f.ty))))))
  ∧ (∀ (f : F2) (s : State), (match f.a with | .v _ | .x _ => true | _ => false) = true → ready f.h 8 s = true →
    (operandCheck (s.roleOf s.cur).vregs (s.roleOf s.cur).sregs (.reg .z 1) [.reg f.a f.pa (tyWords f.ty) .w] false).isNone = true →
    (s.issue f.h 8).ex.all (fun t => !idxOut (s.roleOf s.cur).vregs ((s.group s.cur).thread t) f.a (tyWords f.ty)
      && !(s.source (s.issue f.h 8) t f.a f.pa (tyWords f.ty) .w).pois) = true →
    let is := s.issue f.h 8
    let told := is.ex.foldl (fun u t => u.fold (s.group s.cur).team
      (sigEvent f (s.group s.cur) t (s.source is t f.a f.pa (tyWords f.ty) .w).val)) s
    let g := passed is (s.group s.cur)
    exec (.sigacc f) s = .next (afterGroup told (closed f.h s { g with
      gstat := g.gstat ||| (if is.ex.any (fun t => (s.source is t f.a f.pa (tyWords f.ty) .w).dead) then 64 else 0) })))
  ∧ (∀ (f : F2) (s : State) (tm : Team), (match f.a with | .v _ | .x _ => true | _ => false) = true → ready f.h 8 s = true →
    (operandCheck (s.roleOf s.cur).vregs (s.roleOf s.cur).sregs (.reg .z 1) [.reg f.a f.pa (tyWords f.ty) .w] false).isNone = true →
    (s.issue f.h 8).ex.all (fun t => !idxOut (s.roleOf s.cur).vregs ((s.group s.cur).thread t) f.a (tyWords f.ty)
      && !(s.source (s.issue f.h 8) t f.a f.pa (tyWords f.ty) .w).pois) = true →
    kvGet s.teams (s.group s.cur).team = some tm → (s.launchOf s.cur).checked = true →
    ∃ u, exec (.sigacc f) s = .next u ∧ u.mem = s.mem
      ∧ (u.group s.cur).threads = (landed f.h.pk (passed (s.issue f.h 8) (s.group s.cur))).threads
      ∧ (u.team (s.group s.cur).team).chk.sig = (s.issue f.h 8).ex.foldl (fun x t => x + ehash (s.launchOf s.cur).key
          (sigEvent f (s.group s.cur) t (s.source (s.issue f.h 8) t f.a f.pa (tyWords f.ty) .w).val)) tm.chk.sig)
  ∧ (∀ (f : F2) (s : State), ready f.h 8 s = true →
    exec (.heart f) s = .next (afterGroup
      (if (s.launchOf s.cur).r.persist && !s.isRerun s.cur then s.modTeam (s.group s.cur).team (fun tm => { tm with beatAt := s.clk.toNat }) else s)
      (closed f.h s (passed (s.issue f.h 8) (s.group s.cur)))))

/-- CLKR, PCLS, SLEEP AND FLAGS (11 R309, R315, R316, R318): CLKR delivers the core cycles since the team started, the core clock in
MHz, or the throttle steps since then; PCLS sets the group's class; SLEEP makes the group issue nothing for its number of cycles;
FLAGS delivers the exception flags as they stood and then clears or sets those that its source names. -/
def Obligations.ClocksAndFlags : Prop :=
  (∀ (f : F2) (s : State), readyOnce f.h 8 (f.d, if f.sub = 0 then 2 else 1) [] s = true → unlogged s = true →
    let tm := s.teamOf s.cur
    let x := if f.sub = 0 then (s.cycle - tm.startCycle) % 2 ^ 64 else if f.sub = 1 then (s.core tm.core).mhz
      else ((s.core tm.core).thr + 2 ^ 32 - tm.startThr % 2 ^ 32) % 2 ^ 32
    exec (.clkr f) s = .next (afterGroup s (closed f.h s
      (delivered f.d (if f.sub = 0 then 2 else 1) x (s.issue f.h 8) (s.group s.cur)))))
  ∧ (∀ (f : F2) (s : State), ready f.h 8 s = true →
    exec (.pcls f) s = .next (afterGroup s (closed f.h s
      { passed (s.issue f.h 8) (s.group s.cur) with gclass := BitVec.ofNat 32 (f.sub.val % 4) })))
  ∧ (∀ (f : F2) (s : State), readyOnce f.h 8 noDst [(f.b, 1)] s = true →
    let b := arg f.h 8 s f.b 1
    exec (.sleep f) s = .next (afterGroup s (closed f.h s
      { passed (s.issue f.h 8) (s.group s.cur) with
        run := if b = 0 ∨ s.isRerun s.cur = true then (s.group s.cur).run else .sleep (s.cycle + b) })))
  ∧ (∀ (f : F2) (s : State), readyOnce f.h 8 (f.d, 1) [(f.b, 1)] s = true →
    let g := s.group s.cur
    let b := BitVec.ofNat 32 (arg f.h 8 s f.b 1 % 32)
    let out := delivered f.d 1 (g.gstat.toNat % 32) (s.issue f.h 8) g
    exec (.flagsGet f) s = .next (afterGroup s (closed f.h s out))
    ∧ exec (.flagsClr f) s = .next (afterGroup s (closed f.h s { out with gstat := g.gstat &&& ~~~ b }))
    ∧ exec (.flagsSet f) s = .next (afterGroup s (closed f.h s { out with gstat := g.gstat ||| b })))

/-- REGQ AND ERRR (11 R312, R317): REGQ with lawful roles and quotas arrives at its team's rendezvous; the last arrival moves the
quota between the two roles and closes the set, an earlier one waits.  ERRR at an own-scratch address of 64 aligned bytes stores
the oldest unread record of the team and writes true, or writes false when there is none. -/
def Obligations.RendezvousAndErrors : Prop :=
  (∀ (f : F2) (s : State) (tm : Team), ready f.h 8 s = true → kvGet s.teams (s.group s.cur).team = some tm →
    let src := constVal .w f.a
    let dst := constVal .w f.b
    let n := 8 * tyCode f.ty
    let arrived := (match tm.regq with | some q => q.arrived | none => []) ++ [s.cur]
    let members := tm.groups.filter (fun gk => ((s.group gk).role == src || (s.group gk).role == dst) && !(s.group gk).live.isEmpty)
    s.regqBad s.cur src dst n = false → s.releaseReady s.cur .team = true →
    ∃ u, exec (.regq f) s = .next u ∧ u.mem = s.mem
      ∧ (members.all (fun gk => arrived.contains gk) = true →
          (u.team (s.group s.cur).team).regq = none ∧ (u.team (s.group s.cur).team).roles = moveQuota tm.roles src dst n)
      ∧ (members.all (fun gk => arrived.contains gk) = false →
          (u.group s.cur).run = .regq ∧ (u.team (s.group s.cur).team).roles = tm.roles
          ∧ (u.team (s.group s.cur).team).regq = some ⟨src, dst, n, arrived⟩))
  ∧ (∀ (f : F2) (s : State) (tm : Team) (off : Nat), readyOnce f.h 8 noDst [(f.a, 1)] s = true → unlogged s = true →
    kvGet s.teams (s.group s.cur).team = some tm →
    (begun f.h 8 s).ownCheck (s.group s.cur).team (arg f.h 8 s f.a 1) 64 64 = .ok off →
    let out := fun b => predicated (opNum f.d) b (s.issue f.h 8) (s.group s.cur)
    (∀ r, tm.nextRec = some r →
      let s' := s.modTeam (s.group s.cur).team (fun tm => { tm with unread := tm.unread - 1, scratch := fileWrite tm.scratch off r.bytes false })
      exec (.errr f) s = .next (afterGroup s' (closed f.h s' (out true))))
    ∧ (tm.nextRec = none → exec (.errr f) s = .next (afterGroup s (closed f.h s (out false)))))

/-- TAKING A TRAP (11 R310): a trap that goes to the group's handler, with a descriptor at tvec, writes its record, saves the PC
vector, EXEC, the cause and the address, and sends every live thread to the handler; all else of the group stands. -/
def Obligations.TrapEntersHandler : Prop :=
  ∀ (s u : State) (gk : Nat) (t : Trap), (kvGet s.groups gk).isSome = true → s.goesToHandler gk t = true →
    isDescriptorAt (recorded s gk t) (s.coreOf gk) (s.tenantOf gk) (s.group gk).tvec.toNat = (true, u) →
    s.takeTrap gk t = { u with groups := kvSet u.groups gk (handled (u.group gk) t) }

/-- THE SYSTEM PATH (16 R434, R435): a trap that no handler takes stops its group, with its code, its address and the place to go on
from, and writes one record; the threads keep their PCs, and no byte of memory changes. -/
def Obligations.TrapStopsGroup : Prop :=
  ∀ (s : State) (gk : Nat) (t : Trap), (kvGet s.groups gk).isSome = true → s.goesToHandler gk t = false → t.code ≠ 0x20 →
    let u := s.takeTrap gk t
    (u.group gk).run = .stopped ∧ (u.group gk).stopCode = t.code ∧ (u.group gk).stopVa = t.addr
      ∧ (u.group gk).stopAt = (if t.block || t.done then none else some ⟨t.ex, t.ridx⟩)
      ∧ (u.group gk).threads = (s.group gk).threads ∧ u.mem = s.mem ∧ u.recQ.length = s.recQ.length + 1
      ∧ (∀ k, k ≠ gk → kvGet u.groups k = kvGet s.groups k)

/-- TRAP n AND UNASSIGNED OPCODES (04 R153, 03 R104, 01 R51): TRAP n completes and then takes the trap of code 0x70 + n, its
instruction marked complete; a word of an unassigned opcode takes trap 0x01 with its issuing set at the instruction. -/
def Obligations.TrapsTaken : Prop :=
  (∀ (f : FI) (s : State), ready f.h 8 s = true → unlogged s = true →
    exec (.trap f) s = .next ((finished f.h 8 s (begun f.h 8 s)).takeTrap s.cur
      { Trap.atInstr (0x70 + f.imm.toNat % 16) (s.issue f.h 8) with done := true }))
  ∧ (∀ (h : Hdr) (op : Fin 512) (low : BitVec 48) (s : State), (kvGet s.groups s.cur).isSome = true → (s.issue h 8).ex ≠ [] →
    exec (.unassignedOpcode h op low) s = .next (s.takeTrap s.cur (Trap.atInstr 0x01 (s.issue h 8))))

/-- RETURN FROM A HANDLER (11 R311): in a handler, TRET.resume and TRET.skip restore the group; outside one they trap 0x21. -/
def Obligations.TretReturns : Prop :=
  ∀ (f : F2) (s : State) (skip : Bool), (kvGet s.groups s.cur).isSome = true → (s.issue f.h 8).ex ≠ [] →
    let i := if skip then Instr.tretSkip f else Instr.tretResume f
    ((s.group s.cur).inHandler = true →
      exec i s = .next (afterGroup s (
        let g := { returned skip ((begun f.h 8 s).group s.cur) with issued := s.stamp, begun := false }
        if f.h.pk then { g.land with parked := s.outstanding s.cur } else g)))
    ∧ ((s.group s.cur).inHandler = false → exec i s = .next (s.takeTrap s.cur (Trap.atInstr 0x21 (s.issue f.h 8))))

/-- CROSS-THREAD INSTRUCTIONS (07 R204 to R214): VOTE, BALLOT, MATCH, RANK, SCANI, SCANX, REDG, SHFL and PICK give each participant
the result that 07 states from the contributions of all participants, or a uniform destination the common result once; nothing else
but the issue's own fields differs. -/
def Obligations.CrossThreadComplete : Prop :=
  ∀ (i : Instr) (c : Cross) (s : State), crossOf i = some c → crossClear i c s = true →
    exec i s = .next (afterGroup s (closed c.h s (crossGroup c s (s.group s.cur))))

/-- MEMORY AND ATOMIC INSTRUCTIONS (08 R218 to R237): where each turn finds its place, the threads of EXEC access it in ascending order
as 08 describes: a load's words are an outstanding result, a store's bytes are in memory, an atomic's step is made once and its old
value is its result, a contribution is in the reduction buffer, a cache operation has acted on its lines; then an acquire is made.  Nothing else but the issue's own fields
differs. -/
def Obligations.MemoryInstructionsComplete : Prop :=
  ∀ (i : Instr) (m : Mem) (s u : State), memOf i = some m → memBarred i s = false → ready m.f.h (extSize m.f.ext) s = true →
    memClear m s (s.issue m.f.h (extSize m.f.ext))
      (if m.once then [(s.issue m.f.h (extSize m.f.ext)).lowest] else (s.issue m.f.h (extSize m.f.ext)).ex) = true →
    memState m (extSize m.f.ext) s = some u → exec i s = .next (afterGroup u (closed m.f.h u (u.group u.cur)))

/-- THE FRAME OF MEMORY INSTRUCTIONS (08 R225, R229): with addresses translated by the heap window, every byte of device memory outside
the bytes that the turns store to reads as before; a load's registers wait for its return: no thread's registers, predicates, index
registers or stack pointer change, nor the uniform registers, but that a park marker lets earlier results into theirs (01 R45), nor gstat
but for its DEAD_READ bit, nor any other group. -/
def Obligations.MemoryInstructionsFrame : Prop :=
  ∀ (i : Instr) (m : Mem) (s u : State), memOf i = some m → memBarred i s = false → ready m.f.h (extSize m.f.ext) s = true →
    let is := s.issue m.f.h (extSize m.f.ext)
    let ts := if m.once then [is.lowest] else is.ex
    memClear m s is ts = true → memState m (extSize m.f.ext) s = some u → (s.ctx (s.tenantOf s.cur)).pten = false →
    s.homes = [] → s.net = [] → s.homeQ = [] → (s.core (s.coreOf s.cur)).red = [] →
    let g := if m.f.h.pk then (s.group s.cur).land else s.group s.cur
    ∃ w, exec i s = .next w
      ∧ (∀ a, ts.all (fun t => !storedAt i m s is t a) = true → w.memByte a = s.memByte a)
      ∧ (∀ t, let o := g.thread t
          let n := (w.group s.cur).thread t
          n.v = o.v ∧ n.p = o.p ∧ n.x = o.x ∧ n.psp = o.psp ∧ n.st = o.st)
      ∧ (w.group s.cur).s = g.s ∧ (w.group s.cur).gstat ||| 64 = (s.group s.cur).gstat ||| 64
      ∧ (∀ k, k ≠ s.cur → kvGet w.groups k = kvGet s.groups k)

/-- FENCE (08 R238; 12 R344, R345): with no side-log entry of its core, a fence that releases waits until every earlier access of its
group is performed at its scope, and one that acquires until every earlier read has its value; then it releases, acquires, and passes, and
the group's next write is a release; no byte of memory changes. -/
def Obligations.FenceOrders : Prop :=
  ∀ (f : FM) (s : State), ready f.h 8 s = true → s.isRerun s.cur = false → (s.core (s.coreOf s.cur)).slog = [] →
    let sc := f.width = 1
    let rel := sc ∨ isRel f.ord = true
    let acq := sc ∨ isAcq f.ord = true
    let ok := (rel → s.releaseReady s.cur f.scope = true) ∧ (acq → (s.group s.cur).pend.all (·.ready) = true)
    (ok →
      let s₁ := if rel then (s.release s.cur f.scope).modGroup s.cur (fun g => { g with fenced := true }) else s
      let s₂ := if acq then s₁.acquire s.cur f.scope else s₁
      exec (.fence f) s = .next (afterGroup s₂ (closed f.h s (passed (s.issue f.h 8) (s₂.group s.cur)))))
    ∧ (¬ok → ∃ u, exec (.fence f) s = .next u ∧ (u.group s.cur).run = .release
        ∧ (u.group s.cur).resume = some ⟨(s.issue f.h 8).ex, (s.issue f.h 8).lowest⟩
        ∧ (u.group s.cur).threads = ((begun f.h 8 s).group s.cur).threads ∧ u.mem = s.mem)

/-- CCTL .discard (08 R241): one thread, one aligned and writable line that the heap window maps, of a launch that is not checked: every
byte of a dirty line holds afterwards what it held or what was last written back, a clean line keeps its bytes, neither is in L2 then, and
no other byte changes. -/
def Obligations.DiscardLine : Prop :=
  ∀ (f : FM) (s : State) (t : Nat) (x : Xlat), ready f.h (extSize f.ext) s = true → unlogged s = true → (s.launchOf s.cur).r.repro = false →
    let m := cctlMem f .clean
    let is := s.issue f.h (extSize f.ext)
    let va := memAddr m s is t
    is.ex = [t] → memClear m s is (if m.once then [is.lowest] else is.ex) = true → srcVal s is t (.reg f.b 0 1 .w) = 64 → va % 64 = 0 →
    va < 2 ^ 57 - 64 → windowXlat (s.ctx (s.tenantOf s.cur)) va = some x → x.w = true → outside x (x.phys va) = false →
    s.inMap (x.phys va) = true → s.apron = [] → (s.core (s.coreOf s.cur)).slog = [] → s.linePlain (x.phys va / 64) = true →
    ∃ u, exec (.cctlDiscard f) s = .next u
      ∧ (∀ a, a / 64 ≠ x.phys va / 64 → u.memByte a = s.memByte a)
      ∧ kvGet u.l2 (x.phys va / 64) = none
      ∧ (∀ b, (kvGet s.l2 (x.phys va / 64)).bind (·.back) = some b →
          ∀ a, a / 64 = x.phys va / 64 → u.memByte a = s.memByte a ∨ u.memByte a = b.bytes.getD (a % 64) 0)
      ∧ ((kvGet s.l2 (x.phys va / 64)).bind (·.back) = none → u.mem = s.mem)

/-- ACCESS TRAPS (08 R220, R222, R224): at the first thread of EXEC, a global address at or above 2^57 traps 0x21 and a misaligned one
0x22; a scratch address past the team's scratch traps 0x21, one of a rank outside the gang 0x24, a misaligned one 0x22; a pocket
address past the slice traps 0x21, a misaligned one 0x22; each with the address, and with no access made.  An acquire that is stopped
leaves no line in L1 (12 R339). -/
def Obligations.AccessTraps : Prop :=
  ∀ (i : Instr) (m : Mem) (s : State) (t : Nat) (ts : List Nat), memOf i = some m → memBarred i s = false → m.once = false →
    ready m.f.h (extSize m.f.ext) s = true → (s.issue m.f.h (extSize m.f.ext)).ex = t :: ts →
    let is := s.issue m.f.h (extSize m.f.ext)
    memClear m s is [t] = true → (m.rel = false ∨ s.releaseReady s.cur m.f.scope = true) →
    let a := memAddr m s is t
    let n := accessBytes i
    let b := begun m.f.h (extSize m.f.ext) s
    let c := if m.acq then b.modCore (s.coreOf s.cur) (fun k => { k with l1 := [] }) else b
    let traps := fun (code : Nat) => exec i s = .next (c.takeTrap s.cur (Trap.of code .thread is t a))
    (spaceOf i = .global → (s.core (s.coreOf s.cur)).slog = [] →
      (2 ^ 57 ≤ a → traps 0x21) ∧ (a < 2 ^ 57 → a % n ≠ 0 → traps 0x22))
    ∧ (spaceOf i = .scratch →
      let tm := s.teamOf s.cur
      let rank := a / 2 ^ 24
      let foreign := rank ≠ 0xFF ∧ rank ≠ tm.grank ∧ (s.launchOf s.cur).r.gang ≤ rank
      (tm.scratchSize < a % 2 ^ 24 + n → traps 0x21)
      ∧ (a % 2 ^ 24 + n ≤ tm.scratchSize → foreign → traps 0x24)
      ∧ (a % 2 ^ 24 + n ≤ tm.scratchSize → ¬foreign → a % n ≠ 0 → traps 0x22))
    ∧ (spaceOf i = .pocket →
      ((s.roleOf s.cur).pocket < a + n → traps 0x21)
      ∧ (a + n ≤ (s.roleOf s.cur).pocket → a % n ≠ 0 → traps 0x22))

/-- BINI (09 R266): a count of 1 to 65535 sets the 16-byte object at an own, aligned scratch address to expect it; a count outside traps
0x02. -/
def Obligations.BarrierInit : Prop :=
  ∀ (f : F3) (s : State) (off : Nat), readyOnce f.h 8 noDst [(f.a, 1), (f.b, 1)] s = true →
    let b := arg f.h 8 s f.b 1
    let tk := (s.group s.cur).team
    (begun f.h 8 s).ownCheck tk (arg f.h 8 s f.a 1) 16 16 = .ok off →
    ((1 ≤ b ∧ b ≤ 65535) → exec (.bini f) s = .next (finished f.h 8 s ((begun f.h 8 s).modTeam tk (fun tm =>
        { tm with given := kvPut Given.none tm.given off Given.none
                  scratch := fileWrite tm.scratch off (Word.toBytes 6 0 ++ Word.toBytes 2 b ++ Word.toBytes 2 b ++ Word.toBytes 6 0) false }))))
    ∧ ((b = 0 ∨ 65535 < b) → exec (.bini f) s = .next ((stood f.h 8 s).takeTrap s.cur (Trap.atInstr 0x02 (s.issue f.h 8))))

/-- ARRIVALS (09 R267, R268): at an object that is not complete, BARV with a count within the phase's pending arrivals, and BARX with one
arrival and its bytes, count and deliver the phase as the token; the last one flips the phase; an arrival for the next phase counts
as early; an overrun traps 0x32. -/
def Obligations.BarrierArrive : Prop :=
  (∀ (f : F3) (s : State) (p : ScrAt), readyOnce f.h 8 (f.d, 1) [(f.a, 1), (f.b, 1)] s = true → unlogged s = true →
    let u := begun f.h 8 s
    let n := arg f.h 8 s f.b 1
    let c := constVal .w f.c
    barrierAt (arg f.h 8 s f.a 1) u = some p → u.releaseReady s.cur (arriveScope p) = true → 1 ≤ n → n ≤ 65535 →
    let b := u.barrier p.tk p.off
    b.full = false →
    let tok := if c = 2 then b.phase else c
    let out := fun (v : State) => State.oncePut v (s.issue f.h 8) f.d 1 tok
    let fewer : Barrier := { b with pending := b.pending - n }
    let v := fun now ends => noted p ⟨n, c, none⟩ now ends (u.release s.cur (arriveScope p))
    (tok = b.phase → n ≤ b.pending → fewer.full = false →
        exec (.barv f) s = .next (finished f.h 8 s (out ((v true false).setBarrier p.tk p.off fewer))))
    ∧ (tok = b.phase → n ≤ b.pending → fewer.full = true →
        exec (.barv f) s = .next (finished f.h 8 s (out (((v true true).setBarrier p.tk p.off fewer.flip).flipped p.tk p.off))))
    ∧ (tok ≠ b.phase → b.early + n ≤ b.expect →
        exec (.barv f) s = .next (finished f.h 8 s (out ((v false false).setBarrier p.tk p.off { b with early := b.early + n }))))
    ∧ ((tok = b.phase ∧ b.pending < n) ∨ (tok ≠ b.phase ∧ b.expect < b.early + n) →
        exec (.barv f) s = .next ((stood f.h 8 s).takeTrap s.cur (Trap.atInstr 0x32 (s.issue f.h 8)))))
  ∧ (∀ (f : F3) (s : State) (p : ScrAt), readyOnce f.h 8 (f.d, 1) [(f.a, 1), (f.b, 1)] s = true → unlogged s = true →
    let u := begun f.h 8 s
    let n := arg f.h 8 s f.b 1
    barrierAt (arg f.h 8 s f.a 1) u = some p → u.releaseReady s.cur (arriveScope p) = true →
    let b := u.barrier p.tk p.off
    b.full = false →
    let more : Barrier := { b with pending := b.pending - 1, tx := b.tx + n }
    let out := fun (v : State) => State.oncePut v (s.issue f.h 8) f.d 1 b.phase
    let v := fun ends => noted p ⟨1, 2, some n⟩ true ends (u.release s.cur (arriveScope p))
    (1 ≤ b.pending → b.tx + n < 2 ^ 31 → more.full = false →
        exec (.barx f) s = .next (finished f.h 8 s (out ((v false).setBarrier p.tk p.off more))))
    ∧ (1 ≤ b.pending → b.tx + n < 2 ^ 31 → more.full = true →
        exec (.barx f) s = .next (finished f.h 8 s (out (((v true).setBarrier p.tk p.off more.flip).flipped p.tk p.off))))
    ∧ ((b.pending = 0 ∨ (2 : Int) ^ 31 ≤ b.tx + n) →
        exec (.barx f) s = .next ((stood f.h 8 s).takeTrap s.cur (Trap.atInstr 0x32 (s.issue f.h 8)))))

/-- WAITS ON A BARRIER (09 R269): at an own object that is not complete, BWAIT and BTRY end true, as an acquire, once the token's phase is over; else
BTRY, and BWAIT with a timeout of 0, end false, and BWAIT waits; an object with ERR traps 0x33. -/
def Obligations.BarrierWait : Prop :=
  ∀ (f : F3) (s : State) (off : Nat), unlogged s = true →
    let u := begun f.h 8 s
    let tk := (s.group s.cur).team
    let tok := arg f.h 8 s f.b 1
    let t := arg f.h 8 s f.c 1
    let pd := opNum f.d
    u.ownCheck tk (arg f.h 8 s f.a 1) 16 16 = .ok off →
    let b := u.barrier tk off
    let v := u.setBarrier tk off b
    (b.err = true →
      (readyOnce f.h 8 noDst [(f.a, 1), (f.b, 1), (f.c, 1)] s = true →
        exec (.bwait f) s = .next ((stood f.h 8 s).takeTrap s.cur (Trap.atInstr 0x33 (s.issue f.h 8))))
      ∧ (readyOnce f.h 8 noDst [(f.a, 1), (f.b, 1)] s = true →
        exec (.btry f) s = .next ((stood f.h 8 s).takeTrap s.cur (Trap.atInstr 0x33 (s.issue f.h 8)))))
    ∧ (b.err = false → b.full = false →
      (readyOnce f.h 8 noDst [(f.a, 1), (f.b, 1), (f.c, 1)] s = true →
        (b.phase ≠ tok % 2 → exec (.bwait f) s = .next (trueNow f.h s (v.noteOver s.cur off) pd true .team))
        ∧ (b.phase = tok % 2 → t = 0 → exec (.bwait f) s = .next (falseNow f.h s v pd))
        ∧ (b.phase = tok % 2 → t ≠ 0 → ∃ w, exec (.bwait f) s = .next w
            ∧ waitsIn f.h s (.barrier off tok pd (s.issue f.h 8).ex (s.cycle + t) false) w))
      ∧ (readyOnce f.h 8 noDst [(f.a, 1), (f.b, 1)] s = true →
        (b.phase ≠ tok % 2 → exec (.btry f) s = .next (trueNow f.h s (v.noteOver s.cur off) pd false .team))
        ∧ (b.phase = tok % 2 → exec (.btry f) s = .next (falseNow f.h s v pd))))

/-- COLOURS (09 R270, R271): HBCFG with a count of 1 to 3072 sets a granted colour up, unless it is in use; HBARA counts an arrival and
delivers the phase, and the last arrival flips it, to be seen 40 cycles later; HBAR arrives and then waits on the phase in which it arrived,
HBARW waits on a token: a wait is for every flip that is on its way and for the end of the token's phase, and with none of them it ends true
at once; a colour that the launch was not granted traps 0x21. -/
def Obligations.Colours : Prop :=
  (∀ (f : F3) (s : State), readyOnce f.h 8 noDst [(f.b, 1)] s = true → s.isRerun s.cur = false →
    let k := constVal .w f.a
    let g := (s.teamOf s.cur).gang
    let c := s.colour g k
    let b := arg f.h 8 s f.b 1
    (k < (s.launchOf s.cur).r.colours → 1 ≤ b → b ≤ 3072 → (c.cfg = false ∨ c.pending = c.expect) →
      exec (.hbcfg f) s = .next (finished f.h 8 s ((begun f.h 8 s).setColour g k
        { cfg := true, phase := false, expect := b, pending := b, seen := c.flips.length % 2 = 1, flips := c.flips })))
    ∧ ((s.launchOf s.cur).r.colours ≤ k →
      exec (.hbcfg f) s = .next ((stood f.h 8 s).takeTrap s.cur (Trap.atInstr 0x21 (s.issue f.h 8)))))
  ∧ (∀ (f : F3) (s : State), unlogged s = true →
    let k := constVal .w f.a
    let g := (s.teamOf s.cur).gang
    let u := begun f.h 8 s
    let c := s.colour g k
    let arrived : Colour := if c.pending ≤ 1 then { c with phase := !c.phase, pending := c.expect, flips := c.flips ++ [s.cycle + 40] }
      else { c with pending := c.pending - 1 }
    let tok := if c.phase then 1 else 0
    let flipsFor := fun (c : Colour) (tok : Nat) => c.flips.length + (if (if c.phase then 1 else 0) = tok % 2 then 1 else 0)
    let v := u.release s.cur .gang
    let clear := fun (v : State) => v.modGroup s.cur (fun g => { g with hbarTok := none })
    k < (s.launchOf s.cur).r.colours → c.cfg = true →
    (readyOnce f.h 8 (f.d, 1) [] s = true → s.releaseReady s.cur .gang = true →
      exec (.hbara f) s = .next (finished f.h 8 s ((v.setColour g k arrived).oncePut (s.issue f.h 8) f.d 1 tok)))
    ∧ (readyOnce f.h 8 noDst [(f.c, 1)] s = true → s.releaseReady s.cur .gang = true → (s.group s.cur).hbarTok = none →
        (kvGet s.gangs g).isSome = true → k < (s.gang g).colours.length →
      (arg f.h 8 s f.c 1 = 0 → exec (.hbar f) s = .next (falseNow f.h s (clear (v.setColour g k arrived)) (opNum f.d)))
      ∧ (arg f.h 8 s f.c 1 ≠ 0 → ∃ w, exec (.hbar f) s = .next w ∧ w.colour g k = arrived
          ∧ (w.group s.cur).hbarTok = some tok
          ∧ waitsIn f.h s (.colour k (flipsFor arrived tok) (opNum f.d) (s.issue f.h 8).ex (s.cycle + arg f.h 8 s f.c 1)) w))
    ∧ (readyOnce f.h 8 noDst [(f.b, 1), (f.c, 1)] s = true →
      let need := flipsFor c (arg f.h 8 s f.b 1)
      (need = 0 → exec (.hbarw f) s = .next (trueNow f.h s (clear u) (opNum f.d) true .gang))
      ∧ (need ≠ 0 → arg f.h 8 s f.c 1 = 0 → exec (.hbarw f) s = .next (falseNow f.h s (clear u) (opNum f.d)))
      ∧ (need ≠ 0 → arg f.h 8 s f.c 1 ≠ 0 → ∃ w, exec (.hbarw f) s = .next w
          ∧ waitsIn f.h s (.colour k need (opNum f.d) (s.issue f.h 8).ex (s.cycle + arg f.h 8 s f.c 1)) w)))

/-- QUEUES (09 R272, R273): with no group waiting on a queue, QINI sets a queue of the core up for the team; QPUSH to a queue with a free slot stores its
value in the tail slot and QPOP from one with a filled slot delivers the head slot, as an acquire, each with true, a beat, and the
core's groups woken; a full or an empty queue gives false or a wait; QTRY delivers the filled and free slots. -/
def Obligations.Queues : Prop :=
  (∀ (f : F3) (s : State), readyOnce f.h 8 noDst [(f.b, 1), (f.c, 1)] s = true → noQueueWaiters s = true →
    let base := arg f.h 8 s f.b 1
    let cfg := arg f.h 8 s f.c 1
    let slots := cfg % 128
    let ss := Word.bits cfg 9 8
    let tk := (s.group s.cur).team
    cfg < 1024 → Word.bit cfg 7 = false → 1 ≤ slots → slots ≤ 64 → ss ≠ 3 → base % (4 * 2 ^ ss) = 0 →
    base + slots * (4 * 2 ^ ss) ≤ (s.team tk).scratchSize →
    (∀ r, s.queue (coreNow s) (constVal .w f.a) = some r → r.owner = tk) →
    exec (.qini f) s = .next (finished f.h 8 s ((begun f.h 8 s).setQueue (coreNow s) (constVal .w f.a)
      { owner := tk, head := 0, tail := 0, full := 0, ssize := ss, slots := slots, base := base })))
  ∧ (∀ (f : F3) (s : State) (r : QueueReg), readyQueue f.h noDst [(f.b, r.words), (f.c, 1)] f.b (constVal .w f.a) r s = true →
    unlogged s = true → noQueueWaiters s = true →
    let ws := (wordsOf r.words (arg f.h 8 s f.b r.words)).map (·.val)
    let u := ((begun f.h 8 s).release s.cur .team).modTeam r.owner (fun tm =>
      { tm with scratch := fileWrite tm.scratch (r.base + 4 * r.words * r.tail) (ws.flatMap (fun w => Word.toBytes 4 w.toNat)) false })
    (r.full < r.slots → s.releaseReady s.cur .team = true → exec (.qpush f) s = .next (finishedThen f.h 8 s
        (((u.setQueue (coreNow s) (constVal .w f.a) { r with tail := (r.tail + 1) % r.slots, full := r.full + 1 }).beat s.cur).putPreds
          s.cur (opNum f.d) (s.issue f.h 8).ex true) (fun u => u.wakeCore (coreNow s))))
    ∧ (r.slots ≤ r.full → arg f.h 8 s f.c 1 = 0 → exec (.qpush f) s = .next (falseNow f.h s (begun f.h 8 s) (opNum f.d)))
    ∧ (r.slots ≤ r.full → arg f.h 8 s f.c 1 ≠ 0 → ∃ w, exec (.qpush f) s = .next w
        ∧ waitsIn f.h s (.qpush (constVal .w f.a) ws (opNum f.d) (s.issue f.h 8).ex (s.cycle + arg f.h 8 s f.c 1)) w))
  ∧ (∀ (f : F3) (s : State) (r : QueueReg), readyQueue f.h (f.d, r.words) [(f.c, 1)] f.d (constVal .w f.a) r s = true →
    unlogged s = true → noQueueWaiters s = true →
    let o := r.base + 4 * r.words * r.head
    let ws := loadWords o (fileRead (s.team r.owner).scratch o (4 * r.words)) (fun a => filePoisAny (s.team r.owner).scratch a 1)
    (0 < r.full → exec (.qpop f) s = .next (finishedThen f.h 8 s
        ((((begun f.h 8 s).setQueue (coreNow s) (constVal .w f.a) { r with head := (r.head + 1) % r.slots, full := r.full - 1 }).putWordsIn
          s.cur (s.issue f.h 8).ex f.d ws |>.beat s.cur).putPreds s.cur (opNum f.b) (s.issue f.h 8).ex true)
        (fun u => (u.acquire s.cur .team).wakeCore (coreNow s))))
    ∧ (r.full = 0 → arg f.h 8 s f.c 1 = 0 → exec (.qpop f) s = .next (falseNow f.h s (begun f.h 8 s) (opNum f.b)))
    ∧ (r.full = 0 → arg f.h 8 s f.c 1 ≠ 0 → ∃ w, exec (.qpop f) s = .next w
        ∧ waitsIn f.h s (.qpop (constVal .w f.a) f.d (opNum f.b) (s.issue f.h 8).ex (s.cycle + arg f.h 8 s f.c 1)) w))
  ∧ (∀ (f : F3) (s : State) (r : QueueReg), readyQueue f.h (f.d, 1) [] .z (constVal .w f.a) r s = true → unlogged s = true →
    exec (.qtry f) s = .next (finished f.h 8 s ((begun f.h 8 s).oncePut (s.issue f.h 8) f.d 1 (r.full + 2 ^ 16 * (r.slots - r.full)))))

/-- WORK DEQUES (09 R276): with no group waiting on a deque, DQPUSH puts its entry at the bottom of its core's deque, or gives false when
it holds 256; DQPOP takes the bottom entry, and DQSTL the top entry of a gang member's core, each as an acquire; an empty deque
gives false, or has DQPOP wait; a launch without deques traps 0x21. -/
def Obligations.Deques : Prop :=
  ∀ (f : F3) (s : State) (d : Deque), unlogged s = true → noDequeWaiters s = true →
    let kid := (s.teamOf s.cur).kid
    let c := coreNow s
    let u := begun f.h 8 s
    let put := fun (v : State) (e : DWord × Bool) => State.putWordsIn v s.cur (s.issue f.h 8).ex f.d ((wordsOf 2 e.1.toNat).map (fun w => { w with pois := e.2 }))
    (readyOnce f.h 8 noDst [(f.b, 2)] s = true → (s.core c).deque = some d → d.kid = kid →
      (d.entries.length < 256 → s.releaseReady s.cur .gang = true → exec (.dqpush f) s = .next (finishedThen f.h 8 s
          (((u.release s.cur .gang).setDeque c { d with entries := d.entries ++ [(BitVec.ofNat 64 (arg f.h 8 s f.b 2), false)] }).putPreds s.cur (opNum f.d) (s.issue f.h 8).ex true)
          (fun u => u.wakeCore c)))
      ∧ (256 ≤ d.entries.length → exec (.dqpush f) s = .next (falseNow f.h s u (opNum f.d))))
    ∧ (readyOnce f.h 8 (f.d, 2) [(f.c, 1)] s = true → (s.core c).deque = some d → d.kid = kid →
      (∀ e, d.entries.getLast? = some e → exec (.dqpop f) s = .next (finishedThen f.h 8 s
          ((put ((u.setDeque c { d with entries := d.entries.dropLast }).beat s.cur) e).putPreds s.cur (opNum f.b) (s.issue f.h 8).ex true)
          (fun u => u.acquire s.cur .gang)))
      ∧ (d.entries = [] → arg f.h 8 s f.c 1 = 0 → exec (.dqpop f) s = .next (falseNow f.h s u (opNum f.b)))
      ∧ (d.entries = [] → arg f.h 8 s f.c 1 ≠ 0 → ∃ w, exec (.dqpop f) s = .next w
          ∧ waitsIn f.h s (.dqpop f.d (opNum f.b) (s.issue f.h 8).ex (s.cycle + arg f.h 8 s f.c 1)) w))
    ∧ (readyOnce f.h 8 (f.d, 2) [(f.a, 1)] s = true → ((s.core c).deque.map (·.kid)) = some kid →
      let rank := arg f.h 8 s f.a 1
      let from_ := (s.team ((s.gang (s.teamOf s.cur).gang).members.getD rank 0)).core
      rank < (s.launchOf s.cur).r.gang → (s.core from_).deque = some d → d.kid = kid →
      (∀ e es, d.entries = e :: es → exec (.dqstl f) s = .next (finishedThen f.h 8 s
          ((put (u.setDeque from_ { d with entries := es }) e).putPreds s.cur (opNum f.b) (s.issue f.h 8).ex true)
          (fun u => (u.acquire s.cur .gang).wakeCore from_)))
      ∧ (d.entries = [] → exec (.dqstl f) s = .next (falseNow f.h s u (opNum f.b))))
    ∧ (readyOnce f.h 8 noDst [(f.b, 2)] s = true → (s.core c).deque = none →
      exec (.dqpush f) s = .next ((stood f.h 8 s).takeTrap s.cur (Trap.atInstr 0x21 (s.issue f.h 8))))

/-- CONVERGENCE (09 R274, R275): CSET declares a register of the quad for the team's groups of its mask, expecting their live threads;
SIGN adds the threads of EXEC, none of which has signed, and the round that they complete, with no multiplication recorded, starts
over; a register that is not the team's traps 0x43. -/
def Obligations.Convergence : Prop :=
  (∀ (f : F3) (s : State), readyOnce f.h 8 noDst [(f.b, 1)] s = true →
    let n := constVal .w f.a
    let tk := (s.group s.cur).team
    let q := s.quadOfGroup s.cur
    let groups := (s.team tk).groups.filter (fun gk => (arg f.h 8 s f.b 1).testBit (s.group gk).gid)
    (∀ c, kvGet (s.quad q).conv n = some c → c.owner = tk ∧ c.signed = []) →
    exec (.cset f) s = .next (finished f.h 8 s ((begun f.h 8 s).modQuad q (fun k =>
      { k with conv := if groups = [] then kvDel k.conv n
                       else kvSet k.conv n { owner := tk, members := maskOf (groups.map (fun gk => (s.group gk).gid)), lower := 0, signed := [],
                                             expect := (groups.map (fun gk => (s.group gk).live.length)).sum, op := none } }))))
  ∧ (∀ (f : F3) (s : State), ready f.h 8 s = true →
    let n := constVal .w f.a
    let q := s.quadOfGroup s.cur
    let ex := (s.issue f.h 8).ex
    (∀ c, kvGet (s.quad q).conv n = some c → c.owner = (s.group s.cur).team → c.members.testBit (s.group s.cur).gid = true →
      ex.all (fun t => !c.signed.contains (s.cur, t)) = true → s.releaseReady s.cur .team = true → c.op = none →
      (c.signed.length + ex.length < c.expect → exec (.sign f) s = .next (finished f.h 8 s (((begun f.h 8 s).release s.cur .team).modQuad q (fun k =>
        { k with conv := kvSet k.conv n { c with signed := c.signed ++ ex.map (fun t => (s.cur, t)) } }))))
      ∧ (c.signed.length + ex.length = c.expect → exec (.sign f) s = .next (finished f.h 8 s (((begun f.h 8 s).release s.cur .team).modQuad q (fun k =>
        { k with conv := kvSet k.conv n { c with expect := c.expect - c.lower, lower := 0, signed := [] } })))))
    ∧ (kvGet (s.quad q).conv n = none → exec (.sign f) s = .next ((stood f.h 8 s).takeTrap s.cur (Trap.atInstr 0x43 (s.issue f.h 8)))))

/-- CPY, CPYG, CPYS (09 R255, R256): in an original run a descriptor that passes its checks joins its core's queue, with fewer than 256 in flight, and the
team's ticket is delivered and counts on; a descriptor of no bytes and no digest only takes its ticket; one that fails the checks
traps 0x30; with 256 in flight the group waits.  A record in scratch that leaves the team's scratch traps 0x21 with its address; one that is misaligned, or in another team's
scratch, traps 0x30. -/
def Obligations.CopiesIssue : Prop :=
  (∀ (i : Instr) (f : F3) (fx : DWord) (k : CpyKind) (s : State) (bs : List Byte) (tm : Team), copyOf i = some (f, fx, k) →
    unlogged s = true → descBytes f fx s = some bs → kvGet s.teams (s.group s.cur).team = some tm → tm.kind = .original →
    let u := begun f.h 16 s
    let d := descOf k bs
    let c := coreNow s
    let tk := (s.group s.cur).team
    let ticked := ({ u with stamp := u.stamp + 1 } : State).modTeam tk (fun tm => { tm with ticket := (tm.ticket + 1) % 2 ^ 32 })
    (u.descFails tk k bs = true → exec i s = .next ((stood f.h 16 s).takeTrap s.cur (Trap.atInstr 0x30 (s.issue f.h 16))))
    ∧ (u.descFails tk k bs = false → (s.core c).moves.length < 256 → (d.total ≠ 0 ∨ d.digest ≠ none) →
        exec i s = .next (finished f.h 16 s ((ticked.modCore c (fun x => { x with moves := x.moves ++ [queuedMove u d] })).oncePut
          (s.issue f.h 16) f.d 1 tm.ticket)))
    ∧ (u.descFails tk k bs = false → (s.core c).moves.length < 256 → d.total = 0 → d.digest = none →
        exec i s = .next (finished f.h 16 s ((ticked.wakeTeam tk).oncePut (s.issue f.h 16) f.d 1 tm.ticket)))
    ∧ (u.descFails tk k bs = false → 256 ≤ (s.core c).moves.length → ∃ w, exec i s = .next w ∧ waitsAt f.h 16 s w))
  ∧ (∀ (i : Instr) (f : F3) (fx : DWord) (k : CpyKind) (s : State), copyOf i = some (f, fx, k) → fx.getLsbD 0 = true →
    readyOnce f.h 16 (f.d, 1) [(f.a, 1)] s = true →
    let a := arg f.h 16 s f.a 1
    let tm := s.teamOf s.cur
    let is := s.issue f.h 16
    let rank := a % 2 ^ 32 / 2 ^ 24
    let own := rank = 0xFF ∨ rank = tm.grank
    (tm.scratchSize < a % 2 ^ 24 + 64 →
      exec i s = .next ((stood f.h 16 s).takeTrap s.cur { Trap.atInstr 0x21 is with addr := a }))
    ∧ (a % 2 ^ 24 + 64 ≤ tm.scratchSize → a % 64 ≠ 0 → exec i s = .next ((stood f.h 16 s).takeTrap s.cur (Trap.atInstr 0x30 is)))
    ∧ (a % 2 ^ 24 + 64 ≤ tm.scratchSize → ¬own → exec i s = .next ((stood f.h 16 s).takeTrap s.cur (Trap.atInstr 0x30 is))))

/-- CPYF AND CPYQ (09 R262, R263): CPYF with a count of at most 256 passes once no more than its count of the group's descriptors are in flight, clearing the
count of aborts, and else waits; with an undelivered abort it completes and takes the deferred trap 0x31; a greater count traps 0x02.  CPYQ delivers the number in
flight, of those that write outside the team, or of those in the fault queue, or the group's aborts. -/
def Obligations.CopyWaits : Prop :=
  (∀ (f : F3) (s : State), readyOnce f.h 8 noDst [(f.b, 1)] s = true →
    let b := arg f.h 8 s f.b 1
    let is := s.issue f.h 8
    let n := (s.movesOf s.cur).length
    let g := s.group s.cur
    let free := passed is { g with aborts := 0, copyAborts := (g.copyAborts.drop 1).map (fun _ => false) }
    (256 < b → exec (.cpyf f) s = .next ((stood f.h 8 s).takeTrap s.cur (Trap.atInstr 0x02 is)))
    ∧ (b ≤ 256 → n ≤ b → g.copyAborts = [] → exec (.cpyf f) s = .next (afterGroup s (closed f.h s free)))
    ∧ (b ≤ 256 → n ≤ b → g.copyAborts ≠ [] → exec (.cpyf f) s =
        .next ((afterGroup s (closed f.h s free)).takeTrap s.cur { Trap.of 0x31 .deferred is is.lowest 0 with done := true }))
    ∧ (b ≤ 256 → b < n → ∃ w, exec (.cpyf f) s = .next w ∧ waitsAt f.h 8 s w))
  ∧ (∀ (f : F3) (s : State), readyOnce f.h 8 (f.d, 1) [] s = true → unlogged s = true →
    let ms := (s.core (coreNow s)).moves.filter (fun m => m.gk == s.cur)
    let out := fun x => exec (.cpyq f) s = .next (afterGroup s (closed f.h s (delivered f.d 1 x (s.issue f.h 8) (s.group s.cur))))
    (constVal .w f.b = 0 → out ms.length)
    ∧ (constVal .w f.b = 1 → out (ms.filter (fun m => m.d.out || (m.d.kind = 2 && (s.scrPlace m.team m.d.saddr).remote))).length)
    ∧ (constVal .w f.b = 2 → out (ms.filter (fun m => match m.st with | .faulted _ => true | _ => false)).length)
    ∧ (constVal .w f.b = 3 → out ((s.group s.cur).aborts + ((s.group s.cur).copyAborts.filter (fun x => !x)).length)))

/-- XCPY (09 R264; 15 Table 15.3): a record at an aligned address whose check and read succeed, with its ranges mapped, goes to the end of its
engine's ring as a command, and the two events are in the team's signature; a full ring makes the group wait; a misaligned record, or one with a
misaligned or reserved field, traps 0x30. -/
def Obligations.XcpyQueues : Prop :=
  ∀ (f : F3) (fx : DWord) (s : State), readyOnce f.h 16 noDst [(f.a, 2)] s = true →
    let a := arg f.h 16 s f.a 2
    let is := s.issue f.h 16
    let eng := Word.bits fx.toNat 5 0
    (a % 64 ≠ 0 → exec (.xcpy f fx) s = .next ((stood f.h 16 s).takeTrap s.cur (Trap.atInstr 0x30 is)))
    ∧ (a % 64 = 0 → ∀ v v₁ v₂ v₃ : State, ∀ ps ws,
      sourceCheck s.cur 1 (sourceParts a 64) (begun f.h 16 s) = (.ok ps, v) → v.sourceRead s.cur ps = some (ws, v₁) →
      let bs := ws.flatMap (fun w => Word.toBytes 4 w.val.toNat)
      let g := fun i => descField bs 0 8 i
      let len := g 2
      let bad := g 3 % 8 ≠ 0 ∨ g 5 % 16 ≠ 0 ∨ 2 ^ 40 < len ∨ (bs.drop 48).any (· ≠ 0) = true
      (bad → exec (.xcpy f fx) s = .next ((v₁.putBack s s.cur is.guardedOff).takeTrap s.cur (Trap.atInstr 0x30 is)))
      ∧ (¬bad → rangeCheck s.cur ⟨true, false, false, false⟩ (g 0 + len) (len / 4096 + 2) (g 0) v₁ = (none, v₂) →
        rangeCheck s.cur ⟨false, true, false, false⟩ (g 1 + len) (len / 4096 + 2) (g 1) v₂ = (none, v₃) →
        (v₃.teamOf s.cur).kind = .original → 0 < len → eng < 32 →
        let tk := (v₃.group s.cur).team
        let cmd : CopyCmd := { src := g 0, dst := g 1, len := len, doneAt := some (g 3), doneVal := g 4, dig := g 5, tenant := v₃.tenantOf s.cur,
                               phys := false, team := some tk, gk := s.cur, id := v₃.stamp, after := v₃.unperformed s.cur }
        let told := (({ v₃ with stamp := v₃.stamp + 1 } : State).fold tk
          { kind := 0x05, mask := 0, aux := 0, addr := BitVec.ofNat 64 (g 1), d0 := BitVec.ofNat 64 (g 0), d1 := BitVec.ofNat 64 len }).fold tk
          { kind := 0x06, mask := 0, aux := 0, addr := BitVec.ofNat 64 (g 3), d0 := BitVec.ofNat 64 (g 4), d1 := BitVec.ofNat 64 (g 5) }
        ((v₃.engine eng).ring.length < 64 →
          exec (.xcpy f fx) s = .next (finished f.h 16 s (told.setEngine eng { v₃.engine eng with ring := (v₃.engine eng).ring ++ [cmd] })))
        ∧ (64 ≤ (v₃.engine eng).ring.length → ∃ w, exec (.xcpy f fx) s = .next w ∧ (w.group s.cur).run = .room ∧ w.engines = v₃.engines)))

/-- THE MOVER'S STEPS (09 R257, R259; 12 R348; 15 R407): for a team on its core, with a working place free, the earliest queued descriptor
starts once the writes that it follows are performed; a working one moves its next piece, which its digest takes in and its events tell,
and counts its bytes, but not the box's last one where a digest word is still to come; a fault or an abort stops it; one whose bytes are all written counts what is left, leaves, and wakes its team. -/
def Obligations.MoverSteps : Prop :=
  (∀ (c : Nat) (s : State) (m : Move), (s.core c).moves.find? (fun m => m.st == .queued && s.moverOn m.team) = some m →
    ((s.core c).moves.filter (fun m => m.st == .working)).length < 8 → s.writesDone m.after = true →
    exec (.moverDescriptorStart c) s = .next (s.setMove c { m with st := .working }))
  ∧ (∀ (c id : Nat) (s : State) (m : Move), s.move c id = some m → m.st = .working → s.moverOn m.team = true →
    let p := pieceAt m
    (m.pos < m.d.total → m.d.rows = none →
      (∀ cells u v, s.pieceRead m p.1 p.2.1 p.2.2 = .ok cells u → u.pieceWrite m p.1 p.2.1 cells = .ok () v →
        let r := v.moveEvents (m.take (cellBytes cells)) (if m.d.out then p.1 else p.2.1) (cellBytes cells) (m.pos % m.d.row + p.2.2 == m.d.row)
        let k := if r.1.pos = m.d.total ∧ m.d.digest.isSome = true then p.2.2 - 1 else p.2.2
        exec (.moverWrite c id) s = .next ((r.2.setMove c { r.1 with counted := m.counted + k }).countInto m.team m.d.bar k))
      ∧ (∀ va u, s.pieceRead m p.1 p.2.1 p.2.2 = .fault va u → exec (.moverWrite c id) s = .next (u.faultMove c m va))
      ∧ (∀ code va u, s.pieceRead m p.1 p.2.1 p.2.2 = .abort code va u → exec (.moverWrite c id) s = .next (u.abortMove c m code va)))
    ∧ (m.d.total ≤ m.pos → m.d.digest = none →
      exec (.moverComplete c id) s = .next (((((s.countInto m.team m.d.bar (m.d.total - m.counted)).delMove c id).wakeTeam m.team).unpark m.gk))))

/-- THE COPY ENGINES' STEPS (09 R264): an idle engine takes the first command of its ring once the writes that it follows are performed; a busy engine
carries its command out and is idle. -/
def Obligations.CopyEngineSteps : Prop :=
  (∀ (e : Nat) (s : State) (c : CopyCmd) (rest : List CopyCmd), (s.engine e).busy = none → (s.engine e).ring = c :: rest →
    s.writesDone c.after = true → exec (.copyEngineStart e) s = .next (s.setEngine e ⟨rest, some c⟩))
  ∧ (∀ (e : Nat) (s : State) (c : CopyCmd), (s.engine e).busy = some c →
    exec (.copyEngineComplete e) s = .next ((s.runCopy e c).setEngine e { s.engine e with busy := none }))
/-- TILES: TCFG, TZR, TMOV, MXSC (10 R281, R287, R289): TCFG configures a free tile or one of the team's own with the tag none and claims it in a
reservation, and with 0 and 0 releases it; TZR gives an own tile its tag; TMOV between own tiles of one shape copies the tag; MXSC takes an mx4 tile; each
posts its operation.  A shape out of bounds or a tile of another team traps 0x42, MXSC on another tag 0x40. -/
def Obligations.TileConfiguration : Prop :=
  (∀ (f : F3) (s : State), readyMat f.h 8 noDst [(f.a, 1), (f.b, 1)] s = true →
    let t := constVal .w f.d
    let rows := arg f.h 8 s f.a 1
    let bytes := arg f.h 8 s f.b 1
    let taken := (quadNow s).tileTaken (teamNow s) t
    let good := 16 ≤ rows ∧ rows ≤ 128 ∧ rows % 16 = 0 ∧ 16 ≤ bytes ∧ bytes ≤ 256 ∧ bytes % 16 = 0
    (taken = true → matTraps (.tcfg f) f.h 8 s 0x42)
    ∧ (rows = 0 → bytes = 0 → taken = false →
      (((quadNow s).tile t).owner = some (teamNow s) →
        exec (.tcfg f) s = .next (posts f.h 8 s false (.untile t) (shaped t none 0 0 0)))
      ∧ (((quadNow s).tile t).owner ≠ some (teamNow s) →
        exec (.tcfg f) s = .next (afterGroup s (closed f.h s (passed (s.issue f.h 8) (s.group s.cur))))))
    ∧ (¬(rows = 0 ∧ bytes = 0) → ¬good → matTraps (.tcfg f) f.h 8 s 0x42)
    ∧ (good → taken = false → canReserve (quadNow s) (teamNow s) = true →
      exec (.tcfg f) s = .next (posts f.h 8 s false (.tcfg t rows bytes) (fun q => shaped t (some (teamNow s)) rows bytes 0 (reserved q (teamNow s)))))
    ∧ (good → taken = false → canReserve (quadNow s) (teamNow s) = false → ∃ w, exec (.tcfg f) s = .next w ∧ waitsAt f.h 8 s w))
  ∧ (∀ (f : F3) (s : State), readyMat f.h 8 noDst [] s = true →
    let t := constVal .w f.d
    let a := constVal .w f.a
    ((shape s t).1 ≠ 0 →
      exec (.tzr f) s = .next (posts f.h 8 s false (.tzr t) (tagged t (constVal .w f.b)))
      ∧ (shape s t = shape s a → exec (.tmov f) s = .next (posts f.h 8 s false (.tmov t a) (tagged t ((quadNow s).tile a).tag))))
    ∧ ((shape s t).1 = 0 → matTraps (.tzr f) f.h 8 s 0x42 ∧ matTraps (.tmov f) f.h 8 s 0x42)
    ∧ (shape s t ≠ shape s a → matTraps (.tmov f) f.h 8 s 0x42))
  ∧ (∀ (f : F3) (s : State), readyMat f.h 8 noDst [(f.b, 1)] s = true →
    let t := constVal .w f.d
    let sh := shape s t
    (sh.1 = 0 → matTraps (.mxsc f) f.h 8 s 0x42)
    ∧ (sh.1 ≠ 0 → ((quadNow s).tile t).tag ≠ 0xE → matTraps (.mxsc f) f.h 8 s 0x40)
    ∧ (sh.1 ≠ 0 → ((quadNow s).tile t).tag = 0xE →
      exec (.mxsc f) s = .next (posts f.h 8 s false (.mxsc t sh.1 sh.2 (Word.toSigned 32 (arg f.h 8 s f.b 1))) id)))

/-- TILE LOADS: TLD AND TLDQ (10 R286, R288): with a pitch that is a nonzero multiple of 16, footprints in the team's scratch, and an own tile, the load is
posted as a long-latency operation and the tile has its tag, bf16 for TLDQ; a bad pitch traps 0x02 first, a tile that is not the team's 0x42
last. -/
def Obligations.TileLoads : Prop :=
  (∀ (f : F3) (fx : DWord) (s : State), readyMat f.h 16 noDst [(f.a, 1), (f.b, 1), (f.c, 1)] s = true →
    let t := constVal .w f.d
    let a := arg f.h 16 s f.a 1
    let pitch := arg f.h 16 s f.b 1
    let c := arg f.h 16 s f.c 1
    let sh := shape s t
    let badP := pitch = 0 ∨ pitch % 16 ≠ 0
    let tag := Word.bits fx.toNat 3 0
    let fs := tldFeet tag (fx.getLsbD 4) sh.1 sh.2 a pitch c
    (badP → matTraps (.tld f fx) f.h 16 s 0x02)
    ∧ (¬badP → feet (begun f.h 16 s) fs = true → sh.1 = 0 → matTraps (.tld f fx) f.h 16 s 0x42)
    ∧ (¬badP → feet (begun f.h 16 s) fs = true → sh.1 ≠ 0 →
      exec (.tld f fx) s = .next (posts f.h 16 s true (.tld t sh.1 sh.2 tag (fx.getLsbD 4) (a % 2 ^ 24) pitch (c % 2 ^ 24)) (tagged t tag))))
  ∧ (∀ (f : F3) (fx : DWord) (s : State), readyMat f.h 16 noDst [(f.a, 1), (f.b, 1), (f.c, 1)] s = true →
    let t := constVal .w f.d
    let a := arg f.h 16 s f.a 1
    let pitch := arg f.h 16 s f.b 1
    let c := arg f.h 16 s f.c 1
    let pp := Word.bits fx.toNat 15 0
    let sh := shape s t
    let k := sh.2 / 2
    let badP := pitch = 0 ∨ pitch % 16 ≠ 0 ∨ 8 * pp < k
    let fs := [(a, rowsFoot sh.1 pitch (k / 2), 16), (c, rowsFoot sh.1 pp (4 * ((k + 31) / 32)), 16)]
    (badP → matTraps (.tldq f fx) f.h 16 s 0x02)
    ∧ (¬badP → feet (begun f.h 16 s) fs = true → sh.1 = 0 → matTraps (.tldq f fx) f.h 16 s 0x42)
    ∧ (¬badP → feet (begun f.h 16 s) fs = true → sh.1 ≠ 0 →
      exec (.tldq f fx) s = .next (posts f.h 16 s true (.tldq t sh.1 sh.2 (a % 2 ^ 24) pitch (c % 2 ^ 24) pp) (tagged t 0xA))))

/-- MMA AND MMAS (10 R286, R290, R292, R293): with operands whose ownership, shapes and tags agree, and lawful metadata at an own, aligned footprint, the operation
is posted; breaches trap 0x42, 0x40 and 0x41 in that order; signed on a convergence register that waits for more threads, the first signature records
the operation; a deferred trap that waits for the group is delivered instead. -/
def Obligations.MatrixMultiply : Prop :=
  (∀ (f : F3) (fx : DWord) (s : State), readyMat f.h 16 noDst [] s = true →
    let ta := constVal .w f.d
    let tb := constVal .w f.a
    let reg := regionOf (Word.bits fx.toNat 7 0)
    let chk := (quadNow s).mmaOp (teamNow s) ta tb reg none (s.effClass (s.issue f.h 16) f.h.pcl .matrix)
    (f.b = .z → (∀ o, chk = .ok o → exec (.mma f fx) s = .next (posts f.h 16 s false (.mma o) id))
      ∧ (∀ code, chk = .error code → matTraps (.mma f fx) f.h 16 s code))
    ∧ (f.b ≠ .z → ∀ o c, chk = .ok o → kvGet (quadNow s).conv (constVal .w f.b) = some c → c.owner = teamNow s →
      c.members.testBit (s.group s.cur).gid = true → c.signed = [] → c.op = none → s.releaseReady s.cur .team = true →
      (s.issue f.h 16).ex.length < c.expect →
      exec (.mma f fx) s = .next (finished f.h 16 s (((begun f.h 16 s).release s.cur .team).modQuad (s.quadOfGroup s.cur) (fun q =>
        { q with conv := kvSet q.conv (constVal .w f.b) { c with
            signed := (s.issue f.h 16).ex.map (fun t => (s.cur, t))
            op := some (signFields f, fx, false, s.effClass (s.issue f.h 16) f.h.pcl .control, o) } })))))
  ∧ (∀ (f : F3) (fx : DWord) (s : State), f.b = .z → readyMat f.h 16 noDst [(f.c, 1)] s = true →
    let ta := constVal .w f.d
    let tb := constVal .w f.a
    let reg := regionOf (Word.bits fx.toNat 7 0)
    let a := arg f.h 16 s f.c 1
    let n := if (shape s ta).1 = 0 then 0 else reg.m * (2 * tagK ((quadNow s).tile ta).tag (shape s ta).2 / 8)
    let md := ((begun f.h 16 s).scrCells (teamNow s) (a % 2 ^ 24) n).map (fun c => (c.b, c.pois))
    let chk := (quadNow s).mmaOp (teamNow s) ta tb reg (some md) (s.effClass (s.issue f.h 16) f.h.pcl .matrix)
    feet (begun f.h 16 s) [(a, n, 16)] = true →
    (∀ o, chk = .ok o → metaBad (md.map (·.1)) = false → exec (.mmas f fx) s = .next (posts f.h 16 s false (.mma o) id))
    ∧ (∀ o, chk = .ok o → metaBad (md.map (·.1)) = true → matTraps (.mmas f fx) f.h 16 s 0x41)
    ∧ (∀ code, chk = .error code → matTraps (.mmas f fx) f.h 16 s code))
  ∧ (∀ (f : F3) (fx : DWord) (s : State) (c : Nat) (cs : List Nat), ready f.h 16 s = true → (s.group s.cur).deferred = c :: cs →
    let is := s.issue f.h 16
    let u := stood f.h 16 s
    exec (.mma f fx) s = .next ((u.modGroup s.cur (fun g => { g with deferred := cs })).takeTrap s.cur (Trap.of c .deferred is is.lowest 0)))

/-- THE ACCUMULATOR: AZR, ALD, AMOV, ADRN (10 R282, R286, R296 to R300): AZR claims its row blocks with their tag and AZR.none releases the team's own; ALD
claims the row blocks of its region; AMOV and ADRN need rows that the team owns; each posts its operation; a range out of bounds or a row block of
another team traps 0x42. -/
def Obligations.AccumulatorOperations : Prop :=
  (∀ (f : F3) (s : State), readyMat f.h 8 noDst [(f.a, 1), (f.b, 1)] s = true →
    let row := arg f.h 8 s f.a 1
    let n := arg f.h 8 s f.b 1
    let rbs := (List.range (n / 64)).map (· + row / 64)
    let bad := row % 64 ≠ 0 ∨ n % 64 ≠ 0 ∨ n < 64 ∨ 512 < row + n
    let tk := teamNow s
    let own := rbs.filter (fun rb => kvGet (quadNow s).rbs rb = some tk)
    let all := rbs.flatMap (fun rb => [4 * rb, 4 * rb + 1, 4 * rb + 2, 4 * rb + 3])
    ((bad ∨ rbs.any ((quadNow s).rbTaken tk) = true) → matTraps (.azr f) f.h 8 s 0x42)
    ∧ (¬bad → rbs.any ((quadNow s).rbTaken tk) = false → canReserve (quadNow s) tk = true →
      exec (.azr f) s = .next (posts f.h 8 s false (.azr (row / 64) (n / 64)) (fun q =>
        (claimed tk rbs (constVal .w f.c) (reserved q tk)).setEtags all (constVal .w f.c))))
    ∧ (bad → matTraps (.azrRelease f) f.h 8 s 0x42)
    ∧ (¬bad → own ≠ [] → exec (.azrRelease f) s = .next (posts f.h 8 s false (.unrow own) (fun q => { q with rbs := own.foldl kvDel q.rbs })))
    ∧ (¬bad → own = [] → exec (.azrRelease f) s = .next (afterGroup s (closed f.h s (passed (s.issue f.h 8) (s.group s.cur))))))
  ∧ (∀ (f : F3) (fx : DWord) (s : State), readyMat f.h 16 noDst [(f.a, 1), (f.b, 1)] s = true →
    let reg := regionOf (Word.bits fx.toNat 7 0)
    let a := arg f.h 16 s f.a 1
    let pitch := arg f.h 16 s f.b 1
    let tk := teamNow s
    let badP := pitch = 0 ∨ pitch % 16 ≠ 0
    let taken := reg.inside = false ∨ reg.rbs.any ((quadNow s).rbTaken tk) = true
    (badP → matTraps (.ald f fx) f.h 16 s 0x02)
    ∧ (¬badP → feet (begun f.h 16 s) [(a, rowsFoot reg.m pitch (4 * reg.n), 16)] = true → taken → matTraps (.ald f fx) f.h 16 s 0x42)
    ∧ (¬badP → feet (begun f.h 16 s) [(a, rowsFoot reg.m pitch (4 * reg.n), 16)] = true → ¬taken → canReserve (quadNow s) tk = true →
      exec (.ald f fx) s = .next (posts f.h 16 s true
        (.ald reg (reg.rbs.filter (fun rb => kvGet (quadNow s).rbs rb ≠ some tk)) (a % 2 ^ 24) pitch)
        (fun q => (claimed tk reg.rbs (Word.bits fx.toNat 11 8) (reserved q tk)).setEtags reg.blocks (Word.bits fx.toNat 11 8)))))
  ∧ (∀ (f : F3) (fx : DWord) (s : State), readyMat f.h 16 noDst [(f.a, 1)] s = true →
    let dst := regionOf (Word.bits fx.toNat 7 0)
    let src := regionOf (Word.bits fx.toNat 15 8)
    let a := arg f.h 16 s f.a 1
    let q := quadNow s
    let own := q.ownsRows (teamNow s) dst = true ∧ q.ownsRows (teamNow s) src = true ∧ dst.m = src.m ∧ dst.n = src.n
    let f32 := src.blocks.all (fun b => q.etag b == 8) = true
    feet (begun f.h 16 s) (if f.a ≠ .z then [(a, 4 * dst.m, 16)] else []) = true →
    (¬own → matTraps (.amov f fx) f.h 16 s 0x42)
    ∧ (own → f.a ≠ .z → ¬f32 → matTraps (.amov f fx) f.h 16 s 0x40)
    ∧ (own → (f.a = .z ∨ f32) → exec (.amov f fx) s = .next (posts f.h 16 s false
        (.amov dst src (if f.a ≠ .z then some (a % 2 ^ 24) else none) (s.effClass (s.issue f.h 16) f.h.pcl .matrix))
        (fun x => (dst.blocks.zip (src.blocks.map q.etag)).foldl (fun x e => x.setEtags [e.1] e.2) x))))
  ∧ (∀ (f : F3) (fx : DWord) (s : State), (f.c = .z ∨ fx.getLsbD 12 = false) →
    readyMat f.h 16 noDst [(f.d, 1), (f.a, 1), (f.b, 1), (f.c, if fx.getLsbD 12 then 2 else 1)] s = true →
    let x := fx.toNat
    let reg := regionOf (Word.bits x 7 0)
    let fmt := Word.bits x 10 8
    let pitch := Word.bits x 31 16
    let bar := arg f.h 16 s f.d 1
    let a := arg f.h 16 s f.a 1
    let c := arg f.h 16 s f.c 1
    feet (begun f.h 16 s) ((a, drainFoot fmt reg pitch, 16) :: ((if f.d ≠ .z then [(bar, 16, 16)] else []) ++ (if f.c ≠ .z then [(c, 4, 4)] else []))) = true →
    ((quadNow s).ownsRows (teamNow s) reg = false → matTraps (.adrn f fx) f.h 16 s 0x42)
    ∧ ((quadNow s).ownsRows (teamNow s) reg = true → exec (.adrn f fx) s = .next (posts f.h 16 s true
        (.adrn reg (reg.blocks.map (quadNow s).etag) fmt (fx.getLsbD 11) (fx.getLsbD 13) (a % 2 ^ 24) pitch (arg f.h 16 s f.b 1)
          (if f.c = .z then .none else .scratch (c % 2 ^ 24)) (if f.d ≠ .z then some bar else none) (s.effClass (s.issue f.h 16) f.h.pcl .matrix)) id)))

/-- TSTAT (10 R301): it delivers the team's matrix status, clears it after a reading with selector 1, or delivers a tile's configuration word. -/
def Obligations.MatrixStatus : Prop :=
  ∀ (f : F3) (s : State), readyMat f.h 8 (f.d, 1) [] s = true → unlogged s = true →
    let q := quadNow s
    let tk := teamNow s
    let t := q.tile (constVal .w f.b)
    let st := match q.resOf tk with | some (_, r) => r.status.toNat + 2 ^ 16 * min 65535 r.ops.length | none => 0
    let out := fun (x : Nat) (s' : State) => afterGroup s' (closed f.h s' (delivered f.d 1 x (s.issue f.h 8) (s.group s.cur)))
    (constVal .w f.a = 0 → exec (.tstat f) s = .next (out st s))
    ∧ (constVal .w f.a = 1 → exec (.tstat f) s = .next (out st (s.modQuad (s.quadOfGroup s.cur) (fun q => q.modRes tk (fun r => { r with status := 0 })))))
    ∧ (constVal .w f.a = 2 → exec (.tstat f) s = .next (out
        ((if t.owner = some tk then 2 ^ 31 else if t.owner.isSome then 2 ^ 30 else 0) + t.tag * 2 ^ 20 + t.rows * 2 ^ 12 + t.bytes) s))

/-- THE STEPS OF A MATRIX ENGINE (10 R283, R294, R295, R300): an operation that is clear of the earlier ones begins; one that has begun has its effect and leaves; the arbiter
grants the best offer's next pass; a granted pass puts its 64 by 64 elements into the accumulator, each the sum of 10 R294 over
the accumulator's word, and no other word of the accumulator changes. -/
def Obligations.EngineSteps : Prop :=
  (∀ (q id : Nat) (s : State) (r : Reservation) (o : MatOp), (s.quad q).matOp id = some (r, o) →
    (o.begun = false → o.passes = [] → r.clear id o.kind.touch = true → s.writesDone o.after = true →
      exec (.engineOpBegin q id) s = .next (s.modQuad q (fun x => x.modOp id (fun o => { o with begun := true }))))
    ∧ (o.begun = true → o.amax = none → exec (.engineOpComplete q id) s = .next (s.matApply q r.team o))
    ∧ (∀ off bar m p, (match o.kind with | .adrn _ _ _ _ _ _ _ _ (.scratch x) b _ => some (x, b) | _ => none) = some (off, bar) → o.amax = some (m, p) →
      let s' := if s.scrPois r.team off 4 then s
        else s.scrWrite r.team off (Word.toBytes 4 (max (Word.ofBytes (s.scrRead r.team off 4)) m)) p
      exec (.amaxMerge q id) s = .next (((s'.countInto r.team bar 1).endMat q r.team o).wakeTeam r.team)))
  ∧ (∀ (q : Nat) (s : State) (b : Offer), b ∈ (s.quad q).res.filterMap (fun e => s.offer e.1 e.2) →
    (∀ x ∈ (s.quad q).res.filterMap (fun e => s.offer e.1 e.2), x ≠ b → b.beats x = true) →
    (((s.quad q).res.filterMap (fun e => s.offer e.1 e.2)).map (·.index)).Nodup →
    exec (.passGrant q) s = .next (s.modQuad q (fun x => x.modOp b.id (fun p => { p with inArray := p.inArray ++ [p.granted], granted := p.granted + 1 }))))
  ∧ (∀ (q id p : Nat) (s : State) (r : Reservation) (o : MatOp) (m : MmaOp), (s.quad q).matOp id = some (r, o) → o.kind = .mma m →
    o.inArray.contains p = true → s.env.votes = [] →
    let w := m.reg.n / 64
    ∃ u, exec (.passComplete q id p) s = .next u ∧ u.mem = s.mem
      ∧ (∀ i j, i < 64 → j < 64 →
        let ii := 64 * (p / w) + i
        let jj := 64 * (p % w) + j
        let key := 256 * (m.reg.row0 + ii) + m.reg.col0 + jj
        let old := kvGetD RegWord.zero (s.quad q).acc key
        m.reg.col0 + jj < 256 →
        kvGetD RegWord.zero (u.quad q).acc key =
          ⟨BitVec.ofNat 32 (m.element (s.quad q) old.val.toNat ii jj).1, old.pois || m.poisoned (s.quad q) ii jj⟩)
      ∧ (∀ key, ¬(m.reg.row0 + 64 * (p / w) ≤ key / 256 ∧ key / 256 < m.reg.row0 + 64 * (p / w) + 64
            ∧ m.reg.col0 + 64 * (p % w) ≤ key % 256 ∧ key % 256 < m.reg.col0 + 64 * (p % w) + 64) →
        m.reg.col0 + 64 * (p % w) + 64 ≤ 256 → kvGetD RegWord.zero (u.quad q).acc key = kvGetD RegWord.zero (s.quad q).acc key))

/-- WHAT THE OPERATIONS LEAVE (10 R287, R289, R296, R298): a completed TZR leaves its tile zero and a completed TMOV leaves it with the other tile's data; a completed AZR leaves
its row blocks zero and the other words of the accumulator as they were; a completed unscaled AMOV leaves the source's words in the destination,
the source read before anything is written; none changes a byte of memory. -/
def Obligations.EngineData : Prop :=
  ∀ (q id : Nat) (s : State) (r : Reservation) (o : MatOp), (s.quad q).matOp id = some (r, o) → o.begun = true → o.amax = none → s.env.votes = [] →
    ∃ u, exec (.engineOpComplete q id) s = .next u ∧ u.mem = s.mem
      ∧ (∀ t, o.kind = .tzr t → ∀ k, kvGetD RegWord.zero ((u.quad q).tile t).data k = RegWord.zero)
      ∧ (∀ t a, o.kind = .tmov t a → ((u.quad q).tile t).data = ((s.quad q).tile a).data ∧ ((u.quad q).tile t).side = ((s.quad q).tile a).side)
      ∧ (∀ rb n, o.kind = .azr rb n → ∀ k, kvGetD RegWord.zero (u.quad q).acc k =
          if rb ≤ k / 256 / 64 ∧ k / 256 / 64 < rb + n then RegWord.zero else kvGetD RegWord.zero (s.quad q).acc k)
      ∧ (∀ dst src cls, o.kind = .amov dst src none cls → dst.m = src.m → dst.n = src.n → dst.col0 + dst.n ≤ 256 → ∀ i j, i < src.m → j < src.n →
          kvGetD RegWord.zero (u.quad q).acc (256 * (dst.row0 + i) + dst.col0 + j)
            = kvGetD RegWord.zero (s.quad q).acc (256 * (src.row0 + i) + src.col0 + j))
/-- THE EVENTS OF A CORE (01 R45, R59; 03 R100; 04 R154, R156; 08 R229; 09 R271; 11 R315; 12 R325, R328, R329; 15 R403; 16 R452): a load's data
reach the registers of a group that has parked for them, and are kept back else; an acknowledgement, a held-over scratch request, a sleep, a sweep, a colour's flip and the host's resume end what waits for them; a wait
past its deadline writes false and is passed over; a block that checks is entered, and one that fails takes its trap; a scoreboard mismatch changes no group. -/
def Obligations.CoreEvents : Prop :=
  (∀ (gk tok : Nat) (s : State) (g : Group) (p : Pending), kvGet s.groups gk = some g → g.pend.find? (fun p => p.tok == tok) = some p →
    p.ready = true → p.due = false → p.t ≤ 32 → s.onCore g.team = true → (p.words.map (·.1)).Nodup →
    ∃ u, exec (.loadDataReturn gk tok) s = .next u ∧ u.mem = s.mem ∧ (u.group gk).pend = g.pend.filter (fun p => p.tok ≠ tok)
      ∧ (∀ t n w, (LoadDst.vreg t n, w) ∈ p.words → t < g.threads.length → (g.thread t).st = .live → n < (s.roleOf gk).vregs →
          if g.parked then kvGetD RegWord.zero ((u.group gk).thread t).v n = w else kvGet ((u.group gk).thread t).late n = some w)
      ∧ (∀ n w, (LoadDst.sreg n, w) ∈ p.words →
          if g.parked then kvGetD RegWord.zero (u.group gk).s n = w else kvGet (u.group gk).lateS n = some w)
      ∧ (∀ t n, (g.parked = false ∨ LoadDst.vreg t n ∉ p.words.map (·.1)) → kvGetD RegWord.zero ((u.group gk).thread t).v n = kvGetD RegWord.zero (g.thread t).v n)
      ∧ (∀ k, k ≠ gk → kvGet u.groups k = kvGet s.groups k))
  ∧ (∀ (gk tok : Nat) (s : State), exec (.writeAck gk tok) s = .next (s.modGroup gk (fun g => { g with unacked := g.unacked.filter (· ≠ tok) })))
  ∧ (∀ (gk c : Nat) (s : State), (s.group gk).run = .bank c →
      (c ≤ s.cycle → exec (.scratchRequestServe gk) s = .next (s.modGroup gk (fun g => { g with run := .running, served := true })))
      ∧ (s.cycle < c → exec (.scratchRequestServe gk) s = .next s))
  ∧ (∀ (gk d : Nat) (s : State), (s.group gk).run = .sleep d →
      (d ≤ s.cycle → exec (.sleepExpiry gk) s = .next (s.modGroup gk (fun g => { g with run := .running })))
      ∧ (s.cycle < d → exec (.sleepExpiry gk) s = .next s))
  ∧ (∀ (gk : Nat) (s : State) (g : Group) (w : WaitInfo), kvGet s.groups gk = some g → (s.team g.team).resid = .placed → plainRun s gk = true →
      g.run.info = some w → (match g.run with | .barrier _ _ _ _ _ l => l | _ => false) = false → s.pushFits gk = false →
      (w.deadline ≠ 0 → w.deadline ≤ s.cycle → g.live ≠ [] → w.ex.Nodup → ∃ u, exec (.waitTimeout gk) s = .next u ∧ u.mem = s.mem ∧ (u.group gk).run = .running
        ∧ (u.group gk).threads = (landed g.waitPk
            (onThreads g (w.ex.filter (fun t => (g.thread t).st == .live)) (fun _ th => (th.setPred w.pd false).advance 8))).threads)
      ∧ (s.cycle < w.deadline → exec (.waitTimeout gk) s = .next s))
  ∧ (∀ (core i t : Nat) (s : State), (s.core core).sweeps.find? (fun e => e.1 == i) = some (i, t) → t ≤ s.cycle →
      s.groups.all (fun e => e.2.run ≠ .acquire i) = true → exec (.epochSweepEnd core i) s = .next (s.modCore core (fun k =>
        { k with sweeps := k.sweeps.filter (fun e => e.1 ≠ i)
                 l1 := k.l1.filter (fun l => (if i = 0 then l.et else if i = 1 then l.eg else l.ed) ≠ (k.epochs.getD i 0 + 1) % 16) })))
  ∧ (∀ (gang k t : Nat) (ts : List Nat) (s : State), (s.colour gang k).flips = t :: ts → t ≤ s.cycle → k < (s.gang gang).colours.length →
      ∃ u, exec (.colourFlip gang k) s = .next u ∧ u.mem = s.mem ∧ u.colour gang k = { s.colour gang k with seen := !(s.colour gang k).seen, flips := ts })
  ∧ (∀ (fn gk tag : Nat) (s : State), (s.group gk).run = .halted tag → s.hostOpen = true → (fn = 0 ∨ s.tenantOf gk = fn) →
      exec (.hostDebugResume fn gk) s = .next (s.modGroup gk (fun g => { g with run := .running })))
  ∧ (∀ (s : State) (g : Group), kvGet s.groups s.cur = some g → g.issuing ≠ [] → (List.range 4).all (fun i => !(g.loops.getD i LoopReg.idle).active) = true →
      g.loops.length = 4 →
      let is := s.issue ⟨false, .inherit, false, 7⟩ 8
      (∀ b v, fetchBlock g.bufWord s (s.coreOf s.cur) (s.tenantOf s.cur) is.blk = (.ok b, v) →
        ∃ u, exec .blockFetch s = .next u ∧ u.mem = v.mem ∧ (∀ t ∈ g.issuing, ((u.group s.cur).thread t).ent = some b.ent)
          ∧ (u.group s.cur).s = (v.group s.cur).s)
      ∧ (∀ e v, fetchBlock g.bufWord s (s.coreOf s.cur) (s.tenantOf s.cur) is.blk = (.error e, v) → exec .blockFetch s = .next (v.takeTrap s.cur (blockTrap is e))))
  ∧ (∀ (gk : Nat) (s : State), (kvGet s.groups gk).isSome = true → s.onCore (s.group gk).team = true →
      ∃ u, exec (.scoreboardMismatch gk) s = .next u ∧ u.groups = s.groups ∧ u.mem = s.mem ∧ u.recQ.length = s.recQ.length + 1
        ∧ kvGetD 0 u.counts 8 = kvGetD 0 s.counts 8 + 1)
  ∧ (∀ (core t va tk : Nat) (tm : Team) (s : State), va < 2 ^ 57 → (tk, tm) ∈ s.teams → tm.core = core → tm.resid.onCore = true → s.tenantOfTeam tk = t →
      exec (.tlbWalk core t va) s = .next (translate s core t va 0).2)

/-- PROTOCOL MESSAGES (13 R360, R361, R363, Table 13.4): an event of a home, a merge unit or a core delivers the first message of its kind about its line
that nothing before it holds back and that its end can take, and with none it does nothing; in the states of Table 13.4, with no event waiting for a
merge-buffer entry: an access in I, S or M is served at once; in U a registration or a flush under the line's tag adds to CV or to the home's
accumulator, and an access begins a merge that asks every cluster in CV; the arrival of the base ends IU and MU and acknowledges the registrations; a core answers a merge request with its slots and frees its entries. -/
def Obligations.ProtocolMessages : Prop :=
  (∀ (i : Instr) (s : State) (dst : Node) (line : Nat) (p : MsgBody → Bool), messageOf i = some (dst, line, p) →
    (∀ pre m post, s.net = pre ++ m :: post → firstOf dst line p pre m = true → s.takes m = true → exec i s = .next (({ s with net := pre ++ post } : State).deliver m))
    ∧ (s.net.all (fun m => !(m.dst == dst && m.line == line && p m.body)) = true → exec i s = .next s))
  ∧ (∀ (s : State) (line : Nat) (vc : List Nat), s.homeQ = [] →
    let v := s.learnClock (homeDie (64 * line)) vc
    (∀ (c : Nat) (a : HomeAcc), kvGet s.homes line = none → s.deliver ⟨.core c, .home, line, .acc a, vc⟩ = v.serve a)
    ∧ (∀ h, kvGet s.homes line = some h → h.st = .u → h.spilled = false →
      (∀ (cl : Nat) (tag : RedTag), h.op = tag → s.deliver ⟨.unit cl, .home, line, .reg tag, vc⟩ =
        { v with homes := kvSet s.homes line { h with cv := setInsert h.cv cl, used := s.stamp }, stamp := s.stamp + 1
                 net := s.net ++ [⟨.home, .unit cl, line, .rack tag, []⟩] })
      ∧ (∀ (cl : Nat) (tag : RedTag) (slots : Slots) (dereg : Bool), h.op = tag → s.deliver ⟨.unit cl, .home, line, .flush tag slots dereg, vc⟩ =
        { v with homes := kvSet s.homes line { h with ha := tag.merge h.ha slots, cv := if dereg then h.cv.filter (· ≠ cl) else h.cv, used := s.stamp }
                 stamp := s.stamp + 1 })
      ∧ (∀ (c : Nat) (a : HomeAcc), h.cv ≠ [] →
        let st : HomeSt := match a with | .rd _ _ _ _ _ _ => .ums | _ => .um
        s.deliver ⟨.core c, .home, line, .acc a, vc⟩ =
          { v with homes := kvSet s.homes line { h with st := st, mn := h.mn + 1, parts := [], regs := [], queue := [.acc a], used := s.stamp }
                   stamp := s.stamp + 1
                   net := s.net ++ h.cv.map (fun cl => ⟨.home, .unit cl, line, .mreq h.op (h.mn + 1), []⟩) }))
    ∧ (∀ h, kvGet s.homes line = some h → h.queue = [] →
      let s' := { s with homes := kvSet s.homes line { h with st := .u, regs := [], queue := [] }
                         net := s.net ++ (h.regs.filter (fun r => r.2.2)).map (fun r => ⟨.home, .unit r.1, line, .rack r.2.1, []⟩) }
      (h.st = .iu → exec (.homeBase line) s = .next s') ∧ (h.st = .mu → exec (.homeMoveComplete line) s = .next s')))
  ∧ (∀ (s : State) (c line mn : Nat) (tag : RedTag) (vc : List Nat), (s.cluster (Config.clusterOf c)).fenced = none →
      let es := (s.core c).red.filter (fun e => e.line == line && e.tag == tag)
      let s' := s.modCore c (fun k => { k with red := k.red.filter (fun e => !(e.line == line && e.tag == tag)) })
      s.deliver ⟨.unit (Config.clusterOf c), .core c, line, .mreq tag mn, vc⟩ =
        { s' with net := s.net ++ [⟨.core c, .unit (Config.clusterOf c), line, .mpart tag mn (es.foldl (fun ss e => tag.merge ss e.slots) []),
                                    s.dieClock (Config.dieOf c)⟩] })

/-- LAUNCH (11 R313): a release at device scope; a record that its check and read reach is submitted at once, and the destination receives its identifier, or 0 when
it is rejected; an accepted record is held under a fresh identifier; a part of the record that the access check refuses traps with its code and
its address. -/
def Obligations.LaunchSubmits : Prop :=
  (∀ (f : F2) (s v v₂ : State) (ps : List (Xlat × Nat × Nat)) (ws : List RegWord), readyOnce f.h 8 (f.d, 1) [(f.a, 2)] s = true →
    let is := s.issue f.h 8
    let a := arg f.h 8 s f.a 2
    sourceCheck s.cur 64 (sourceParts a 128) (begun f.h 8 s) = (.ok ps, v) → plainRun v s.cur = true →
    v.releaseReady s.cur .device = true → (v.release s.cur .device).sourceRead s.cur ps = some (ws, v₂) →
    let r := v₂.submit (wordsBytes ws) (firstPois ws) (v₂.tenantOf s.cur) (.team (v.group s.cur).team) none
    exec (.launch f) s = .next (finished f.h 8 s ((r.2.fold (v.group s.cur).team
      { kind := 0x0A, mask := 0, aux := 0, addr := BitVec.ofNat 64 a, d0 := BitVec.ofNat 64 r.1, d1 := 0 }).oncePut is f.d 1 r.1)))
  ∧ (∀ (f : F2) (s v : State) (e : Nat × Nat), readyOnce f.h 8 (f.d, 1) [(f.a, 2)] s = true →
    let is := s.issue f.h 8
    sourceCheck s.cur 64 (sourceParts (arg f.h 8 s f.a 2) 128) (begun f.h 8 s) = (.error e, v) →
    exec (.launch f) s = .next ((v.putBack s s.cur is.guardedOff).takeTrap s.cur { Trap.atInstr e.1 is with addr := e.2 }))
  ∧ (∀ (s : State) (bs : List Byte) (pois : Option Nat) (tenant : Nat) (src : RecSrc) (hb : Option Nat),
    let r := s.submit bs pois tenant src hb
    (s.recordCheck bs pois tenant (match src with | .team _ => true | _ => false) = none →
      (kvGet r.2.launches r.1).isSome = true ∧ (∀ k, k ≠ r.1 → kvGet r.2.launches k = kvGet s.launches k) ∧ r.2.mem = s.mem)
    ∧ ((s.recordCheck bs pois tenant (match src with | .team _ => true | _ => false)).isSome = true → r.1 = 0 ∧ r.2.launches = s.launches))
/-- THE DISPATCHER AND THE LAUNCH INTERFACE (14 R372, R373, R376, R377, R382, R383, R387 to R397; 15 R415): the ring registers take their fields; the head record of
an enabled ring is copied, HEAD advances and the record is submitted; the next unit in order is placed; a launch that is complete reports and leaves; the three launch
commands hold, release and kill a launch that the function may name; the watchdog fires past a limit; a slot table takes effect at a cycle that is a multiple of 64;
the members of a gang that are asked to halt halt with no pass in the array, their movers at a boundary; a halted team is saved and leaves its core, and a saved gang is
restored on the lowest cluster whose cores take it, once that has the colours, its outstanding loads issued again. -/
def Obligations.DispatcherEvents : Prop :=
  (∀ (fn r val : Nat) (s : State), s.hostOpen = true → r < 64 → (fn = 0 ∨ (s.ring r).tenant = fn) →
    let x := s.ring r
    let y := { x with tail := val % 65536 }
    (y.waiting ≤ x.size → exec (.ringDoorbell fn r val) s = .next (s.setRing r y))
    ∧ (x.size < y.waiting → ∃ u, exec (.ringDoorbell fn r val) s = .next u ∧ (u.ring r).en = false ∧ u.recQ.length = s.recQ.length + 1 ∧ u.mem = s.mem)
    ∧ exec (.lqctlWrite fn r val) s = .next (s.setRing r { x with
        en := val.testBit 31 && !s.ringsShut, logsize := if 4 ≤ val / 2 ^ 20 % 16 ∧ val / 2 ^ 20 % 16 ≤ 12 then val / 2 ^ 20 % 16 else 4
        tenant := if fn = 0 then val / 2 ^ 8 % 32 else x.tenant }))
  ∧ (∀ (fn r val : Nat) (s : State), s.hostOpen = true → r < 64 → fn ≤ 16 → (fn = 0 ∨ (s.ring r).tenant = fn) →
    exec (.registerWrite fn (0x10000 + 0x20 * r) val) s = .next (s.setRing r { s.ring r with base := val / 2 ^ 12 % 2 ^ 45 * 2 ^ 12 }))
  ∧ (∀ (r : Nat) (s v w : State) (m : Xlat) (e : Nat) (cells : EBytes), s.ready = true → r < 64 → s.launches.length < 1024 →
    let x := s.ring r
    let va := (x.base + 128 * (x.head % x.size)) % 2 ^ 57
    x.en = true → x.tenant ≤ 16 → 0 < x.waiting → x.waiting ≤ x.size → translateUnit s x.tenant va = (.ok m e, v) → m.r = true → m.attr ≠ .prot →
    physCells m.host (m.phys va) (grains 16 (m.phys va) 128) v = (cells, w) →
    exec (.recordFetch r) s = .next ((w.setRing r { x with head := (x.head + 1) % 65536 }).submit (cellBytes cells) (cells.findIdx? (·.pois)) x.tenant
      (.ring r (x.head % x.size)) none).2)
  ∧ (∀ (s : State), s.ready = true →
    (∀ kid places, s.nextUnit = some (.place (.gang kid) places) → exec .teamPlace s = .next (s.placeGang kid places))
    ∧ (∀ tks, s.nextUnit = some (.evict tks) → exec .teamPlace s = .next (tks.foldl State.preemptTeam s))
    ∧ (∀ e p ps, s.nextUnit = some (.place (.run e .replay) (p :: ps)) → exec .replayPlace s = .next (s.placeRun e .replay p))
    ∧ (∀ e p ps, s.nextUnit = some (.place (.run e .auth) (p :: ps)) → exec .authRunPlace s = .next (s.placeRun e .auth p)))
  ∧ (∀ (kid : Nat) (s : State), s.complete_ kid = true →
    exec (.launchComplete kid) s = .next ((s.report (s.launch kid) kid 0 0).forgetLaunch kid) ∧ kvGet ((s.report (s.launch kid) kid 0 0).forgetLaunch kid).launches kid = none)
  ∧ (∀ (fn kid : Nat) (s : State), s.hostOpen = true → s.mayName fn kid = true →
    (∃ u, exec (.lcmdPreempt fn kid) s = .next u ∧ u.mem = s.mem ∧ u.groups = s.groups
      ∧ ∀ e ∈ u.teams, e.2.kid = kid → e.2.resid.onCore = true → e.2.held = true ∧ e.2.resid ≠ .placed)
    ∧ (s.teams.any (fun e => e.2.kid == kid && e.2.held) = true → exec (.lcmdResume fn kid) s =
        .next { s with teams := s.teams.map (fun e => if e.2.kid = kid then (e.1, { e.2 with held := false }) else e) })
    ∧ exec (.lcmdKill fn kid) s = .next (s.killLaunch kid 6) ∧ kvGet (s.killLaunch kid 6).launches kid = none
      ∧ (s.killLaunch kid 6).teams.all (fun e => e.2.kid ≠ kid || (s.killLaunch kid 6).engines.any (fun x => (x.2.ring ++ x.2.busy.toList).any (fun c => c.team == some e.1))) = true)
  ∧ (∀ (kid lim : Nat) (s : State) (l : Launch), kvGet s.launches kid = some l → s.wallLimit l = some lim → lim < l.wallUsed →
    s.teams.any (fun e => e.2.kid == kid && e.2.resid.onCore) = true → exec (.wallClockExpiry kid) s = .next (s.watchdog kid none))
  ∧ (∀ (tk : Nat) (s : State) (tm : Team), kvGet s.teams tk = some tm → (s.launch tm.kid).r.persist = true → tm.resid = .placed →
    s.bkptHalted tk = false → tm.beatAt + 1000 * (s.launch tm.kid).r.beat ≤ s.clk.toNat → exec (.heartbeatExpiry tk) s = .next (s.watchdog tm.kid (some tk)))
  ∧ (∀ (core off val : Nat) (s : State), s.hostOpen = true → core < 1200 →
    exec (.slotTableWrite 0 core 0x40 val) s = .next (s.modCore core (fun k => { k with lend := val.testBit 0 }))
    ∧ (off < 0x40 → off % 8 = 0 → (s.core core).slots.length = 64 → ∃ u, exec (.slotTableWrite 0 core off val) s = .next u ∧ ∀ j, j < 64 →
        (u.core core).slots.getD j 0 = if off ≤ j ∧ j < off + 8 then BitVec.ofNat 8 (val / 2 ^ (8 * (j - off))) &&& 0x9F else (s.core core).slots.getD j 0))
  ∧ (∀ (core : Nat) (s : State), s.cycle % 64 = 0 → s.teams.all (fun e => e.2.core ≠ core) = true →
    ((s.core core).slots ≠ (s.core core).slotsOn ∨ (s.core core).lend ≠ (s.core core).lendOn) →
    exec (.slotTableApply core) s = .next (s.modCore core (fun k => { k with slotsOn := k.slots, lendOn := k.lend })))
  ∧ (∀ (gang : Nat) (s : State), let ms := (s.gangTeams gang).filter (fun tk => (s.team tk).resid == .preempting)
    ms.all (fun tk => !s.passesRun tk) = true →
    exec (.coreHalted gang) s = .next (ms.foldl (fun s tk => s.modTeam tk (fun tm => { tm with resid := .halted })) (ms.foldl State.stopMoves s))
    ∧ ((s.gangTeams gang).Nodup → (∀ tk ∈ ms, ∀ m ∈ (s.core (s.team tk).core).moves, m.st ≠ .working ∨ m.pos % 64 = 0 ∨ m.d.total ≤ m.pos) →
      ∃ u, exec (.coreHalted gang) s = .next u ∧ u.mem = s.mem ∧ u.groups = s.groups
        ∧ ∀ tk, (kvGet s.teams tk).isSome = true → (u.team tk).resid = if tk ∈ ms then .halted else (s.team tk).resid))
  ∧ (∀ (tk : Nat) (s : State) (tm : Team), kvGet s.teams tk = some tm → tm.resid = .halted → s.maySave tk = true →
    (s.core tm.core).moves.all (fun m => m.team ≠ tk) = true → tm.groups.all (fun gk => match (s.group gk).run with | .event _ _ _ => false | _ => true) = true →
    ∃ u, exec (.contextSave tk) s = .next u ∧ u.mem = s.mem ∧ (u.team tk).resid = .saved ∧ (u.team tk).image.isSome = true
      ∧ (∀ gk ∈ tm.groups, ∀ g, kvGet s.groups gk = some g → u.group gk = g.keep) ∧ (u.core tm.core).slog.all (fun e => e.team ≠ tk) = true)
  ∧ (∀ (gang cl : Nat) (s v : State), s.mayRestore gang = true → cl < Config.clusters →
    let g := s.gang gang
    (∀ c, c < cl → restoreGo [] g.members (coresOfCluster c) s = none) → restoreGo [] g.members (coresOfCluster cl) s = some v → (s.launch g.kid).fired = false →
    (8 < s.coloursUsed cl [] + g.colours.length → exec (.contextRestore gang []) s = .next s)
    ∧ (s.coloursUsed cl [] + g.colours.length ≤ 8 →
      let w := v.modGang gang (fun g => { g with cluster := cl })
      exec (.contextRestore gang []) s = .next ((g.members.flatMap (fun tk => (w.team tk).groups)).foldl State.reissueAll w)))

/-- THE ENDS OF TEAMS AND OF THEIR CHECKS (01 R17; 14 R381; 15 R403, R418, R424, R426, R429, Table 15.11, Table 15.14): a team all of whose groups have ended and whose work is done
leaves its core and counts in its launch; a replay whose signature agrees frees its Sleeve entry, one that differs asks for an authoritative run;
the oldest version of a line is written once its team and its producers are resolved, one that holds a release only with all that its team and the team's producers hold;
forced and expired versions are released unchecked; demerits decay by 1; CHKCTL takes THRESH. -/
def Obligations.CheckEvents : Prop :=
  (∀ (tk : Nat) (s : State) (tm : Team), kvGet s.teams tk = some tm → tm.kind = .original → tm.ended = none → s.canEnd tk = true → (s.launch tm.kid).checked = false →
    kvGet s.sleeve tk = none → (s.core tm.core).slog = [] →
    ∃ u, exec (.teamEnd tk) s = .next u ∧ u.mem = s.mem ∧ (u.team tk).resid = .gone ∧ u.groups = s.groups.filter (fun e => e.2.team ≠ tk)
      ∧ (∀ l, kvGet s.launches tm.kid = some l → kvGet u.launches tm.kid = some { l with ended := l.ended + 1 }))
  ∧ (∀ (tk : Nat) (s : State) (tm : Team) (e : SleeveEntry), kvGet s.teams tk = some tm → tm.kind = .replay → tm.ended = none → s.canEnd tk = true →
    (s.core tm.core).slog = [] → kvGet s.sleeve tm.sameAs = some e → e.run = some tk →
    let sig := ((s.foldEnd tk).team tk).chk.sig
    let bad := tm.chk.tainted || tm.chk.diverged || tm.chk.logBad
    ∃ u, exec (.runEnd tk) s = .next u ∧ kvGet u.teams tk = none
      ∧ (bad = false → sig = e.sigO → kvGet u.sleeve tm.sameAs = none)
      ∧ ((bad = true ∨ sig ≠ e.sigO) → kvGet u.sleeve tm.sameAs =
          some { e with sigR := sig, replayBad := bad, run := none, wants := some .auth, notBefore := s.clk.toNat }))
  ∧ (∀ (line : Nat) (s : State) (v : Version), s.chainHead line = some v →
    (v.rel = false → s.apron.count v = 1 → s.resolved v.entry = true → (s.team v.owner).chk.producers.all s.resolved = true →
      exec (.versionCommit line) s = .next ((s.dropVersion v).writeVersion v))
    ∧ (s.mayCommit v = false → exec (.versionCommit line) s = .next s)
    ∧ (∀ w, v.rel = true → w ∈ s.apron → w.based = true → (w.owner = v.owner ∨ (s.team v.owner).chk.producers.contains w.entry = true) → s.mayCommit w = false →
      exec (.versionCommit line) s = .next s))
  ∧ (∀ (slice t : Nat) (s : State) (v : Version), kvGet s.fullAt slice = some t → t + 100000 ≤ s.clk.toNat →
    s.groups.any (fun e => e.2.run == .room && (s.launchOf e.1).checked) = true →
    s.apron.find? (fun v => !isOutLine v.line && homeSlice (64 * v.line) = slice && v.based) = some v →
    exec (.apronForced slice) s = .next (({ s with fullAt := kvDel s.fullAt slice } : State).releaseUnchecked v))
  ∧ (∀ (line entry : Nat) (s : State) (v : Version), let l := s.launch (s.team entry).kid
    l.r.release = .after → (s.team entry).resid = .gone → (s.team entry).endClk + 1000 * l.r.relTime ≤ s.clk.toNat →
    s.apron.find? (fun v => v.line == line && v.entry == entry && v.based) = some v →
    exec (.releaseAfterExpiry line entry) s = .next (s.releaseUnchecked v))
  ∧ (∀ (s : State), s.decayed < s.clk.toNat / (2 ^ 20 * 1000) → ∃ u, exec .demeritDecay s = .next u ∧ u.decayed = s.decayed + 1 ∧ u.mem = s.mem
    ∧ (∀ c k, kvGet s.cores c = some k → (u.core c).demerit = k.demerit - 1) ∧ (∀ q k, kvGet s.quads q = some k → (u.quad q).demerit = k.demerit - 1))
  ∧ (∀ (val : Nat) (s : State), s.hostOpen = true → s.locked = false → exec (.chkctlWrite 0 val) s = .next { s with thresh := max 32 (val % 256) })

/-- SYSTEM SOFTWARE (16 R435, R437, R439, R441, R443, R457, R458, R462, R463; Table 16.6; 17 R474, R475): TCMD's page commands act for the physical function on a launch that the device holds, its group commands on the stopped group
that TCARG names, and END ends the named team; an invalidation and a fence go until their DONE, and with
counting off an invalidation takes the TLB entries and cached table pointers of its range away and changes no group, team or byte of memory; the context registers take their fields; a scrub changes nothing; a fatal error stops the device; a
containment reset fences a cluster and a later event opens it. -/
def Obligations.SoftwareEvents : Prop :=
  (∀ (t kid : Nat) (s : State), commands s 0 t kid = true →
    let tenant := (s.launch kid).r.tenant
    exec (.tcmdRetry 0 t kid) s = .next (s.retryPage tenant (s.ctx t).tcarg) ∧ exec (.tcmdDeny 0 t kid) s = .next (s.denyPage tenant (s.ctx t).tcarg))
  ∧ (∀ (fn t kid gk : Nat) (s : State) (g : Group), commands s fn t kid = true → s.stoppedGroup kid (s.ctx t).tcarg = some gk → kvGet s.groups gk = some g → g.live ≠ [] →
    (g.inHandler = true → g.stopAt ≠ none → ∃ u, exec (.tcmdResume fn t kid) s = .next u ∧ u.mem = s.mem
        ∧ u.group gk = { g with run := .running, resume := g.stopAt, stopAt := none })
    ∧ (∃ u, exec (.tcmdResume fn t kid) s = .next u ∧ (u.group gk).run = .running ∧ (u.group gk).stopAt = none ∧ u.mem = s.mem)
    ∧ (∃ u, exec (.tcmdSkip fn t kid) s = .next u ∧ (u.group gk).run = .running ∧ (u.group gk).stopAt = none ∧ u.mem = s.mem)
    ∧ (∀ st, g.inHandler = true → g.stopAt = some st → st.ex.Nodup → ∃ u, exec (.tcmdSkip fn t kid) s = .next u ∧ (u.group gk).threads =
        (onThreads g (st.ex.filter (fun t => st.ridx ≤ t && (g.thread t).st == .live)) (fun _ th => th.advance g.stopSize)).threads))
  ∧ (∀ (fn t kid tk : Nat) (rest : List Nat) (s : State) (tm : Team), commands s fn t kid = true → s.runsOf kid ((s.ctx t).tcarg % 2 ^ 32) = tk :: rest →
    kvGet s.teams tk = some tm → tm.ended = none → ∃ u, exec (.tcmdEnd fn t kid) s = .next u ∧ u.mem = s.mem ∧ u.groups = s.groups
      ∧ (u.team tk).ended = some (s.stopStatus tk))
  ∧ (∀ (t val n : Nat) (s : State), s.hostOpen = true → t ≤ 16 → val.testBit 0 = true → (s.ctx t).idone = true → isizeBytes (val / 2 ^ 8 % 16) = some n →
    (∃ u, exec (.tlbinv 0 t val) s = .next u) ∧ ((s.ctx t).shadow = 0 → ∃ u, exec (.tlbinv 0 t val) s = .next u
      ∧ u.groups = s.groups ∧ u.teams = s.teams ∧ u.mem = s.mem ∧ (u.ctx t).idone = false
      ∧ (∀ c k, kvGet s.cores c = some k → ((u.core c).tlb.all (fun e => !e.meets t (val / 2 ^ 12 % 2 ^ 45 * 2 ^ 12 / n * n) n)) = true)
      ∧ (∀ cl k, kvGet s.clusters cl = some k → ((u.cluster cl).tlb.all (fun e => !e.meets t (val / 2 ^ 12 % 2 ^ 45 * 2 ^ 12 / n * n) n)) = true)
      ∧ u.walkPtrs = s.walkPtrs.filter (fun p => !p.meets t (val / 2 ^ 12 % 2 ^ 45 * 2 ^ 12 / n * n) n)))
  ∧ (∀ (t : Nat) (s : State), (s.ctx t).idone = false →
    s.groups.all (fun e => s.tenantOf e.1 ≠ t || (e.2.unapplied.isEmpty && e.2.pend.all (fun p => p.ready || 32 < p.t))) = true →
    exec (.tlbinvDone t) s = .next (s.modCtx t (fun c => { c with idone := true })))
  ∧ (∀ (t val n : Nat) (s : State), s.hostOpen = true → t ≤ 16 → val.testBit 0 = true → (s.ctx t).mdone = true → msizeBytes (val / 2 ^ 8 % 16) = some n →
    let base := val / 2 ^ 12 % 2 ^ 45 * 2 ^ 12
    let c := { s.ctx t with mpa := base, msize := val / 2 ^ 8 % 16 }
    let held := s.apron.any (fun v => decide (base / n * n ≤ 64 * v.line ∧ 64 * v.line < base / n * n + n))
    (held = true → exec (.migrationFence 0 t val) s = .next { s with ctxs := kvSet s.ctxs t { c with mbusy := true } })
    ∧ (held = false → exec (.migrationFence 0 t val) s = .next { s with ctxs := kvSet s.ctxs t { c with mdone := false, mbusy := false } }))
  ∧ (∀ (t n : Nat) (s : State), (s.ctx t).mdone = false → msizeBytes (s.ctx t).msize = some n →
    exec (.migrationFenceDone t) s = .next ((s.flushRange ((s.ctx t).mpa / n * n) n).modCtx t (fun c => { c with mdone := true, mbusy := false })))
  ∧ (∀ (e src dst len : Nat) (s : State), s.ready = true → e < 32 → (s.engine e).ring.length < 64 → ∃ u, exec (.managementCoreCopy e src dst len) s = .next u ∧ u.mem = s.mem
    ∧ ∃ c, (u.engine e).ring = (s.engine e).ring ++ [c] ∧ c.src = src ∧ c.dst = dst ∧ c.len = len ∧ c.phys = true)
  ∧ (∀ (fn t val : Nat) (s : State), s.hostOpen = true → t ≤ 16 → (fn = 0 ∨ fn = t) → exec (.erenWrite fn t val) s = .next (s.modCtx t (fun c =>
      { c with eren := val.testBit 31, erlog := max 6 (val / 2 ^ 20 % 16), erdrop := if val.testBit 31 then 0 else c.erdrop })))
  ∧ (∀ (fn t o val : Nat) (s : State), s.hostOpen = true → t ≤ 16 → (fn = 0 ∨ fn = t) → o < 0x100 → o ≠ 0x50 →
    exec (.registerWrite fn (0x20000 + 0x100 * t + o) val) s = .next (s.modCtx t (fun c => c.write (fn = 0) o val)))
  ∧ (∀ (pa : Nat) (s : State), exec (.patrolScrub pa) s = .next s)
  ∧ (∀ (unit die : Nat) (s : State), s.ready = true → ∃ u, exec (.deviceFatalError unit die) s = .next u ∧ u.ready = false ∧ u.fail = true ∧ u.fcode = 8
    ∧ u.launches = [] ∧ u.mem = s.mem)
  ∧ (∀ (cl : Nat) (s : State), s.ready = true → cl < Config.clusters → (s.cluster cl).fenced = none →
    ∃ u, exec (.containmentReset cl) s = .next u ∧ u.mem = s.mem ∧ (u.cluster cl).fenced = some s.clk.toNat ∧ (u.cluster cl).mus = []
      ∧ (∀ c k, kvGet s.cores c = some k → Config.clusterOf c = cl → (u.core c).l1 = [] ∧ (u.core c).red = [] ∧ (u.core c).moves = [] ∧ (u.core c).icache = []))
  ∧ (∀ (cl : Nat) (s : State), (s.cluster cl).fenced.isSome = true → s.teams.all (fun e => !e.2.resid.onCore || Config.clusterOf e.2.core ≠ cl) = true →
    s.net.all (fun m => m.body ≠ .lost cl) = true → ∃ u, exec (.clusterUnfence cl) s = .next u ∧ (u.cluster cl).fenced = none ∧ u.mem = s.mem ∧ u.groups = s.groups)
/-- THE FABRIC (17 R466, R471 to R473, R476 to R488, R479; Table 17.4): a flit that its sender may send takes a credit and, sound, a slot of its receiver, which answers with credits later; one that fails FCRC
is kept and resent; an audit compares and corrects the sender's count; receipts unpin a flow; a failed port leaves its bundle; links go up and down; a packet for another device is
forwarded with one more hop; a request of a valid group and a member is performed, any other refused; the fabric commands act for the physical function; BAR2 reads and writes device
memory; a function-level reset ends what its tenant had. -/
def Obligations.FabricEvents : Prop :=
  (∀ (port : Nat) (f : Flit) (s : State), (s.port port).live = true → (s.port port).replay = [] → f.data.length = 32 → f.vc < 6 →
    (s.chan port f.vc).credits ≠ 0 → (s.chan port f.vc).bad = false → (64 ≤ port / 2 ∨ s.pausedTo ≤ s.clk.toNat) →
    let sent := s.modChan port f.vc (fun c => { c with sent := (c.sent + 1) % 65536, credits := c.credits - 1 })
    (flitSound f = true → exec (.flitReceive port f) s = .next (sent.takeFlit port f))
    ∧ (flitSound f = false → (s.port port).fails < 15 → ∃ u, exec (.flitReceive port f) s = .next u ∧ u.mem = s.mem
        ∧ (u.port port).replay = [{ f with fcrc := flitCrc f }] ∧ (u.port port).fails = (s.port port).fails + 1))
  ∧ (∀ (port : Nat) (f r : Flit) (rest : List Flit) (s : State), (s.port port).live = true → (s.port port).replay = r :: rest → f.data.length = 32 →
    f.vc < 6 → f = r → flitSound f = true →
    exec (.flitReceive port f) s = .next ((s.setPort port { s.port port with replay := rest, fails := 0 }).takeFlit port f))
  ∧ (∀ (leaf dst vc n : Nat) (s : State) (p : Pin), kvGet s.pins (pinKey leaf dst vc) = some p → 1 ≤ n → n ≤ 8 → n ≤ p.count →
    ∃ u, exec (.receipt leaf dst vc n) s = .next u ∧ u.mem = s.mem
      ∧ kvGet u.pins (pinKey leaf dst vc) = if p.count = n then none else some { p with count := p.count - n })
  ∧ (∀ (port vc : Nat) (s : State), vc < 6 → (s.port port).audits = [] →
    exec (.audit port vc) s = .next (s.setPort port { s.port port with audits := [⟨vc, (s.chan port vc).accepted, (s.chan port vc).free⟩] }))
  ∧ (∀ (port : Nat) (a : Audit) (rest : List Audit) (s : State), (s.port port).audits = a :: rest →
    let s' := s.setPort port { s.port port with audits := rest }
    let c := s'.chan port a.vc
    let out := (c.sent + 65536 - a.a) % 65536
    (c.bad = true → exec (.auditReceive port) s = .next (s'.modChan port a.vc (fun c => { c with credits := a.f - out, bad := false })))
    ∧ (c.bad = false → c.credits + out = a.f → exec (.auditReceive port) s = .next s')
    ∧ (c.bad = false → c.credits + out ≠ a.f → out ≤ a.f → ∃ u, exec (.auditReceive port) s = .next u ∧ (u.chan port a.vc).credits + out = a.f
        ∧ u.recQ.length = s.recQ.length + 1 ∧ u.mem = s.mem))
  ∧ (∀ (port vc : Nat) (s : State), vc < 6 → (s.chan port vc).bad = false → ∃ u, exec (.creditParityFail port vc) s = .next u ∧ u.mem = s.mem
      ∧ (u.chan port vc).bad = true ∧ (u.port port).asked = (s.port port).asked ++ [vc])
  ∧ (∀ (port vc : Nat) (rest : List Nat) (s : State), (s.port port).asked = vc :: rest → (s.port port).audits = [] → ∃ u, exec (.auditRequest port) s = .next u
      ∧ (u.port port).asked = rest ∧ (u.port port).audits = [⟨vc, (s.chan port vc).accepted, (s.chan port vc).free⟩] ∧ u.mem = s.mem)
  ∧ (∀ (port : Nat) (s : State), let k := canonLink (port / 2)
    port / 2 < 64 → k < 64 → (s.port (2 * k)).live = true → (s.bundleLive k 0).any (fun l => l ≠ k) = true → (s.port (2 * k)).replay = [] → (s.port (2 * k + 1)).replay = [] →
    ∃ u, exec (.portDown port) s = .next u ∧ (u.port (2 * k)).live = false ∧ (u.port (2 * k + 1)).live = false ∧ u.recQ.length = s.recQ.length + 1 ∧ u.mem = s.mem)
  ∧ (∀ (a b : Nat) (s : State), a < 4 → b < 4 → a ≠ b → s.pausedTo ≤ s.clk.toNat → (rowFirst a b).any (fun k => (s.bundleLive k 0).isEmpty) = true →
    s.colFirst.contains (a, b) = false → exec (.bundleReroute a b) s = .next { s with colFirst := s.colFirst ++ [(a, b)] })
  ∧ (∀ (link peer : Nat) (s : State), s.ready = true → link < 16 → ∃ u, exec (.linkTrained link peer) s = .next u ∧ u.mem = s.mem
      ∧ u.fabric.link link = { s.fabric.link link with up := true, peer := peer % 4096 })
  ∧ (∀ (link : Nat) (s : State), link < 16 → (s.fabric.link link).up = true → ∃ u, exec (.linkRetrainFail link) s = .next u ∧ (u.fabric.link link).up = false
      ∧ u.recQ.length = s.recQ.length + 1 ∧ u.mem = s.mem)
  ∧ (∀ (link : Nat) (p : Packet) (s : State), s.ready = true → link < 16 → (s.fabric.link link).up = true → s.fabric.node ≠ 0xFFF →
    (∀ l, p.ddev ≠ s.fabric.node → p.hops + 1 < 8 → s.fabric.linkTo p.ddev = some l →
      exec (.peerPacketReceive link p) s = .next { s with outbox := .packet l { p with hops := p.hops + 1 } :: s.outbox })
    ∧ (p.ddev ≠ s.fabric.node → 8 ≤ p.hops + 1 → exec (.peerPacketReceive link p) s = .next (s.refusePacket link p))
    ∧ (∀ v, p.ddev = s.fabric.node → isRequest p.body = true → s.isMember p.group p.sdev = (true, v) → (s.fabric.comm p.group).valid = true →
      (s.fabric.comm p.group).gen = p.gen → exec (.peerPacketReceive link p) s = .next (v.performPacket p))
    ∧ (p.ddev = s.fabric.node → isRequest p.body = true → ((s.fabric.comm p.group).valid = false ∨ (s.fabric.comm p.group).gen ≠ p.gen) →
      exec (.peerPacketReceive link p) s = .next ((s.isMember p.group p.sdev).2.refusePacket link p)))
  ∧ (∀ (s v : State) (img : List Byte), s.hostOpen = true → s.fabricImage = (img, v) →
    exec (.fabcmdSave 0) s = .next ((homeWrite v v.fabric.fabarg (img ++ digestOf img) false).fabDone 0 0))
  ∧ (∀ (s : State), s.hostOpen = true →
    ((s.launches ≠ [] ∨ s.rings.any (fun r => r.2.en) = true) → exec (.fabcmdRestore 0) s = .next (s.fabDone 3 0))
    ∧ (s.launches = [] → s.rings.all (fun r => !r.2.en) = true → ∀ hd bd im v₁ v₂ v₃ v₄, homeRead s s.fabric.fabarg 16 = (hd, v₁) →
      let w := Word.ofBytes hd.bytes
      let n := w / 2 ^ 64 % 2 ^ 32
      hd.pois = false → n ≤ 65535 → w / 2 ^ 96 % 65536 ≠ 0 → w / 2 ^ 112 % 65536 = 0 → homeRead v₁ (s.fabric.fabarg + 16) (48 * n) = (bd, v₂) → bd.pois = false →
      let es := (List.range n).map (fun i => manEntry ((bd.bytes.drop (48 * i)).take 48))
      es.all (fun e => e.len ≤ 2 ^ 40 && e.zero = 0) = true → restoreEntries 0 es v₂ = (none, v₃) → homeRead v₃ (w % 2 ^ 64) 157712 = (im, v₄) → im.pois = false →
      digestOf (im.bytes.take 157696) = im.bytes.drop 157696 →
      let z : State := { v₄ with fabric := v₄.fabric.load (im.bytes.take 157696) (w / 2 ^ 96 % 65536) }
      exec (.fabcmdRestore 0) s = .next ((homeWrite z z.fabric.membase ((im.bytes.take 157696).drop 26624) false).fabDone 0 0))
    ∧ exec (.fabcmdClear 0) s = .next { s.fabDone 0 0 with ringsShut := false })
  ∧ (∀ (off n : Nat) (bs : List Byte) (s : State), s.hostOpen = true → off + n ≤ 2 ^ 36 →
    exec (.bar2Access off n (some bs)) s = .next (homeWrite s (s.fabric.apbase + off) bs false)
    ∧ (∀ rd v, homeRead s (s.fabric.apbase + off) n = (rd, v) → rd.pois = false → exec (.bar2Access off n none) s = .next { v with outbox := .bytes 1 rd.bytes :: v.outbox })
    ∧ (∀ rd v, homeRead s (s.fabric.apbase + off) n = (rd, v) → rd.pois = true →
        exec (.bar2Access off n none) s = .next { v with outbox := .bytes 2 (List.replicate n 0xFF) :: v.outbox }))
  ∧ (∀ (d val : Nat) (s : State), s.hostOpen = true →
    exec (.registerWrite 0 0x70000 val) s = .next { s with fabric := { s.fabric with node := val % 4096 } }
    ∧ (d < 4096 → ∃ u, exec (.registerWrite 0 (0x80000 + 2 * d) val) s = .next u ∧ u.fabric.route d = ⟨val.testBit 15, val % 16⟩
      ∧ (∀ e, e ≠ d → u.fabric.route e = s.fabric.route e) ∧ u.fabric.groups = s.fabric.groups ∧ u.fabric.slots = s.fabric.slots ∧ u.mem = s.mem))
  ∧ (∀ (stream : Nat) (key : List Byte) (s : State), stream ≤ 8 → exec (.ideKeyManagement stream key) s = .next { s with ide := kvSet s.ide stream key })
  ∧ (∀ (fn : Nat) (s : State), 1 ≤ fn → fn ≤ 16 → ∃ u, exec (.vfFlr fn) s = .next u ∧ kvGet u.ctxs fn = none ∧ kvGet u.keys fn = none ∧ kvGet u.sessions fn = none
      ∧ u.rings.all (fun r => r.2.tenant ≠ fn) = true ∧ u.fabric = s.fabric ∧ u.thresh = s.thresh)
  ∧ (∀ (s : State), ∃ u, exec .pfFlr s = .next u ∧ u.rings = [] ∧ (u.fabric.routes = [] ∧ u.fabric.groups = [] ∧ u.fabric.slots = [])
      ∧ (∀ t, t ≤ 16 → kvGet u.ctxs t = none ∧ kvGet u.keys t = none) ∧ ∀ c k, kvGet s.cores c = some k → (u.core c).slots = slotsReset ∧ (u.core c).lend = false)

/-- POWER, BRING-UP, THE STORE (18 R491 to R496, R503 to R505): supply starts phase 0x01 with CONFREQ from the store; each phase ends well or stops with its FCODE; after phase 0x06 the device is READY; a keyed
DEVCTL write resets; supply's loss leaves the store; new firmware is taken after a firmware failure; an update is answered; CAP, a clock step, the duty throttle, heat and a power fault do what 18 says. -/
def Obligations.BringUpEvents : Prop :=
  (∀ (s : State), s.phase = 0 → s.ready = false → s.fail = false → ∃ u, exec .powerUp s = .next u ∧ u.phase = 1 ∧ u.ready = false ∧ u.launches = [] ∧ u.groups = []
      ∧ u.confreq = s.newestSettings.confreq ∧ u.store = s.store)
  ∧ (∀ (val : Nat) (s : State), s.linkOpen = true →
      (val.testBit 0 = true → val / 2 ^ 48 % 65536 = 0x5C3A → ∃ u, exec (.devctlReset 0 val) s = .next u ∧ u.phase = 1 ∧ u.ready = false ∧ u.fail = false ∧ u.launches = [] ∧ u.teams = []
        ∧ u.apron = [] ∧ u.sleeve = [] ∧ u.keys = [] ∧ u.clk = s.clk ∧ u.counts = s.counts ∧ u.store = s.store ∧ u.confreq = val.testBit 8)
      ∧ ((val.testBit 0 = false ∨ val / 2 ^ 48 % 65536 ≠ 0x5C3A) → exec (.devctlReset 0 val) s = .next { s with confreq := val.testBit 8 }))
  ∧ (∀ (s : State), ∃ u, exec .powerLoss s = .next u ∧ u.phase = 0 ∧ u.ready = false ∧ u.mem = [] ∧ u.launches = [] ∧ u.keys = [] ∧ u.store = s.store ∧ u.fw = s.fw)
  ∧ (∀ (s : State), s.ready = false → s.fail = false →
      let stops := fun (o : Out) (n : Nat) => ∃ u, o = .next u ∧ u.fail = true ∧ u.fcode = n ∧ u.ready = false ∧ u.phase = s.phase ∧ u.recQ.length = s.recQ.length + 1
      (s.phase = 1 → s.firmwareBad = none → exec (.bringUpPhaseEnd none) s = .next { s with phase := 2 })
      ∧ (∀ n, s.phase = 1 → s.firmwareBad = some n → stops (exec (.bringUpPhaseEnd none) s) n)
      ∧ (s.phase = 2 → s.store.any (·.sound) = true → ∃ u, exec (.bringUpPhaseEnd none) s = .next u ∧ u.phase = 3 ∧ u.inForce = newestBank s.store
          ∧ u.thresh = max 32 (min 255 s.newestSettings.thresh) ∧ u.locked = s.newestSettings.locked ∧ u.cap = min 2 s.newestSettings.cap)
      ∧ (s.phase = 2 → s.store.all (fun b => !b.sound) = true → stops (exec (.bringUpPhaseEnd none) s) 3)
      ∧ (s.phase = 3 → exec (.bringUpPhaseEnd none) s = .next { s with phase := 4 })
      ∧ (s.phase = 4 → exec (.bringUpPhaseEnd none) s = .next { s with phase := 5 })
      ∧ (s.phase = 5 → exec (.bringUpPhaseEnd none) s = .next { s with phase := 6, mem := [], mpois := [] })
      ∧ (s.phase = 6 → ∃ u, exec (.bringUpPhaseEnd none) s = .next u ∧ u.ready = true ∧ u.phase = 0xF ∧ u.confid = s.confreq)
      ∧ (∀ n, s.phase = 1 → stops (exec (.bringUpPhaseEnd (some n)) s) 1) ∧ (∀ n, s.phase = 2 → stops (exec (.bringUpPhaseEnd (some n)) s) 3)
      ∧ (∀ n, s.phase = 3 → stops (exec (.bringUpPhaseEnd (some n)) s) 4) ∧ (∀ n, s.phase = 4 ∨ s.phase = 5 → stops (exec (.bringUpPhaseEnd (some n)) s) 5))
  ∧ (∀ (image : List Byte) (version : Nat) (sig : List Byte) (s : State), s.fail = true → s.phase = 1 → (s.fcode = 1 ∨ s.fcode = 2) →
      exec (.firmwareLoad image version sig) s = .next { s with fw := image, fwVer := version, fwSig := sig })
  ∧ (∀ (r : StoreRec) (sig : List Byte) (s : State), s.phase ≠ 0 →
      let b := (s.store.getD (newestBank s.store) (Bank.shipped 0)).update r sig
      (∀ b', b = some b' → exec (.configUpdate r sig) s = .next ((s.storeWrite (fun _ => b')).emit (.bytes 3 [1])))
      ∧ (b = none → exec (.configUpdate r sig) s = .next { s with outbox := .bytes 3 [0] :: s.outbox }))
  ∧ (∀ (val : Nat) (s : State), s.hostOpen = true → exec (.pwrctlWrite 0 val) s = .next { s with cap := min 2 (val % 4), capOn := min 2 (val % 4) })
  ∧ (∀ (die n : Nat) (s : State), s.ready = true → die < 4 → n ≤ 18 → (s.stepOf die).1 ≠ n → (kvGet s.steps die = none ∨ (s.stepOf die).2 + 100000 ≤ s.clk.toNat) →
      ∃ u, exec (.clockStepChange die n) s = .next u ∧ u.mem = s.mem ∧ u.groups = s.groups ∧ u.stepOf die = (n, s.clk.toNat)
        ∧ ∀ c, 300 * die ≤ c → c < 300 * die + 300 → (u.core c).mhz = 1800 - 50 * n ∧ (u.core c).thr = (s.core c).thr + 1)
  ∧ (∀ (q : Nat) (s : State), q < Config.quads →
      exec (.matrixDutyThrottle q true) s = .next { s with duty := setInsert s.duty q } ∧ exec (.matrixDutyThrottle q false) s = .next { s with duty := s.duty.filter (· ≠ q) })
  ∧ (∀ (temp : Nat) (s : State), 105 ≤ temp → s.fail = false → s.phase ≠ 0 → ∃ u, exec (.thermalTrip temp) s = .next u ∧ u.fail = true ∧ u.ready = false ∧ u.fcode = 6
      ∧ u.launches = [] ∧ u.tmax = min 255 temp ∧ u.mem = s.mem)
  ∧ (∀ (s : State), s.fail = false → s.phase ≠ 0 → ∃ u, exec .powerFault s = .next u ∧ u.fail = true ∧ u.ready = false ∧ u.fcode = 7 ∧ u.launches = [] ∧ u.mem = s.mem)

/-- ATTESTATION (15 R430; 18 R498, R501, R502): each SPDM request of a function is answered and extends the transcript of its session; GET_VERSION starts it anew, KEY_EXCHANGE opens and FINISH secures it;
keys are accepted in a secured session for a tenant without launches; bound evidence is given in a secured session; the health record counts its sequence number. -/
def Obligations.AttestationEvents : Prop :=
  (∀ (fn : Nat) (req : List Byte) (s : State), s.phase ≠ 0 → fn ≤ 16 →
    exec (.getVersion fn req) s = .next (answered (s.setSession fn ⟨[], false, false⟩) fn req 0x04 (fun _ => [0x00, 0x01, 0x00, 0x13]) id)
    ∧ exec (.getCapabilities fn req) s = .next (answered s fn req 0x61 (fun _ => []) id)
    ∧ exec (.negotiateAlgorithms fn req) s = .next (answered s fn req 0x63 (fun _ => []) id)
    ∧ exec (.getDigests fn req) s = .next (answered s fn req 0x01 (fun _ => Config.sha384 Config.certChain) id)
    ∧ exec (.getCertificate fn req) s = .next (answered s fn req 0x02 (fun _ => Config.certChain) id)
    ∧ exec (.challenge fn req) s = .next (answered s fn req 0x03 (fun tr => Config.sha384 Config.certChain ++ signTranscript tr) id)
    ∧ exec (.getMeasurements fn req) s = .next (answered s fn req 0x60 (fun tr =>
        [1] ++ measRom ++ [2] ++ s.measFw ++ Word.toBytes 8 s.fwVer ++ [3] ++ s.measStore ++ [4] ++ s.measMode ++ signTranscript tr) id)
    ∧ exec (.keyExchange fn req) s = .next (answered s fn req 0x64 signTranscript (fun x => { x with opened := true, secured := false }))
    ∧ ((s.session fn).opened = true → exec (.finish fn req) s = .next (answered s fn req 0x65 (fun _ => []) (fun x => { x with secured := true }))))
  ∧ (∀ (t : Nat) (payload : List Byte) (s : State), s.phase ≠ 0 → t ≤ 16 →
    (payload.length = 96 → (s.session t).secured = true → s.launches.all (fun e => e.2.r.tenant ≠ t) = true →
      exec (.keySet t payload) s = .next { s with keys := kvSet s.keys t ⟨payload.take 64, payload.drop 64⟩, outbox := .bytes 4 [1] :: s.outbox })
    ∧ ((payload.length ≠ 96 ∨ (s.session t).secured = false) → exec (.keySet t payload) s = .next { s with outbox := .bytes 4 [0] :: s.outbox }))
  ∧ (∀ (fn : Nat) (payload : List Byte) (s : State), s.phase ≠ 0 → fn ≤ 16 → payload.length = 80 →
    ((s.session fn).secured = true → exec (.boundEvidence fn payload) s = .next { s with outbox := .bytes 5 (s.boundReport fn payload) :: s.outbox })
    ∧ ((s.session fn).secured = false → exec (.boundEvidence fn payload) s = .next { s with outbox := .bytes 0 [0x13, 0x7F, 0x04, 0] :: s.outbox }))
  ∧ (∀ (nonce : List Byte) (s : State), s.phase ≠ 0 → nonce.length = 32 →
    let s' : State := { s with healthSeq := s.healthSeq + 1 }
    let body := s'.healthBody nonce
    exec (.healthRecordRequest nonce) s = .next { s' with outbox := .bytes 6 (body ++ Config.ecdsaSign Config.keyDevice (Config.sha384 body)) :: s.outbox })
/-- WORDS OF THE SPEC (03 R104 to R111, Tables 3.2 to 3.10): words written out from the encoding tables, one of each format and of each family,
are the instructions that they stand for. -/
def Obligations.DecodesSpecWords : Prop :=
  let h : Hdr := ⟨false, .inherit, false, 7⟩
  decode 0x0201_FFFF_F000_0006 0 = .ok (.bra ⟨⟨false, .inherit, false, 1⟩, .z, .z, 0, 6⟩)
    ∧ decode 0x0E03_003C_A000_0005 0x10 = .ok (.loop ⟨h, .v 0, .int 10, 0, 5⟩ 0x10)
    ∧ decode 0x0E40_00C0_4001_4188 0 = .ok (.iadd ⟨h, .v 3, .v 4, 0, .v 5, 0, .s8, .rne, true, 0⟩)
    ∧ decode 0x0EA0_017F_F0FF_FFFD 0 = .ok (.movi ⟨h, .v 5, .z, 0, 0xFFFFFD⟩)
    ∧ decode 0x8F00_0200_2000_CC08 0 = .ok (.ffma .rne ⟨⟨true, .inherit, false, 7⟩, .v 8, .v 2, 0, .v 3, 3, .v 8⟩)
    ∧ decode 0x0F45_4100_20FF_C000 0 = .ok (.ballot ⟨h, .s 4, .v 2, 0, .z, 0, .s32, .rne, false, 0⟩)
    ∧ decode 0x8F60_0190_80FF_C011 0x40 = .ok (.ldg ⟨⟨true, .inherit, false, 7⟩, .v 6, .s 8, 0, .z, .thread, .relaxed, .dflt, 2, .off 0x40⟩)
    ∧ decode 0x0F70_00C0_A001_6602 0x000F_FC40_0000_0000 =
        .ok (.atomg ⟨h, .v 3, .v 10, 0, .v 5, .device, .acqRel, .dflt, 0, .aext 0x000F_FC40_0000_0000⟩)
    ∧ decode 0x0FB9_0051_4045_4116 0 = .ok (.bwait ⟨h, .v 1, .s 20, 0, .s 21, 0, .s 22⟩)
    ∧ decode 0x0FD5_F03C_40FF_C3FF 0x41 = .ok (.mma ⟨h, .int 0, .int 4, 0, .z, 0, .z⟩ 0x41)
    ∧ decode 0x0FF0_40BF_F000_0021 0 = .ok (.csrr ⟨h, .s 2, .z, 0, 0x21⟩)

/-- DECODE AND ENCODE AGREE (03 R104 to R119): the words of every well-formed instruction decode to it, whatever follows a word of 8 bytes,
and their number is the size that the opcode and XF give; and a word that decodes is the encoding of its instruction. -/
def Obligations.DecodeEncode : Prop :=
  (∀ (i : Instr) (w fx : DWord) (ws : List DWord), i.wellFormed = true → encode i = w :: ws →
    decode w (ws.headD fx) = .ok i ∧ wordSize w.toNat = 8 * (ws.length + 1))
  ∧ (∀ (i : Instr) (w fx : DWord), decode w fx = .ok i →
    i.wellFormed = true ∧ encode i = if wordSize w.toNat = 16 then [w, fx] else [w])

/-- A STEP RUNS THE DECODED INSTRUCTION (log 1): a turn that issues a group which may issue and whose issuing set has entered its block
runs the instruction that its next words decode to, between the passing of time and the end of the turn; a group that has not
entered its block fetches it; a turn of one of the device's agents runs that event. -/
def Obligations.StepRunsDecodedInstruction : Prop :=
  (∀ (s : State) (t : Turn) (ts : List Turn) (gk : Nat) (i : Instr) (w fx : DWord), s.agenda = t :: ts → t.act = .issue gk →
    (turned s t ts).mayIssue gk = true → (turned s t ts).entered gk = true → nextWord (turned s t ts) gk w fx → decode w fx = .ok i →
    step s = closeTurn (exec i (({ turned s t ts with cur := gk } : State).modGroup gk (fun g => { g with run := .running }))))
  ∧ (∀ (s : State) (t : Turn) (ts : List Turn) (gk : Nat), s.agenda = t :: ts → t.act = .issue gk →
    (turned s t ts).mayIssue gk = true → (turned s t ts).entered gk = false →
    step s = closeTurn (exec .blockFetch (({ turned s t ts with cur := gk } : State).modGroup gk (fun g => { g with run := .running }))))
  ∧ (∀ (s : State) (t : Turn) (ts : List Turn) (i : Instr), s.agenda = t :: ts → t.act = .event i → encode i = [] → i ≠ .blockFetch →
    step s = closeTurn (exec i (turned s t ts)))

/-- AN EMPTY EXEC AND THE ENCODING TRAPS (03 R124; 01 R42, R51): with an empty EXEC every instruction, a word with an illegal field and a
word with an unassigned opcode too, only passes the issuing set over its bytes; with a thread in EXEC the illegal field
takes trap 0x02 and the unassigned opcode trap 0x01, every thread staying at the word; a block-entry trap looks at no guard. -/
def Obligations.EmptyExec : Prop :=
  (∀ (i : Instr) (w : DWord) (ws : List DWord) (s : State), i.wellFormed = true → encode i = w :: ws →
    let h := hdrOf w.toNat
    let size := 8 * (ws.length + 1)
    (kvGet s.groups s.cur).isSome = true → (s.issue h size).ex = [] → (s.issue h size).issuing ≠ [] →
    exec i s = .next (afterGroup s (closed h s (passedOver size (s.issue h size) (s.group s.cur)))))
  ∧ (∀ (h : Hdr) (size : Nat) (s : State), (kvGet s.groups s.cur).isSome = true →
    ((s.issue h size).ex = [] → (s.issue h size).issuing ≠ [] →
      takeIllegal h size s = .next (afterGroup s (closed h s (passedOver size (s.issue h size) (s.group s.cur)))))
    ∧ ((s.issue h size).ex ≠ [] → takeIllegal h size s = .next (s.takeTrap s.cur (Trap.atInstr 0x02 (s.issue h size)))))
  ∧ (∀ (h : Hdr) (op : Fin 512) (low : BitVec 48) (s : State), (kvGet s.groups s.cur).isSome = true → (s.issue h 8).ex ≠ [] →
    exec (.unassignedOpcode h op low) s = .next (s.takeTrap s.cur (Trap.atInstr 0x01 (s.issue h 8))))
  ∧ (∀ (s u v : State) (e : FetchErr), (kvGet s.groups s.cur).isSome = true → (s.group s.cur).issuing ≠ [] →
    let is := s.issue ⟨false, .inherit, false, 7⟩ 8
    reloadSpans s.cur (s.coreOf s.cur) (s.tenantOf s.cur) [0, 1, 2, 3] s = (.ok (), u) → (u.group s.cur).loopAt is.blk = none →
    fetchBlock (u.group s.cur).bufWord u (s.coreOf s.cur) (s.tenantOf s.cur) is.blk = (.error e, v) → exec .blockFetch s = .next (v.takeTrap s.cur (blockTrap is e)))

/-- OPERAND TRAPS OF THE LANE INSTRUCTIONS (01 R26, R28, R48, R50, R51): a source that a uniform instruction may not have takes trap 0x06,
else a destination over a permuted source 0x07, else a register outside the allocation 0x08, all before any thread; an index
register out of bounds takes 0x09 at the first thread that has one, here the lowest. -/
def Obligations.LaneOperandTraps : Prop :=
  ∀ (i : Instr) (h : Hdr) (size : Nat) (sp : LaneSpec) (s : State), laneOf i = some (h, size, sp) → ready h size s = true →
    let is := s.issue h size
    let r := s.roleOf s.cur
    let bad6 := sp.dst.isUniform && (sp.noUniform || sp.srcs.any SrcSpec.varies)
    let bad7 := sp.srcs.any (permOverlap sp.dst)
    let bad8 := (match sp.dst with | .reg o n => regOut r.vregs r.sregs o n | _ => false)
      || sp.srcs.any (fun x => match x with | .reg o _ n _ => regOut r.vregs r.sregs o n | _ => false)
    (bad6 = true → exec i s = .next (s.takeTrap s.cur (Trap.atInstr 0x06 is)))
    ∧ (bad6 = false → bad7 = true → exec i s = .next (s.takeTrap s.cur (Trap.atInstr 0x07 is)))
    ∧ (bad6 = false → bad7 = false → bad8 = true → exec i s = .next (s.takeTrap s.cur (Trap.atInstr 0x08 is)))
    ∧ (bad6 = false → bad7 = false → bad8 = false → sp.dst.isUniform = false →
      indexBound r.vregs ((s.group s.cur).thread is.lowest) sp.dst sp.srcs = true →
      exec i s = .next ((begun h size s).takeTrap s.cur (Trap.of 0x09 .thread is is.lowest 0)))

/-- PREDICATE 7 (01 R29): p7 reads as true; a write to it is discarded, and a compare with destination p7 completes with no trap, its
threads changed in nothing but their PCs; the guard NOT p7 guards every thread off. -/
def Obligations.PredicateSeven : Prop :=
  (∀ (th : Thread) (b : Bool), th.pred 7 = true ∧ th.setPred 7 b = th)
  ∧ (∀ (f : F2) (s : State), f.d = .v 7 → ready f.h 8 s = true → laneClear (specIcmp f) s (s.issue f.h 8) (s.issue f.h 8).ex = true →
    ∃ u, exec (.icmp f) s = .next u ∧ (u.group s.cur).threads = (landed f.h.pk (passedOver 8 (s.issue f.h 8) (s.group s.cur))).threads)
  ∧ (∀ (h : Hdr) (size : Nat) (s : State), h.gp = 7 → h.gn = true → (s.group s.cur).resuming = [] → (s.issue h size).ex = [])
  ∧ (Instr.nop ⟨⟨false, .inherit, true, 7⟩, .z, .z, 0, .z, 0, .s32, .rne, false, 0⟩).wellFormed = true

/-- BIT FIELDS, ADDRESSES, SELECTION (05 R164, R165, R168): BFX delivers its field, each of its 32 bits; LEA adds the shifted, extended
index to the base modulo 2^64; SEL delivers one of its two sources by its predicate; each instruction is legal with
the types, SUB and SAT that its rule accepts only. -/
def Obligations.IntegerValues : Prop :=
  (∀ (f : F2), gives (.bfx f) f.d 1 (fun s is t =>
    let a := src s is t f.a f.pa 1
    let b := src s is t f.b f.pb 1
    let pos := min (b % 256) 32
    let len := min (b / 256 % 256) 32
    let bitOfA := fun j => if j < 32 then a.testBit j else f.ty == Ty.s32 && a.testBit 31
    ((List.range 32).map (fun j =>
      if len = 0 then 0 else if j < len then bnat (bitOfA (pos + j)) (2 ^ j)
      else bnat (f.ty == .s32 && bitOfA (pos + len - 1)) (2 ^ j))).sum))
  ∧ (∀ (f : F2), (Instr.bfx f).wellFormed = true → (f.ty = .s32 ∨ f.ty = .n32) ∧ f.sub = 0 ∧ f.sat = false)
  ∧ (∀ (f : F2), gives (.lea f) f.d 2 (fun s is t =>
    let a := src s is t f.a f.pa 2
    let b := src s is t f.b f.pb 1
    (((a : Int) + (if f.ty = Ty.s32 then signed 32 b else (b : Int)) * 2 ^ f.sub.val) % 2 ^ 64).toNat))
  ∧ (∀ (f : F2), (Instr.lea f).wellFormed = true → (f.ty = .s32 ∨ f.ty = .n32) ∧ f.sat = false)
  ∧ (∀ (f : F2), gives (.sel f) f.d (tyWords f.ty) (fun s is t =>
    if ((s.group is.key).thread t).pred f.sub.val then src s is t f.a f.pa (tyWords f.ty) else src s is t f.b f.pb (tyWords f.ty)))
  ∧ (∀ (f : F2), (Instr.sel f).wellFormed = true → (f.ty = .b32 ∨ f.ty = .n64) ∧ f.sat = false)

/-- THE RESET STATE (18 R490, Table 18.1; 16 Table 16.6; 17 Table 17.7; 14 R382, Table 14.8; 15 Table 15.15): no launch, team, group or ring; DEVREADY, PWRSTAT and the registers of every
context and of the fabric at the values that the tables give for reset; every slot of every core to tenant 0, without lending; no
demerits. -/
def Obligations.ResetState : Prop :=
  let s := State.reset
  s.launches = [] ∧ s.teams = [] ∧ s.groups = [] ∧ s.rings = [] ∧ s.outbox = []
    ∧ s.barRead 0 0x00 = 0 ∧ s.barRead 0 0x14 = 0
    ∧ (∀ t, t ≤ 16 → ∀ off, off < 0x100 → s.barRead 0 (0x20000 + 0x100 * t + off) =
        if off = 0x38 then 6 * 2 ^ 20 else if off = 0x58 ∨ off = 0x60 then 2 else 0)
    ∧ s.barRead 0 0x70000 = 0xFFF ∧ s.barRead 0 0x70008 = 0 ∧ s.barRead 0 0x70010 = 0 ∧ s.barRead 0 0x70018 = 0
    ∧ s.barRead 0 0x70028 = 2 ^ 31
    ∧ (∀ l, l < 16 → s.barRead 0 (0x70100 + 8 * l) = 0xFFF * 2 ^ 16)
    ∧ (∀ d, d < 4096 → s.barRead 0 (0x80000 + 2 * d) = 0) ∧ (∀ g, g < 256 → s.barRead 0 (0xA0000 + 8 * g) = 0)
    ∧ (∀ p, p < 4096 → s.barRead 0 (0xC0000 + 4 * p) = 0)
    ∧ (∀ c, c < 1200 → (s.core c).slots = List.replicate 64 0x80 ∧ (s.core c).lend = false ∧ (s.core c).demerit = 0)

/-- MEMORY KEEPS ITS CANONICAL FORM: a step from any state whose device memory and host memory have rising addresses, and no entry equal to what
an unlisted address reads as, leaves a state whose memories have that form. -/
def Obligations.StepKeepsMemoryWf : Prop := ∀ (s t : State), s.memoryWf → step s = .next t → t.memoryWf

/-- RESET MEMORY IS CANONICAL: the device memory and the host memory of the reset state have that form (that nothing is listed, and that an
unlisted byte reads as 0, are the model's choice: log 6). -/
def Obligations.ResetMemoryWf : Prop := State.reset.memoryWf
end

