-- ==== Sys2Proof/Laws/Codec.lean ====
section
/-!
SUPPORT. The fields of an encoded word read back, and a word is the encoding of the fields read from it (03 Tables 3.2 to 3.5).
-/
namespace Sys2Proof
open Sys2Proof.Machine

/-! ## Codes -/

theorem opndCode_lt (o : Opnd) : opndCode o < 1024 := by
  cases o <;> simp only [opndCode] <;> omega

theorem opndOf_opndCode (o : Opnd) : opndOf (opndCode o) = o := by
  cases o with
  | z => rfl
  | v n =>
    show opndOf (n.val) = _
    unfold opndOf
    rw [dif_pos n.isLt]
  | s n =>
    have := n.isLt
    show opndOf (0x100 + n.val) = _
    unfold opndOf
    rw [dif_neg (by omega), dif_pos (by omega)]
    exact congrArg Opnd.s (Fin.ext (Nat.add_sub_cancel_left ..))
  | sp n =>
    have := n.isLt
    show opndOf (0x300 + n.val) = _
    unfold opndOf
    rw [dif_neg (by omega), dif_neg (by omega), dif_pos (by omega)]
    exact congrArg Opnd.sp (Fin.ext (Nat.add_sub_cancel_left ..))
  | x n =>
    have := n.isLt
    show opndOf (0x380 + n.val) = _
    unfold opndOf
    repeat rw [dif_neg (by omega)]
    rw [dif_pos (by omega)]
    exact congrArg Opnd.x (Fin.ext (Nat.add_sub_cancel_left ..))
  | rsvA n =>
    have := n.isLt
    show opndOf (0x384 + n.val) = _
    unfold opndOf
    repeat rw [dif_neg (by omega)]
    rw [dif_pos (by omega)]
    exact congrArg Opnd.rsvA (Fin.ext (Nat.add_sub_cancel_left ..))
  | int n =>
    have := n.isLt
    show opndOf (0x3C0 + n.val) = _
    unfold opndOf
    repeat rw [dif_neg (by omega)]
    rw [dif_pos (by omega)]
    exact congrArg Opnd.int (Fin.ext (Nat.add_sub_cancel_left ..))
  | fc n =>
    have := n.isLt
    show opndOf (0x3E0 + n.val) = _
    unfold opndOf
    repeat rw [dif_neg (by omega)]
    rw [dif_pos (by omega)]
    exact congrArg Opnd.fc (Fin.ext (Nat.add_sub_cancel_left ..))
  | rsvB n =>
    have := n.isLt
    show opndOf (0x3F0 + n.val) = _
    unfold opndOf
    repeat rw [dif_neg (by omega)]
    rw [dif_pos (by omega)]
    exact congrArg Opnd.rsvB (Fin.ext (Nat.add_sub_cancel_left ..))

theorem opndCode_opndOf {c : Nat} (h : c < 1024) : opndCode (opndOf c) = c := by
  unfold opndOf
  repeat' split
  all_goals simp only [opndCode]
  all_goals omega

theorem clsOfNat_clsCode (c : Cls) : clsOfNat (clsCode c) = c := by cases c <;> rfl
theorem clsCode_lt (c : Cls) : clsCode c < 4 := by cases c <;> decide
theorem clsCode_clsOfNat {n : Nat} (h : n < 4) : clsCode (clsOfNat n) = n := by revert n; decide
theorem tyOfCode_tyCode (t : Ty) : tyOfCode (tyCode t) = t := by cases t <;> rfl
theorem tyCode_lt (t : Ty) : tyCode t < 16 := by cases t <;> decide
theorem tyCode_tyOfCode {n : Nat} (h : n < 16) : tyCode (tyOfCode n) = n := by revert n; decide
theorem rndOf_rndCode (r : Rnd) : rndOf (rndCode r) = r := by cases r <;> rfl
theorem rndCode_lt (r : Rnd) : rndCode r < 4 := by cases r <;> decide
theorem rndCode_rndOf {n : Nat} (h : n < 4) : rndCode (rndOf n) = n := by revert n; decide
theorem scopeOf_scopeCode (x : Scope) : scopeOf (scopeCode x) = x := by cases x <;> rfl
theorem scopeCode_lt (x : Scope) : scopeCode x < 8 := by cases x <;> decide
theorem scopeCode_scopeOf {n : Nat} (h : n < 8) : scopeCode (scopeOf n) = n := by revert n; decide
theorem ordOf_ordCode (x : Ord) : ordOf (ordCode x) = x := by cases x <;> rfl
theorem ordCode_lt (x : Ord) : ordCode x < 4 := by cases x <;> decide
theorem ordCode_ordOf {n : Nat} (h : n < 4) : ordCode (ordOf n) = n := by revert n; decide
theorem cpolOf_cpolCode (x : Cpol) : cpolOf (cpolCode x) = x := by cases x <;> rfl
theorem cpolCode_lt (x : Cpol) : cpolCode x < 8 := by cases x <;> decide
theorem cpolCode_cpolOf {n : Nat} (h : n < 8) : cpolCode (cpolOf n) = n := by revert n; decide
theorem bitNat_lt (b : Bool) : bitNat b < 2 := by cases b <;> decide
theorem extCode_lt (e : MemExt) : extCode e < 8 := by cases e <;> simp only [extCode] <;> omega
theorem fin8_val (n : Fin 8) : fin8 n.val = n := by
  have := n.isLt
  exact Fin.ext (Nat.mod_eq_of_lt this)
theorem fin16_val (n : Fin 16) : fin16 n.val = n := by
  have := n.isLt
  exact Fin.ext (Nat.mod_eq_of_lt this)

/-- Bit i as a number. -/
theorem bit_eq (x i : Nat) : Word.bit x i = decide (x / 2 ^ i % 2 = 1) := by
  simp [Word.bit, Nat.testBit_eq_decide_div_mod_eq]

theorem bitNat_decide {n : Nat} (h : n < 2) : bitNat (decide (n = 1)) = n := by revert n; decide

theorem decide_bitNat (b : Bool) : decide (bitNat b = 1) = b := by cases b <;> rfl

/-! ## Reading back the fields of a word -/

/-- The fields that every format has, and the three below them. -/
def topCode (h : Hdr) (op d a pa r : Nat) : Nat := hdrCode h + op * 2 ^ 48 + d * 2 ^ 38 + a * 2 ^ 28 + pa * 2 ^ 24 + r

/-- The fields above bit 23 read back from a word. -/
theorem top_fields (h : Hdr) {op d a pa r : Nat} (ho : op < 512) (hd : d < 1024) (ha : a < 1024) (hp : pa < 16) (hr : r < 2 ^ 24) :
    hdrOf (topCode h op d a pa r) = h ∧ opOf (topCode h op d a pa r) = op ∧ Word.bits (topCode h op d a pa r) 47 38 = d
      ∧ Word.bits (topCode h op d a pa r) 37 28 = a ∧ Word.bits (topCode h op d a pa r) 27 24 = pa
      ∧ topCode h op d a pa r % 2 ^ 24 = r ∧ topCode h op d a pa r < 2 ^ 64 := by
  obtain ⟨pk, pcl, gn, gp⟩ := h
  have h1 := bitNat_lt pk
  have h2 := clsCode_lt pcl
  have h3 := bitNat_lt gn
  have h4 := gp.isLt
  have key : topCode ⟨pk, pcl, gn, gp⟩ op d a pa r = bitNat pk * 2 ^ 63 + clsCode pcl * 2 ^ 61 + bitNat gn * 2 ^ 60 + gp.val * 2 ^ 57 + op * 2 ^ 48 + d * 2 ^ 38 + a * 2 ^ 28 + pa * 2 ^ 24 + r := rfl
  rw [key]
  refine ⟨?_, ?_, ?_, ?_, ?_, ?_, ?_⟩
  · have e1 : (bitNat pk * 2 ^ 63 + clsCode pcl * 2 ^ 61 + bitNat gn * 2 ^ 60 + gp.val * 2 ^ 57 + op * 2 ^ 48 + d * 2 ^ 38 + a * 2 ^ 28 + pa * 2 ^ 24 + r) / 2 ^ 63 % 2 = bitNat pk := by omega
    have e2 : Word.bits (bitNat pk * 2 ^ 63 + clsCode pcl * 2 ^ 61 + bitNat gn * 2 ^ 60 + gp.val * 2 ^ 57 + op * 2 ^ 48 + d * 2 ^ 38 + a * 2 ^ 28 + pa * 2 ^ 24 + r) 62 61 = clsCode pcl := by
      unfold Word.bits; omega
    have e3 : (bitNat pk * 2 ^ 63 + clsCode pcl * 2 ^ 61 + bitNat gn * 2 ^ 60 + gp.val * 2 ^ 57 + op * 2 ^ 48 + d * 2 ^ 38 + a * 2 ^ 28 + pa * 2 ^ 24 + r) / 2 ^ 60 % 2 = bitNat gn := by omega
    have e4 : Word.bits (bitNat pk * 2 ^ 63 + clsCode pcl * 2 ^ 61 + bitNat gn * 2 ^ 60 + gp.val * 2 ^ 57 + op * 2 ^ 48 + d * 2 ^ 38 + a * 2 ^ 28 + pa * 2 ^ 24 + r) 59 57 = gp.val := by
      unfold Word.bits; omega
    simp only [hdrOf, bit_eq, e1, e2, e3, e4, decide_bitNat, clsOfNat_clsCode, fin8_val]
  all_goals (try unfold opOf); (try unfold Word.bits); omega

/-- The fields of a word of format F2 read back, with its opcode. -/
theorem f2_read {op : Nat} (ho : op < 512) (f : F2) : f2Of (f2Code op f) = f ∧ opOf (f2Code op f) = op ∧ f2Code op f < 2 ^ 64 := by
  have k : f2Code op f = topCode f.h op (opndCode f.d) (opndCode f.a) f.pa.val (opndCode f.b * 2 ^ 14 + f.pb.val * 2 ^ 10 + tyCode f.ty * 2 ^ 6 + rndCode f.rnd * 2 ^ 4 + bitNat f.sat * 2 ^ 3 + f.sub.val) := by
    unfold f2Code topCode; omega
  have b1 := opndCode_lt f.d
  have b2 := opndCode_lt f.a
  have b3 := f.pa.isLt
  have b4 := opndCode_lt f.b
  have b5 := f.pb.isLt
  have b6 := tyCode_lt f.ty
  have b7 := rndCode_lt f.rnd
  have b8 := bitNat_lt f.sat
  have b9 := f.sub.isLt
  obtain ⟨g1, g2, g3, g4, g5, g6, g7⟩ := top_fields f.h (op := op) (d := opndCode f.d) (a := opndCode f.a) (pa := f.pa.val)
    (r := opndCode f.b * 2 ^ 14 + f.pb.val * 2 ^ 10 + tyCode f.ty * 2 ^ 6 + rndCode f.rnd * 2 ^ 4 + bitNat f.sat * 2 ^ 3 + f.sub.val) ho b1 b2 b3 (by omega)
  rw [← k] at g1 g2 g3 g4 g5 g6 g7
  generalize f2Code op f = w at *
  refine ⟨?_, g2, g7⟩
  have c1 : Word.bits w 23 14 = opndCode f.b := by unfold Word.bits; omega
  have c2 : Word.bits w 13 10 = f.pb.val := by unfold Word.bits; omega
  have c3 : Word.bits w 9 6 = tyCode f.ty := by unfold Word.bits; omega
  have c4 : Word.bits w 5 4 = rndCode f.rnd := by unfold Word.bits; omega
  have c5 : w / 2 ^ 3 % 2 = bitNat f.sat := by omega
  have c6 : Word.bits w 2 0 = f.sub.val := by unfold Word.bits; omega
  simp only [f2Of, g1, g3, g4, g5, c1, c2, c3, c4, bit_eq, c5, c6, decide_bitNat, opndOf_opndCode, fin16_val, fin8_val, tyOfCode_tyCode, rndOf_rndCode]

/-- The fields of a word of format F3 read back, with its opcode. -/
theorem f3_read {op : Nat} (ho : op < 512) (f : F3) : f3Of (f3Code op f) = f ∧ opOf (f3Code op f) = op ∧ f3Code op f < 2 ^ 64 := by
  have k : f3Code op f = topCode f.h op (opndCode f.d) (opndCode f.a) f.pa.val (opndCode f.b * 2 ^ 14 + f.pb.val * 2 ^ 10 + opndCode f.c) := by
    unfold f3Code topCode; omega
  have b1 := opndCode_lt f.d
  have b2 := opndCode_lt f.a
  have b3 := f.pa.isLt
  have b4 := opndCode_lt f.b
  have b5 := f.pb.isLt
  have b6 := opndCode_lt f.c
  obtain ⟨g1, g2, g3, g4, g5, g6, g7⟩ := top_fields f.h (op := op) (d := opndCode f.d) (a := opndCode f.a) (pa := f.pa.val)
    (r := opndCode f.b * 2 ^ 14 + f.pb.val * 2 ^ 10 + opndCode f.c) ho b1 b2 b3 (by omega)
  rw [← k] at g1 g2 g3 g4 g5 g6 g7
  generalize f3Code op f = w at *
  refine ⟨?_, g2, g7⟩
  have c1 : Word.bits w 23 14 = opndCode f.b := by unfold Word.bits; omega
  have c2 : Word.bits w 13 10 = f.pb.val := by unfold Word.bits; omega
  have c3 : Word.bits w 9 0 = opndCode f.c := by unfold Word.bits; omega
  simp only [f3Of, g1, g3, g4, g5, c1, c2, c3, opndOf_opndCode, fin16_val]

/-- The fields of a word of format FI read back, with its opcode. -/
theorem fi_read {op : Nat} (ho : op < 512) (f : FI) : fiOf (fiCode op f) = f ∧ opOf (fiCode op f) = op ∧ fiCode op f < 2 ^ 64 := by
  have k : fiCode op f = topCode f.h op (opndCode f.d) (opndCode f.a) f.pa.val f.imm.toNat := rfl
  have b1 := opndCode_lt f.d
  have b2 := opndCode_lt f.a
  have b3 := f.pa.isLt
  have b4 := f.imm.isLt
  obtain ⟨g1, g2, g3, g4, g5, g6, g7⟩ := top_fields f.h (op := op) (d := opndCode f.d) (a := opndCode f.a) (pa := f.pa.val)
    (r := f.imm.toNat) ho b1 b2 b3 b4
  rw [← k] at g1 g2 g3 g4 g5 g6 g7
  generalize fiCode op f = w at *
  refine ⟨?_, g2, g7⟩
  have c1 : Word.bits w 23 0 = f.imm.toNat := by unfold Word.bits; omega
  simp only [fiOf, g1, g3, g4, g5, c1, opndOf_opndCode, fin16_val, BitVec.ofNat_toNat, BitVec.setWidth_eq]

/-- XF and the word it selects read back. -/
theorem extOf_extCode (e : MemExt) (fx : DWord) : extOf (extCode e) ((extWords e).headD fx) = e := by
  cases e with
  | rsv n => match n with | 0 => rfl | 1 => rfl | 2 => rfl | 3 => rfl | 4 => rfl
  | _ => rfl

/-- The fields of a word of format FM and of the word it selects read back, with its opcode. -/
theorem fm_read {op : Nat} (ho : op < 512) (f : FM) (fx : DWord) :
    fmOf (fmCode op f) ((extWords f.ext).headD fx) = f ∧ opOf (fmCode op f) = op ∧ fmCode op f < 2 ^ 64
      ∧ fmCode op f % 8 = extCode f.ext := by
  have k : fmCode op f = topCode f.h op (opndCode f.d) (opndCode f.a) f.pa.val (opndCode f.b * 2 ^ 14
    + scopeCode f.scope * 2 ^ 11 + ordCode f.ord * 2 ^ 9 + cpolCode f.cpol * 2 ^ 6 + f.width.val * 2 ^ 3 + extCode f.ext) := by
    unfold fmCode topCode; omega
  have b1 := opndCode_lt f.d
  have b2 := opndCode_lt f.a
  have b3 := f.pa.isLt
  have b4 := opndCode_lt f.b
  have b5 := scopeCode_lt f.scope
  have b6 := ordCode_lt f.ord
  have b7 := cpolCode_lt f.cpol
  have b8 := f.width.isLt
  have b9 := extCode_lt f.ext
  obtain ⟨g1, g2, g3, g4, g5, g6, g7⟩ := top_fields f.h (op := op) (d := opndCode f.d) (a := opndCode f.a) (pa := f.pa.val)
    (r := opndCode f.b * 2 ^ 14 + scopeCode f.scope * 2 ^ 11 + ordCode f.ord * 2 ^ 9 + cpolCode f.cpol * 2 ^ 6 + f.width.val * 2 ^ 3
      + extCode f.ext) ho b1 b2 b3 (by omega)
  rw [← k] at g1 g2 g3 g4 g5 g6 g7
  generalize fmCode op f = w at *
  refine ⟨?_, g2, g7, by omega⟩
  have c1 : Word.bits w 23 14 = opndCode f.b := by unfold Word.bits; omega
  have c2 : Word.bits w 13 11 = scopeCode f.scope := by unfold Word.bits; omega
  have c3 : Word.bits w 10 9 = ordCode f.ord := by unfold Word.bits; omega
  have c4 : Word.bits w 8 6 = cpolCode f.cpol := by unfold Word.bits; omega
  have c5 : Word.bits w 5 3 = f.width.val := by unfold Word.bits; omega
  have c6 : Word.bits w 2 0 = extCode f.ext := by unfold Word.bits; omega
  simp only [fmOf, g1, g3, g4, g5, c1, c2, c3, c4, c5, c6, opndOf_opndCode, fin16_val, fin8_val, scopeOf_scopeCode, ordOf_ordCode,
    cpolOf_cpolCode, extOf_extCode]

/-- A number below 2^64 is that of its word. -/
theorem toNat_word {n : Nat} (h : n < 2 ^ 64) : (BitVec.ofNat 64 n).toNat = n := by
  rw [BitVec.toNat_ofNat]; exact Nat.mod_eq_of_lt h

/-- What a word spells, its opcode known. -/
theorem spell_of {w op : Nat} (h : opOf w = op) (fx : DWord) : spell w fx = spellAt op w fx := by subst h; rfl

/-- What a word decodes to when what it spells is well formed. -/
theorem decode_of {n op : Nat} {i : Instr} {fx : DWord} (hn : n < 2 ^ 64) (ho : opOf n = op) (hs : spellAt op n fx = i)
    (hi : i.wellFormed = true) : decode (BitVec.ofNat 64 n) fx = .ok i := by
  unfold decode
  rw [toNat_word hn, spell_of ho, hs]
  simp only [hi, if_true]

end Sys2Proof
end

