-- ==== Sys2Proof/Laws/Sparse.lean ====
section
/-!
SUPPORT. The laws of tables keyed by numbers: a read after a write, writes to other keys, and the canonical form that every write
keeps.
-/
namespace Sys2Proof.Machine

variable {α : Type}

/-! ## Reads after writes -/

@[simp] theorem kvGet_nil (k : Nat) : kvGet ([] : List (Nat × α)) k = none := rfl

@[simp] theorem kvGet_kvSet_self (m : List (Nat × α)) (k : Nat) (v : α) : kvGet (kvSet m k v) k = some v := by
  induction m with
  | nil => simp [kvSet, kvGet]
  | cons a m ih =>
    unfold kvSet
    split
    · simp [kvGet]
    · split
      · simp [kvGet]
      · rename_i h _
        simp [kvGet, h, ih]

theorem kvGet_kvSet_ne (m : List (Nat × α)) {k j : Nat} (v : α) (h : k ≠ j) : kvGet (kvSet m k v) j = kvGet m j := by
  induction m with
  | nil => simp [kvSet, kvGet, h]
  | cons a m ih =>
    unfold kvSet
    split
    · rename_i e
      subst e
      simp [kvGet, h]
    · split
      · simp [kvGet, h]
      · simp only [kvGet, ih]

theorem kvGet_kvSet (m : List (Nat × α)) (k j : Nat) (v : α) :
    kvGet (kvSet m k v) j = if k = j then some v else kvGet m j := by
  split
  · subst_vars; simp
  · exact kvGet_kvSet_ne m v ‹_›

@[simp] theorem kvSet_kvSet (m : List (Nat × α)) (k : Nat) (v w : α) : kvSet (kvSet m k v) k w = kvSet m k w := by
  induction m with
  | nil => simp [kvSet]
  | cons a m ih =>
    unfold kvSet
    by_cases e : a.1 = k
    · simp [e, kvSet]
    · by_cases l : k < a.1
      · simp [e, l, kvSet]
      · simp [e, l, kvSet, ih]

theorem kvMod_some {m : List (Nat × α)} {k : Nat} {v : α} (h : kvGet m k = some v) (f : α → α) : kvMod m k f = kvSet m k (f v) := by
  simp [kvMod, h]

theorem kvGet_kvMod (m : List (Nat × α)) (k j : Nat) (f : α → α) :
    kvGet (kvMod m k f) j = if k = j then (kvGet m k).map f else kvGet m j := by
  unfold kvMod
  cases h : kvGet m k with
  | none => by_cases e : k = j <;> simp_all
  | some v => simp [kvGet_kvSet]

theorem kvGet_kvMod_self (m : List (Nat × α)) (k : Nat) (f : α → α) : kvGet (kvMod m k f) k = (kvGet m k).map f := by
  simp [kvGet_kvMod]

theorem kvGet_kvMod_ne (m : List (Nat × α)) {k j : Nat} (f : α → α) (h : k ≠ j) : kvGet (kvMod m k f) j = kvGet m j := by
  simp [kvGet_kvMod, h]

/-- Two changes of one entry are one. -/
theorem kvMod_kvMod (m : List (Nat × α)) (k : Nat) (f g : α → α) : kvMod (kvMod m k f) k g = kvMod m k (fun v => g (f v)) := by
  cases h : kvGet m k with
  | none => simp [kvMod, h]
  | some v => simp [kvMod, h]

theorem kvGet_kvDel (m : List (Nat × α)) (k j : Nat) : kvGet (kvDel m k) j = if k = j then none else kvGet m j := by
  induction m with
  | nil => simp [kvDel]
  | cons a m ih =>
    unfold kvDel
    by_cases e : a.1 = k
    · simp only [e, if_true, ih]
      split
      · rfl
      · simp [kvGet, e, ‹¬ k = j›]
    · simp only [e, if_false, kvGet, ih]
      by_cases f : a.1 = j
      · simp [f, show ¬ k = j by omega]
      · simp [f]

/-- A read after a write of a table with a default. -/
theorem kvGetD_kvPut [DecidableEq α] (d : α) (m : List (Nat × α)) (k j : Nat) (v : α) :
    kvGetD d (kvPut d m k v) j = if k = j then v else kvGetD d m j := by
  unfold kvGetD kvPut
  split
  · rw [kvGet_kvDel]; split <;> simp_all
  · rw [kvGet_kvSet]; split <;> simp

/-! ## The canonical form -/

/-- Every key of a table is above a bound. -/
def kvAbove (b : Nat) (m : List (Nat × α)) : Bool := m.all (fun e => decide (b < e.1))

theorem kvRising_cons (a : Nat × α) (m : List (Nat × α)) : kvRising (a :: m) = (kvAbove a.1 m && kvRising m) := by
  induction m generalizing a with
  | nil => simp [kvRising, kvAbove]
  | cons b m ih =>
    simp only [kvRising, ih b, kvAbove, List.all_cons]
    rcases Nat.lt_or_ge a.1 b.1 with h | h
    · simp only [h, decide_true, Bool.true_and]
      cases hb : m.all (fun e => decide (b.1 < e.1)) with
      | false => simp
      | true =>
        have : m.all (fun e => decide (a.1 < e.1)) = true := by
          simp only [List.all_eq_true, decide_eq_true_eq] at hb ⊢
          intro e he
          exact Nat.lt_trans h (hb e he)
        simp [this]
    · simp [Nat.not_lt.mpr h]

theorem kvAbove_kvSet {b k : Nat} {m : List (Nat × α)} {v : α} (h : kvAbove b m = true) (hk : b < k) :
    kvAbove b (kvSet m k v) = true := by
  induction m with
  | nil => simp [kvSet, kvAbove, hk]
  | cons a m ih =>
    simp only [kvAbove, List.all_cons, Bool.and_eq_true, decide_eq_true_eq] at h
    have h2 := ih (by simpa [kvAbove] using h.2)
    unfold kvSet
    split
    · simpa [kvAbove, hk] using h.2
    · split
      · simpa [kvAbove, hk, h.1] using h.2
      · simpa [kvAbove, h.1] using h2

theorem kvRising_kvSet {m : List (Nat × α)} (h : kvRising m = true) (k : Nat) (v : α) : kvRising (kvSet m k v) = true := by
  induction m with
  | nil => simp [kvSet, kvRising]
  | cons a m ih =>
    rw [kvRising_cons, Bool.and_eq_true] at h
    unfold kvSet
    split
    · rename_i e
      rw [kvRising_cons]
      simpa [e] using h
    · rename_i e
      split
      · rename_i l
        rw [kvRising_cons, kvRising_cons]
        simp only [Bool.and_eq_true]
        refine ⟨?_, h⟩
        simp only [kvAbove, List.all_cons, Bool.and_eq_true, decide_eq_true_eq, List.all_eq_true]
        refine ⟨l, ?_⟩
        have ha := h.1
        simp only [kvAbove, List.all_eq_true, decide_eq_true_eq] at ha
        exact fun x hx => Nat.lt_trans l (ha x hx)
      · rename_i l
        rw [kvRising_cons, Bool.and_eq_true]
        exact ⟨kvAbove_kvSet h.1 (by omega), ih h.2⟩

theorem kvDel_mem {m : List (Nat × α)} {k : Nat} {e : Nat × α} (h : e ∈ kvDel m k) : e ∈ m := by
  induction m with
  | nil => exact h
  | cons a m ih =>
    unfold kvDel at h
    split at h
    · exact List.mem_cons_of_mem _ (ih h)
    · rcases List.mem_cons.mp h with h | h
      · exact h ▸ List.mem_cons_self
      · exact List.mem_cons_of_mem _ (ih h)

theorem kvSet_mem {m : List (Nat × α)} {k : Nat} {v : α} {e : Nat × α} (h : e ∈ kvSet m k v) : e = (k, v) ∨ e ∈ m := by
  induction m with
  | nil => simpa [kvSet] using h
  | cons a m ih =>
    unfold kvSet at h
    split at h
    · rcases List.mem_cons.mp h with h | h
      · exact .inl h
      · exact .inr (List.mem_cons_of_mem _ h)
    · split at h
      · rcases List.mem_cons.mp h with h | h
        · exact .inl h
        · exact .inr h
      · rcases List.mem_cons.mp h with h | h
        · exact .inr (h ▸ List.mem_cons_self)
        · rcases ih h with h | h
          · exact .inl h
          · exact .inr (List.mem_cons_of_mem _ h)

theorem kvRising_kvDel {m : List (Nat × α)} (h : kvRising m = true) (k : Nat) : kvRising (kvDel m k) = true := by
  induction m with
  | nil => simp [kvDel, kvRising]
  | cons a m ih =>
    rw [kvRising_cons, Bool.and_eq_true] at h
    unfold kvDel
    split
    · exact ih h.2
    · rw [kvRising_cons, Bool.and_eq_true]
      refine ⟨?_, ih h.2⟩
      have ha := h.1
      simp only [kvAbove, List.all_eq_true, decide_eq_true_eq] at ha ⊢
      exact fun x hx => ha x (kvDel_mem hx)

/-- A write of a table with a default keeps its canonical form. -/
theorem kvWf_kvPut [DecidableEq α] {d : α} {m : List (Nat × α)} (h : kvWf d m = true) (k : Nat) (v : α) :
    kvWf d (kvPut d m k v) = true := by
  simp only [kvWf, Bool.and_eq_true, List.all_eq_true, decide_eq_true_eq] at h ⊢
  unfold kvPut
  split
  · exact ⟨kvRising_kvDel h.1 k, fun e he => h.2 e (kvDel_mem he)⟩
  · rename_i hv
    refine ⟨kvRising_kvSet h.1 k v, fun e he => ?_⟩
    rcases kvSet_mem he with rfl | he
    · exact hv
    · exact h.2 e he

end Sys2Proof.Machine
end

