-- ==== Sys2Proof/Laws/State.lean ====
section
/-!
SUPPORT. What each update of a table of State leaves: one lemma for each field and update, and the members of the tables after an
update of one of them.
-/
namespace Sys2Proof.Machine

variable (s : State)

/-! ## modGroup -/

@[simp] theorem State.modGroup_agenda (k : Nat) (f : Group → Group) : (s.modGroup k f).agenda = s.agenda := rfl
@[simp] theorem State.modGroup_cur (k : Nat) (f : Group → Group) : (s.modGroup k f).cur = s.cur := rfl
@[simp] theorem State.modGroup_cycle (k : Nat) (f : Group → Group) : (s.modGroup k f).cycle = s.cycle := rfl
@[simp] theorem State.modGroup_clk (k : Nat) (f : Group → Group) : (s.modGroup k f).clk = s.clk := rfl
@[simp] theorem State.modGroup_env (k : Nat) (f : Group → Group) : (s.modGroup k f).env = s.env := rfl
@[simp] theorem State.modGroup_fresh (k : Nat) (f : Group → Group) : (s.modGroup k f).fresh = s.fresh := rfl
@[simp] theorem State.modGroup_stamp (k : Nat) (f : Group → Group) : (s.modGroup k f).stamp = s.stamp := rfl
@[simp] theorem State.modGroup_mem (k : Nat) (f : Group → Group) : (s.modGroup k f).mem = s.mem := rfl
@[simp] theorem State.modGroup_mpois (k : Nat) (f : Group → Group) : (s.modGroup k f).mpois = s.mpois := rfl
@[simp] theorem State.modGroup_host (k : Nat) (f : Group → Group) : (s.modGroup k f).host = s.host := rfl
@[simp] theorem State.modGroup_homes (k : Nat) (f : Group → Group) : (s.modGroup k f).homes = s.homes := rfl
@[simp] theorem State.modGroup_homeQ (k : Nat) (f : Group → Group) : (s.modGroup k f).homeQ = s.homeQ := rfl
@[simp] theorem State.modGroup_l2 (k : Nat) (f : Group → Group) : (s.modGroup k f).l2 = s.l2 := rfl
@[simp] theorem State.modGroup_net (k : Nat) (f : Group → Group) : (s.modGroup k f).net = s.net := rfl
@[simp] theorem State.modGroup_apron (k : Nat) (f : Group → Group) : (s.modGroup k f).apron = s.apron := rfl
@[simp] theorem State.modGroup_vclocks (k : Nat) (f : Group → Group) : (s.modGroup k f).vclocks = s.vclocks := rfl
@[simp] theorem State.modGroup_teams (k : Nat) (f : Group → Group) : (s.modGroup k f).teams = s.teams := rfl
@[simp] theorem State.modGroup_launches (k : Nat) (f : Group → Group) : (s.modGroup k f).launches = s.launches := rfl
@[simp] theorem State.modGroup_cores (k : Nat) (f : Group → Group) : (s.modGroup k f).cores = s.cores := rfl
@[simp] theorem State.modGroup_clusters (k : Nat) (f : Group → Group) : (s.modGroup k f).clusters = s.clusters := rfl
@[simp] theorem State.modGroup_quads (k : Nat) (f : Group → Group) : (s.modGroup k f).quads = s.quads := rfl
@[simp] theorem State.modGroup_gangs (k : Nat) (f : Group → Group) : (s.modGroup k f).gangs = s.gangs := rfl
@[simp] theorem State.modGroup_engines (k : Nat) (f : Group → Group) : (s.modGroup k f).engines = s.engines := rfl
@[simp] theorem State.modGroup_ctxs (k : Nat) (f : Group → Group) : (s.modGroup k f).ctxs = s.ctxs := rfl
@[simp] theorem State.modGroup_mlogs (k : Nat) (f : Group → Group) : (s.modGroup k f).mlogs = s.mlogs := rfl
@[simp] theorem State.modGroup_sleeve (k : Nat) (f : Group → Group) : (s.modGroup k f).sleeve = s.sleeve := rfl
@[simp] theorem State.modGroup_outbox (k : Nat) (f : Group → Group) : (s.modGroup k f).outbox = s.outbox := rfl
@[simp] theorem State.modGroup_recQ (k : Nat) (f : Group → Group) : (s.modGroup k f).recQ = s.recQ := rfl
@[simp] theorem State.modGroup_fabric (k : Nat) (f : Group → Group) : (s.modGroup k f).fabric = s.fabric := rfl
@[simp] theorem State.modGroup_thresh (k : Nat) (f : Group → Group) : (s.modGroup k f).thresh = s.thresh := rfl
@[simp] theorem State.modGroup_counts (k : Nat) (f : Group → Group) : (s.modGroup k f).counts = s.counts := rfl
@[simp] theorem State.modGroup_spillMiB (k : Nat) (f : Group → Group) : (s.modGroup k f).spillMiB = s.spillMiB := rfl
@[simp] theorem State.modGroup_devMode (k : Nat) (f : Group → Group) : (s.modGroup k f).devMode = s.devMode := rfl
@[simp] theorem State.modGroup_keys (k : Nat) (f : Group → Group) : (s.modGroup k f).keys = s.keys := rfl
@[simp] theorem State.modGroup_confid (k : Nat) (f : Group → Group) : (s.modGroup k f).confid = s.confid := rfl
@[simp] theorem State.modGroup_rings (k : Nat) (f : Group → Group) : (s.modGroup k f).rings = s.rings := rfl
@[simp] theorem State.modGroup_lastPos (k : Nat) (f : Group → Group) : (s.modGroup k f).lastPos = s.lastPos := rfl
@[simp] theorem State.modGroup_nextKid (k : Nat) (f : Group → Group) : (s.modGroup k f).nextKid = s.nextKid := rfl
@[simp] theorem State.modGroup_fullAt (k : Nat) (f : Group → Group) : (s.modGroup k f).fullAt = s.fullAt := rfl
@[simp] theorem State.modGroup_decayed (k : Nat) (f : Group → Group) : (s.modGroup k f).decayed = s.decayed := rfl
@[simp] theorem State.modGroup_ready (k : Nat) (f : Group → Group) : (s.modGroup k f).ready = s.ready := rfl
@[simp] theorem State.modGroup_fail (k : Nat) (f : Group → Group) : (s.modGroup k f).fail = s.fail := rfl
@[simp] theorem State.modGroup_fcode (k : Nat) (f : Group → Group) : (s.modGroup k f).fcode = s.fcode := rfl
@[simp] theorem State.modGroup_phase (k : Nat) (f : Group → Group) : (s.modGroup k f).phase = s.phase := rfl
@[simp] theorem State.modGroup_confreq (k : Nat) (f : Group → Group) : (s.modGroup k f).confreq = s.confreq := rfl
@[simp] theorem State.modGroup_cap (k : Nat) (f : Group → Group) : (s.modGroup k f).cap = s.cap := rfl
@[simp] theorem State.modGroup_capOn (k : Nat) (f : Group → Group) : (s.modGroup k f).capOn = s.capOn := rfl
@[simp] theorem State.modGroup_modw (k : Nat) (f : Group → Group) : (s.modGroup k f).modw = s.modw := rfl
@[simp] theorem State.modGroup_tmax (k : Nat) (f : Group → Group) : (s.modGroup k f).tmax = s.tmax := rfl
@[simp] theorem State.modGroup_steps (k : Nat) (f : Group → Group) : (s.modGroup k f).steps = s.steps := rfl
@[simp] theorem State.modGroup_duty (k : Nat) (f : Group → Group) : (s.modGroup k f).duty = s.duty := rfl
@[simp] theorem State.modGroup_store (k : Nat) (f : Group → Group) : (s.modGroup k f).store = s.store := rfl
@[simp] theorem State.modGroup_inForce (k : Nat) (f : Group → Group) : (s.modGroup k f).inForce = s.inForce := rfl
@[simp] theorem State.modGroup_locked (k : Nat) (f : Group → Group) : (s.modGroup k f).locked = s.locked := rfl
@[simp] theorem State.modGroup_serial (k : Nat) (f : Group → Group) : (s.modGroup k f).serial = s.serial := rfl
@[simp] theorem State.modGroup_fw (k : Nat) (f : Group → Group) : (s.modGroup k f).fw = s.fw := rfl
@[simp] theorem State.modGroup_fwVer (k : Nat) (f : Group → Group) : (s.modGroup k f).fwVer = s.fwVer := rfl
@[simp] theorem State.modGroup_fwSig (k : Nat) (f : Group → Group) : (s.modGroup k f).fwSig = s.fwSig := rfl
@[simp] theorem State.modGroup_sessions (k : Nat) (f : Group → Group) : (s.modGroup k f).sessions = s.sessions := rfl
@[simp] theorem State.modGroup_ide (k : Nat) (f : Group → Group) : (s.modGroup k f).ide = s.ide := rfl
@[simp] theorem State.modGroup_walkPtrs (k : Nat) (f : Group → Group) : (s.modGroup k f).walkPtrs = s.walkPtrs := rfl
@[simp] theorem State.modGroup_healthSeq (k : Nat) (f : Group → Group) : (s.modGroup k f).healthSeq = s.healthSeq := rfl
@[simp] theorem State.modGroup_suspects (k : Nat) (f : Group → Group) : (s.modGroup k f).suspects = s.suspects := rfl
@[simp] theorem State.modGroup_ringsShut (k : Nat) (f : Group → Group) : (s.modGroup k f).ringsShut = s.ringsShut := rfl
@[simp] theorem State.modGroup_ports (k : Nat) (f : Group → Group) : (s.modGroup k f).ports = s.ports := rfl
@[simp] theorem State.modGroup_pins (k : Nat) (f : Group → Group) : (s.modGroup k f).pins = s.pins := rfl
@[simp] theorem State.modGroup_colFirst (k : Nat) (f : Group → Group) : (s.modGroup k f).colFirst = s.colFirst := rfl
@[simp] theorem State.modGroup_pausedTo (k : Nat) (f : Group → Group) : (s.modGroup k f).pausedTo = s.pausedTo := rfl

/-! ## modThread -/

@[simp] theorem State.modThread_agenda (k t : Nat) (f : Thread → Thread) : (s.modThread k t f).agenda = s.agenda := rfl
@[simp] theorem State.modThread_cur (k t : Nat) (f : Thread → Thread) : (s.modThread k t f).cur = s.cur := rfl
@[simp] theorem State.modThread_cycle (k t : Nat) (f : Thread → Thread) : (s.modThread k t f).cycle = s.cycle := rfl
@[simp] theorem State.modThread_clk (k t : Nat) (f : Thread → Thread) : (s.modThread k t f).clk = s.clk := rfl
@[simp] theorem State.modThread_env (k t : Nat) (f : Thread → Thread) : (s.modThread k t f).env = s.env := rfl
@[simp] theorem State.modThread_fresh (k t : Nat) (f : Thread → Thread) : (s.modThread k t f).fresh = s.fresh := rfl
@[simp] theorem State.modThread_stamp (k t : Nat) (f : Thread → Thread) : (s.modThread k t f).stamp = s.stamp := rfl
@[simp] theorem State.modThread_mem (k t : Nat) (f : Thread → Thread) : (s.modThread k t f).mem = s.mem := rfl
@[simp] theorem State.modThread_mpois (k t : Nat) (f : Thread → Thread) : (s.modThread k t f).mpois = s.mpois := rfl
@[simp] theorem State.modThread_host (k t : Nat) (f : Thread → Thread) : (s.modThread k t f).host = s.host := rfl
@[simp] theorem State.modThread_homes (k t : Nat) (f : Thread → Thread) : (s.modThread k t f).homes = s.homes := rfl
@[simp] theorem State.modThread_homeQ (k t : Nat) (f : Thread → Thread) : (s.modThread k t f).homeQ = s.homeQ := rfl
@[simp] theorem State.modThread_l2 (k t : Nat) (f : Thread → Thread) : (s.modThread k t f).l2 = s.l2 := rfl
@[simp] theorem State.modThread_net (k t : Nat) (f : Thread → Thread) : (s.modThread k t f).net = s.net := rfl
@[simp] theorem State.modThread_apron (k t : Nat) (f : Thread → Thread) : (s.modThread k t f).apron = s.apron := rfl
@[simp] theorem State.modThread_vclocks (k t : Nat) (f : Thread → Thread) : (s.modThread k t f).vclocks = s.vclocks := rfl
@[simp] theorem State.modThread_teams (k t : Nat) (f : Thread → Thread) : (s.modThread k t f).teams = s.teams := rfl
@[simp] theorem State.modThread_launches (k t : Nat) (f : Thread → Thread) : (s.modThread k t f).launches = s.launches := rfl
@[simp] theorem State.modThread_cores (k t : Nat) (f : Thread → Thread) : (s.modThread k t f).cores = s.cores := rfl
@[simp] theorem State.modThread_clusters (k t : Nat) (f : Thread → Thread) : (s.modThread k t f).clusters = s.clusters := rfl
@[simp] theorem State.modThread_quads (k t : Nat) (f : Thread → Thread) : (s.modThread k t f).quads = s.quads := rfl
@[simp] theorem State.modThread_gangs (k t : Nat) (f : Thread → Thread) : (s.modThread k t f).gangs = s.gangs := rfl
@[simp] theorem State.modThread_engines (k t : Nat) (f : Thread → Thread) : (s.modThread k t f).engines = s.engines := rfl
@[simp] theorem State.modThread_ctxs (k t : Nat) (f : Thread → Thread) : (s.modThread k t f).ctxs = s.ctxs := rfl
@[simp] theorem State.modThread_mlogs (k t : Nat) (f : Thread → Thread) : (s.modThread k t f).mlogs = s.mlogs := rfl
@[simp] theorem State.modThread_sleeve (k t : Nat) (f : Thread → Thread) : (s.modThread k t f).sleeve = s.sleeve := rfl
@[simp] theorem State.modThread_outbox (k t : Nat) (f : Thread → Thread) : (s.modThread k t f).outbox = s.outbox := rfl
@[simp] theorem State.modThread_recQ (k t : Nat) (f : Thread → Thread) : (s.modThread k t f).recQ = s.recQ := rfl
@[simp] theorem State.modThread_fabric (k t : Nat) (f : Thread → Thread) : (s.modThread k t f).fabric = s.fabric := rfl
@[simp] theorem State.modThread_thresh (k t : Nat) (f : Thread → Thread) : (s.modThread k t f).thresh = s.thresh := rfl
@[simp] theorem State.modThread_counts (k t : Nat) (f : Thread → Thread) : (s.modThread k t f).counts = s.counts := rfl
@[simp] theorem State.modThread_spillMiB (k t : Nat) (f : Thread → Thread) : (s.modThread k t f).spillMiB = s.spillMiB := rfl
@[simp] theorem State.modThread_devMode (k t : Nat) (f : Thread → Thread) : (s.modThread k t f).devMode = s.devMode := rfl
@[simp] theorem State.modThread_keys (k t : Nat) (f : Thread → Thread) : (s.modThread k t f).keys = s.keys := rfl
@[simp] theorem State.modThread_confid (k t : Nat) (f : Thread → Thread) : (s.modThread k t f).confid = s.confid := rfl
@[simp] theorem State.modThread_rings (k t : Nat) (f : Thread → Thread) : (s.modThread k t f).rings = s.rings := rfl
@[simp] theorem State.modThread_lastPos (k t : Nat) (f : Thread → Thread) : (s.modThread k t f).lastPos = s.lastPos := rfl
@[simp] theorem State.modThread_nextKid (k t : Nat) (f : Thread → Thread) : (s.modThread k t f).nextKid = s.nextKid := rfl
@[simp] theorem State.modThread_fullAt (k t : Nat) (f : Thread → Thread) : (s.modThread k t f).fullAt = s.fullAt := rfl
@[simp] theorem State.modThread_decayed (k t : Nat) (f : Thread → Thread) : (s.modThread k t f).decayed = s.decayed := rfl
@[simp] theorem State.modThread_ready (k t : Nat) (f : Thread → Thread) : (s.modThread k t f).ready = s.ready := rfl
@[simp] theorem State.modThread_fail (k t : Nat) (f : Thread → Thread) : (s.modThread k t f).fail = s.fail := rfl
@[simp] theorem State.modThread_fcode (k t : Nat) (f : Thread → Thread) : (s.modThread k t f).fcode = s.fcode := rfl
@[simp] theorem State.modThread_phase (k t : Nat) (f : Thread → Thread) : (s.modThread k t f).phase = s.phase := rfl
@[simp] theorem State.modThread_confreq (k t : Nat) (f : Thread → Thread) : (s.modThread k t f).confreq = s.confreq := rfl
@[simp] theorem State.modThread_cap (k t : Nat) (f : Thread → Thread) : (s.modThread k t f).cap = s.cap := rfl
@[simp] theorem State.modThread_capOn (k t : Nat) (f : Thread → Thread) : (s.modThread k t f).capOn = s.capOn := rfl
@[simp] theorem State.modThread_modw (k t : Nat) (f : Thread → Thread) : (s.modThread k t f).modw = s.modw := rfl
@[simp] theorem State.modThread_tmax (k t : Nat) (f : Thread → Thread) : (s.modThread k t f).tmax = s.tmax := rfl
@[simp] theorem State.modThread_steps (k t : Nat) (f : Thread → Thread) : (s.modThread k t f).steps = s.steps := rfl
@[simp] theorem State.modThread_duty (k t : Nat) (f : Thread → Thread) : (s.modThread k t f).duty = s.duty := rfl
@[simp] theorem State.modThread_store (k t : Nat) (f : Thread → Thread) : (s.modThread k t f).store = s.store := rfl
@[simp] theorem State.modThread_inForce (k t : Nat) (f : Thread → Thread) : (s.modThread k t f).inForce = s.inForce := rfl
@[simp] theorem State.modThread_locked (k t : Nat) (f : Thread → Thread) : (s.modThread k t f).locked = s.locked := rfl
@[simp] theorem State.modThread_serial (k t : Nat) (f : Thread → Thread) : (s.modThread k t f).serial = s.serial := rfl
@[simp] theorem State.modThread_fw (k t : Nat) (f : Thread → Thread) : (s.modThread k t f).fw = s.fw := rfl
@[simp] theorem State.modThread_fwVer (k t : Nat) (f : Thread → Thread) : (s.modThread k t f).fwVer = s.fwVer := rfl
@[simp] theorem State.modThread_fwSig (k t : Nat) (f : Thread → Thread) : (s.modThread k t f).fwSig = s.fwSig := rfl
@[simp] theorem State.modThread_sessions (k t : Nat) (f : Thread → Thread) : (s.modThread k t f).sessions = s.sessions := rfl
@[simp] theorem State.modThread_ide (k t : Nat) (f : Thread → Thread) : (s.modThread k t f).ide = s.ide := rfl
@[simp] theorem State.modThread_walkPtrs (k t : Nat) (f : Thread → Thread) : (s.modThread k t f).walkPtrs = s.walkPtrs := rfl
@[simp] theorem State.modThread_healthSeq (k t : Nat) (f : Thread → Thread) : (s.modThread k t f).healthSeq = s.healthSeq := rfl
@[simp] theorem State.modThread_suspects (k t : Nat) (f : Thread → Thread) : (s.modThread k t f).suspects = s.suspects := rfl
@[simp] theorem State.modThread_ringsShut (k t : Nat) (f : Thread → Thread) : (s.modThread k t f).ringsShut = s.ringsShut := rfl
@[simp] theorem State.modThread_ports (k t : Nat) (f : Thread → Thread) : (s.modThread k t f).ports = s.ports := rfl
@[simp] theorem State.modThread_pins (k t : Nat) (f : Thread → Thread) : (s.modThread k t f).pins = s.pins := rfl
@[simp] theorem State.modThread_colFirst (k t : Nat) (f : Thread → Thread) : (s.modThread k t f).colFirst = s.colFirst := rfl
@[simp] theorem State.modThread_pausedTo (k t : Nat) (f : Thread → Thread) : (s.modThread k t f).pausedTo = s.pausedTo := rfl

/-! ## modTeam -/

@[simp] theorem State.modTeam_agenda (k : Nat) (f : Team → Team) : (s.modTeam k f).agenda = s.agenda := rfl
@[simp] theorem State.modTeam_cur (k : Nat) (f : Team → Team) : (s.modTeam k f).cur = s.cur := rfl
@[simp] theorem State.modTeam_cycle (k : Nat) (f : Team → Team) : (s.modTeam k f).cycle = s.cycle := rfl
@[simp] theorem State.modTeam_clk (k : Nat) (f : Team → Team) : (s.modTeam k f).clk = s.clk := rfl
@[simp] theorem State.modTeam_env (k : Nat) (f : Team → Team) : (s.modTeam k f).env = s.env := rfl
@[simp] theorem State.modTeam_fresh (k : Nat) (f : Team → Team) : (s.modTeam k f).fresh = s.fresh := rfl
@[simp] theorem State.modTeam_stamp (k : Nat) (f : Team → Team) : (s.modTeam k f).stamp = s.stamp := rfl
@[simp] theorem State.modTeam_mem (k : Nat) (f : Team → Team) : (s.modTeam k f).mem = s.mem := rfl
@[simp] theorem State.modTeam_mpois (k : Nat) (f : Team → Team) : (s.modTeam k f).mpois = s.mpois := rfl
@[simp] theorem State.modTeam_host (k : Nat) (f : Team → Team) : (s.modTeam k f).host = s.host := rfl
@[simp] theorem State.modTeam_homes (k : Nat) (f : Team → Team) : (s.modTeam k f).homes = s.homes := rfl
@[simp] theorem State.modTeam_homeQ (k : Nat) (f : Team → Team) : (s.modTeam k f).homeQ = s.homeQ := rfl
@[simp] theorem State.modTeam_l2 (k : Nat) (f : Team → Team) : (s.modTeam k f).l2 = s.l2 := rfl
@[simp] theorem State.modTeam_net (k : Nat) (f : Team → Team) : (s.modTeam k f).net = s.net := rfl
@[simp] theorem State.modTeam_apron (k : Nat) (f : Team → Team) : (s.modTeam k f).apron = s.apron := rfl
@[simp] theorem State.modTeam_vclocks (k : Nat) (f : Team → Team) : (s.modTeam k f).vclocks = s.vclocks := rfl
@[simp] theorem State.modTeam_groups (k : Nat) (f : Team → Team) : (s.modTeam k f).groups = s.groups := rfl
@[simp] theorem State.modTeam_launches (k : Nat) (f : Team → Team) : (s.modTeam k f).launches = s.launches := rfl
@[simp] theorem State.modTeam_cores (k : Nat) (f : Team → Team) : (s.modTeam k f).cores = s.cores := rfl
@[simp] theorem State.modTeam_clusters (k : Nat) (f : Team → Team) : (s.modTeam k f).clusters = s.clusters := rfl
@[simp] theorem State.modTeam_quads (k : Nat) (f : Team → Team) : (s.modTeam k f).quads = s.quads := rfl
@[simp] theorem State.modTeam_gangs (k : Nat) (f : Team → Team) : (s.modTeam k f).gangs = s.gangs := rfl
@[simp] theorem State.modTeam_engines (k : Nat) (f : Team → Team) : (s.modTeam k f).engines = s.engines := rfl
@[simp] theorem State.modTeam_ctxs (k : Nat) (f : Team → Team) : (s.modTeam k f).ctxs = s.ctxs := rfl
@[simp] theorem State.modTeam_mlogs (k : Nat) (f : Team → Team) : (s.modTeam k f).mlogs = s.mlogs := rfl
@[simp] theorem State.modTeam_sleeve (k : Nat) (f : Team → Team) : (s.modTeam k f).sleeve = s.sleeve := rfl
@[simp] theorem State.modTeam_outbox (k : Nat) (f : Team → Team) : (s.modTeam k f).outbox = s.outbox := rfl
@[simp] theorem State.modTeam_recQ (k : Nat) (f : Team → Team) : (s.modTeam k f).recQ = s.recQ := rfl
@[simp] theorem State.modTeam_fabric (k : Nat) (f : Team → Team) : (s.modTeam k f).fabric = s.fabric := rfl
@[simp] theorem State.modTeam_thresh (k : Nat) (f : Team → Team) : (s.modTeam k f).thresh = s.thresh := rfl
@[simp] theorem State.modTeam_counts (k : Nat) (f : Team → Team) : (s.modTeam k f).counts = s.counts := rfl
@[simp] theorem State.modTeam_spillMiB (k : Nat) (f : Team → Team) : (s.modTeam k f).spillMiB = s.spillMiB := rfl
@[simp] theorem State.modTeam_devMode (k : Nat) (f : Team → Team) : (s.modTeam k f).devMode = s.devMode := rfl
@[simp] theorem State.modTeam_keys (k : Nat) (f : Team → Team) : (s.modTeam k f).keys = s.keys := rfl
@[simp] theorem State.modTeam_confid (k : Nat) (f : Team → Team) : (s.modTeam k f).confid = s.confid := rfl
@[simp] theorem State.modTeam_rings (k : Nat) (f : Team → Team) : (s.modTeam k f).rings = s.rings := rfl
@[simp] theorem State.modTeam_lastPos (k : Nat) (f : Team → Team) : (s.modTeam k f).lastPos = s.lastPos := rfl
@[simp] theorem State.modTeam_nextKid (k : Nat) (f : Team → Team) : (s.modTeam k f).nextKid = s.nextKid := rfl
@[simp] theorem State.modTeam_fullAt (k : Nat) (f : Team → Team) : (s.modTeam k f).fullAt = s.fullAt := rfl
@[simp] theorem State.modTeam_decayed (k : Nat) (f : Team → Team) : (s.modTeam k f).decayed = s.decayed := rfl
@[simp] theorem State.modTeam_ready (k : Nat) (f : Team → Team) : (s.modTeam k f).ready = s.ready := rfl
@[simp] theorem State.modTeam_fail (k : Nat) (f : Team → Team) : (s.modTeam k f).fail = s.fail := rfl
@[simp] theorem State.modTeam_fcode (k : Nat) (f : Team → Team) : (s.modTeam k f).fcode = s.fcode := rfl
@[simp] theorem State.modTeam_phase (k : Nat) (f : Team → Team) : (s.modTeam k f).phase = s.phase := rfl
@[simp] theorem State.modTeam_confreq (k : Nat) (f : Team → Team) : (s.modTeam k f).confreq = s.confreq := rfl
@[simp] theorem State.modTeam_cap (k : Nat) (f : Team → Team) : (s.modTeam k f).cap = s.cap := rfl
@[simp] theorem State.modTeam_capOn (k : Nat) (f : Team → Team) : (s.modTeam k f).capOn = s.capOn := rfl
@[simp] theorem State.modTeam_modw (k : Nat) (f : Team → Team) : (s.modTeam k f).modw = s.modw := rfl
@[simp] theorem State.modTeam_tmax (k : Nat) (f : Team → Team) : (s.modTeam k f).tmax = s.tmax := rfl
@[simp] theorem State.modTeam_steps (k : Nat) (f : Team → Team) : (s.modTeam k f).steps = s.steps := rfl
@[simp] theorem State.modTeam_duty (k : Nat) (f : Team → Team) : (s.modTeam k f).duty = s.duty := rfl
@[simp] theorem State.modTeam_store (k : Nat) (f : Team → Team) : (s.modTeam k f).store = s.store := rfl
@[simp] theorem State.modTeam_inForce (k : Nat) (f : Team → Team) : (s.modTeam k f).inForce = s.inForce := rfl
@[simp] theorem State.modTeam_locked (k : Nat) (f : Team → Team) : (s.modTeam k f).locked = s.locked := rfl
@[simp] theorem State.modTeam_serial (k : Nat) (f : Team → Team) : (s.modTeam k f).serial = s.serial := rfl
@[simp] theorem State.modTeam_fw (k : Nat) (f : Team → Team) : (s.modTeam k f).fw = s.fw := rfl
@[simp] theorem State.modTeam_fwVer (k : Nat) (f : Team → Team) : (s.modTeam k f).fwVer = s.fwVer := rfl
@[simp] theorem State.modTeam_fwSig (k : Nat) (f : Team → Team) : (s.modTeam k f).fwSig = s.fwSig := rfl
@[simp] theorem State.modTeam_sessions (k : Nat) (f : Team → Team) : (s.modTeam k f).sessions = s.sessions := rfl
@[simp] theorem State.modTeam_ide (k : Nat) (f : Team → Team) : (s.modTeam k f).ide = s.ide := rfl
@[simp] theorem State.modTeam_walkPtrs (k : Nat) (f : Team → Team) : (s.modTeam k f).walkPtrs = s.walkPtrs := rfl
@[simp] theorem State.modTeam_healthSeq (k : Nat) (f : Team → Team) : (s.modTeam k f).healthSeq = s.healthSeq := rfl
@[simp] theorem State.modTeam_suspects (k : Nat) (f : Team → Team) : (s.modTeam k f).suspects = s.suspects := rfl
@[simp] theorem State.modTeam_ringsShut (k : Nat) (f : Team → Team) : (s.modTeam k f).ringsShut = s.ringsShut := rfl
@[simp] theorem State.modTeam_ports (k : Nat) (f : Team → Team) : (s.modTeam k f).ports = s.ports := rfl
@[simp] theorem State.modTeam_pins (k : Nat) (f : Team → Team) : (s.modTeam k f).pins = s.pins := rfl
@[simp] theorem State.modTeam_colFirst (k : Nat) (f : Team → Team) : (s.modTeam k f).colFirst = s.colFirst := rfl
@[simp] theorem State.modTeam_pausedTo (k : Nat) (f : Team → Team) : (s.modTeam k f).pausedTo = s.pausedTo := rfl

/-! ## modLaunch -/

@[simp] theorem State.modLaunch_agenda (k : Nat) (f : Launch → Launch) : (s.modLaunch k f).agenda = s.agenda := rfl
@[simp] theorem State.modLaunch_cur (k : Nat) (f : Launch → Launch) : (s.modLaunch k f).cur = s.cur := rfl
@[simp] theorem State.modLaunch_cycle (k : Nat) (f : Launch → Launch) : (s.modLaunch k f).cycle = s.cycle := rfl
@[simp] theorem State.modLaunch_clk (k : Nat) (f : Launch → Launch) : (s.modLaunch k f).clk = s.clk := rfl
@[simp] theorem State.modLaunch_env (k : Nat) (f : Launch → Launch) : (s.modLaunch k f).env = s.env := rfl
@[simp] theorem State.modLaunch_fresh (k : Nat) (f : Launch → Launch) : (s.modLaunch k f).fresh = s.fresh := rfl
@[simp] theorem State.modLaunch_stamp (k : Nat) (f : Launch → Launch) : (s.modLaunch k f).stamp = s.stamp := rfl
@[simp] theorem State.modLaunch_mem (k : Nat) (f : Launch → Launch) : (s.modLaunch k f).mem = s.mem := rfl
@[simp] theorem State.modLaunch_mpois (k : Nat) (f : Launch → Launch) : (s.modLaunch k f).mpois = s.mpois := rfl
@[simp] theorem State.modLaunch_host (k : Nat) (f : Launch → Launch) : (s.modLaunch k f).host = s.host := rfl
@[simp] theorem State.modLaunch_homes (k : Nat) (f : Launch → Launch) : (s.modLaunch k f).homes = s.homes := rfl
@[simp] theorem State.modLaunch_homeQ (k : Nat) (f : Launch → Launch) : (s.modLaunch k f).homeQ = s.homeQ := rfl
@[simp] theorem State.modLaunch_l2 (k : Nat) (f : Launch → Launch) : (s.modLaunch k f).l2 = s.l2 := rfl
@[simp] theorem State.modLaunch_net (k : Nat) (f : Launch → Launch) : (s.modLaunch k f).net = s.net := rfl
@[simp] theorem State.modLaunch_apron (k : Nat) (f : Launch → Launch) : (s.modLaunch k f).apron = s.apron := rfl
@[simp] theorem State.modLaunch_vclocks (k : Nat) (f : Launch → Launch) : (s.modLaunch k f).vclocks = s.vclocks := rfl
@[simp] theorem State.modLaunch_groups (k : Nat) (f : Launch → Launch) : (s.modLaunch k f).groups = s.groups := rfl
@[simp] theorem State.modLaunch_teams (k : Nat) (f : Launch → Launch) : (s.modLaunch k f).teams = s.teams := rfl
@[simp] theorem State.modLaunch_cores (k : Nat) (f : Launch → Launch) : (s.modLaunch k f).cores = s.cores := rfl
@[simp] theorem State.modLaunch_clusters (k : Nat) (f : Launch → Launch) : (s.modLaunch k f).clusters = s.clusters := rfl
@[simp] theorem State.modLaunch_quads (k : Nat) (f : Launch → Launch) : (s.modLaunch k f).quads = s.quads := rfl
@[simp] theorem State.modLaunch_gangs (k : Nat) (f : Launch → Launch) : (s.modLaunch k f).gangs = s.gangs := rfl
@[simp] theorem State.modLaunch_engines (k : Nat) (f : Launch → Launch) : (s.modLaunch k f).engines = s.engines := rfl
@[simp] theorem State.modLaunch_ctxs (k : Nat) (f : Launch → Launch) : (s.modLaunch k f).ctxs = s.ctxs := rfl
@[simp] theorem State.modLaunch_mlogs (k : Nat) (f : Launch → Launch) : (s.modLaunch k f).mlogs = s.mlogs := rfl
@[simp] theorem State.modLaunch_sleeve (k : Nat) (f : Launch → Launch) : (s.modLaunch k f).sleeve = s.sleeve := rfl
@[simp] theorem State.modLaunch_outbox (k : Nat) (f : Launch → Launch) : (s.modLaunch k f).outbox = s.outbox := rfl
@[simp] theorem State.modLaunch_recQ (k : Nat) (f : Launch → Launch) : (s.modLaunch k f).recQ = s.recQ := rfl
@[simp] theorem State.modLaunch_fabric (k : Nat) (f : Launch → Launch) : (s.modLaunch k f).fabric = s.fabric := rfl
@[simp] theorem State.modLaunch_thresh (k : Nat) (f : Launch → Launch) : (s.modLaunch k f).thresh = s.thresh := rfl
@[simp] theorem State.modLaunch_counts (k : Nat) (f : Launch → Launch) : (s.modLaunch k f).counts = s.counts := rfl
@[simp] theorem State.modLaunch_spillMiB (k : Nat) (f : Launch → Launch) : (s.modLaunch k f).spillMiB = s.spillMiB := rfl
@[simp] theorem State.modLaunch_devMode (k : Nat) (f : Launch → Launch) : (s.modLaunch k f).devMode = s.devMode := rfl
@[simp] theorem State.modLaunch_keys (k : Nat) (f : Launch → Launch) : (s.modLaunch k f).keys = s.keys := rfl
@[simp] theorem State.modLaunch_confid (k : Nat) (f : Launch → Launch) : (s.modLaunch k f).confid = s.confid := rfl
@[simp] theorem State.modLaunch_rings (k : Nat) (f : Launch → Launch) : (s.modLaunch k f).rings = s.rings := rfl
@[simp] theorem State.modLaunch_lastPos (k : Nat) (f : Launch → Launch) : (s.modLaunch k f).lastPos = s.lastPos := rfl
@[simp] theorem State.modLaunch_nextKid (k : Nat) (f : Launch → Launch) : (s.modLaunch k f).nextKid = s.nextKid := rfl
@[simp] theorem State.modLaunch_fullAt (k : Nat) (f : Launch → Launch) : (s.modLaunch k f).fullAt = s.fullAt := rfl
@[simp] theorem State.modLaunch_decayed (k : Nat) (f : Launch → Launch) : (s.modLaunch k f).decayed = s.decayed := rfl
@[simp] theorem State.modLaunch_ready (k : Nat) (f : Launch → Launch) : (s.modLaunch k f).ready = s.ready := rfl
@[simp] theorem State.modLaunch_fail (k : Nat) (f : Launch → Launch) : (s.modLaunch k f).fail = s.fail := rfl
@[simp] theorem State.modLaunch_fcode (k : Nat) (f : Launch → Launch) : (s.modLaunch k f).fcode = s.fcode := rfl
@[simp] theorem State.modLaunch_phase (k : Nat) (f : Launch → Launch) : (s.modLaunch k f).phase = s.phase := rfl
@[simp] theorem State.modLaunch_confreq (k : Nat) (f : Launch → Launch) : (s.modLaunch k f).confreq = s.confreq := rfl
@[simp] theorem State.modLaunch_cap (k : Nat) (f : Launch → Launch) : (s.modLaunch k f).cap = s.cap := rfl
@[simp] theorem State.modLaunch_capOn (k : Nat) (f : Launch → Launch) : (s.modLaunch k f).capOn = s.capOn := rfl
@[simp] theorem State.modLaunch_modw (k : Nat) (f : Launch → Launch) : (s.modLaunch k f).modw = s.modw := rfl
@[simp] theorem State.modLaunch_tmax (k : Nat) (f : Launch → Launch) : (s.modLaunch k f).tmax = s.tmax := rfl
@[simp] theorem State.modLaunch_steps (k : Nat) (f : Launch → Launch) : (s.modLaunch k f).steps = s.steps := rfl
@[simp] theorem State.modLaunch_duty (k : Nat) (f : Launch → Launch) : (s.modLaunch k f).duty = s.duty := rfl
@[simp] theorem State.modLaunch_store (k : Nat) (f : Launch → Launch) : (s.modLaunch k f).store = s.store := rfl
@[simp] theorem State.modLaunch_inForce (k : Nat) (f : Launch → Launch) : (s.modLaunch k f).inForce = s.inForce := rfl
@[simp] theorem State.modLaunch_locked (k : Nat) (f : Launch → Launch) : (s.modLaunch k f).locked = s.locked := rfl
@[simp] theorem State.modLaunch_serial (k : Nat) (f : Launch → Launch) : (s.modLaunch k f).serial = s.serial := rfl
@[simp] theorem State.modLaunch_fw (k : Nat) (f : Launch → Launch) : (s.modLaunch k f).fw = s.fw := rfl
@[simp] theorem State.modLaunch_fwVer (k : Nat) (f : Launch → Launch) : (s.modLaunch k f).fwVer = s.fwVer := rfl
@[simp] theorem State.modLaunch_fwSig (k : Nat) (f : Launch → Launch) : (s.modLaunch k f).fwSig = s.fwSig := rfl
@[simp] theorem State.modLaunch_sessions (k : Nat) (f : Launch → Launch) : (s.modLaunch k f).sessions = s.sessions := rfl
@[simp] theorem State.modLaunch_ide (k : Nat) (f : Launch → Launch) : (s.modLaunch k f).ide = s.ide := rfl
@[simp] theorem State.modLaunch_walkPtrs (k : Nat) (f : Launch → Launch) : (s.modLaunch k f).walkPtrs = s.walkPtrs := rfl
@[simp] theorem State.modLaunch_healthSeq (k : Nat) (f : Launch → Launch) : (s.modLaunch k f).healthSeq = s.healthSeq := rfl
@[simp] theorem State.modLaunch_suspects (k : Nat) (f : Launch → Launch) : (s.modLaunch k f).suspects = s.suspects := rfl
@[simp] theorem State.modLaunch_ringsShut (k : Nat) (f : Launch → Launch) : (s.modLaunch k f).ringsShut = s.ringsShut := rfl
@[simp] theorem State.modLaunch_ports (k : Nat) (f : Launch → Launch) : (s.modLaunch k f).ports = s.ports := rfl
@[simp] theorem State.modLaunch_pins (k : Nat) (f : Launch → Launch) : (s.modLaunch k f).pins = s.pins := rfl
@[simp] theorem State.modLaunch_colFirst (k : Nat) (f : Launch → Launch) : (s.modLaunch k f).colFirst = s.colFirst := rfl
@[simp] theorem State.modLaunch_pausedTo (k : Nat) (f : Launch → Launch) : (s.modLaunch k f).pausedTo = s.pausedTo := rfl

/-! ## modCore -/

@[simp] theorem State.modCore_agenda (k : Nat) (f : Core → Core) : (s.modCore k f).agenda = s.agenda := rfl
@[simp] theorem State.modCore_cur (k : Nat) (f : Core → Core) : (s.modCore k f).cur = s.cur := rfl
@[simp] theorem State.modCore_cycle (k : Nat) (f : Core → Core) : (s.modCore k f).cycle = s.cycle := rfl
@[simp] theorem State.modCore_clk (k : Nat) (f : Core → Core) : (s.modCore k f).clk = s.clk := rfl
@[simp] theorem State.modCore_env (k : Nat) (f : Core → Core) : (s.modCore k f).env = s.env := rfl
@[simp] theorem State.modCore_fresh (k : Nat) (f : Core → Core) : (s.modCore k f).fresh = s.fresh := rfl
@[simp] theorem State.modCore_stamp (k : Nat) (f : Core → Core) : (s.modCore k f).stamp = s.stamp := rfl
@[simp] theorem State.modCore_mem (k : Nat) (f : Core → Core) : (s.modCore k f).mem = s.mem := rfl
@[simp] theorem State.modCore_mpois (k : Nat) (f : Core → Core) : (s.modCore k f).mpois = s.mpois := rfl
@[simp] theorem State.modCore_host (k : Nat) (f : Core → Core) : (s.modCore k f).host = s.host := rfl
@[simp] theorem State.modCore_homes (k : Nat) (f : Core → Core) : (s.modCore k f).homes = s.homes := rfl
@[simp] theorem State.modCore_homeQ (k : Nat) (f : Core → Core) : (s.modCore k f).homeQ = s.homeQ := rfl
@[simp] theorem State.modCore_l2 (k : Nat) (f : Core → Core) : (s.modCore k f).l2 = s.l2 := rfl
@[simp] theorem State.modCore_net (k : Nat) (f : Core → Core) : (s.modCore k f).net = s.net := rfl
@[simp] theorem State.modCore_apron (k : Nat) (f : Core → Core) : (s.modCore k f).apron = s.apron := rfl
@[simp] theorem State.modCore_vclocks (k : Nat) (f : Core → Core) : (s.modCore k f).vclocks = s.vclocks := rfl
@[simp] theorem State.modCore_groups (k : Nat) (f : Core → Core) : (s.modCore k f).groups = s.groups := rfl
@[simp] theorem State.modCore_teams (k : Nat) (f : Core → Core) : (s.modCore k f).teams = s.teams := rfl
@[simp] theorem State.modCore_launches (k : Nat) (f : Core → Core) : (s.modCore k f).launches = s.launches := rfl
@[simp] theorem State.modCore_clusters (k : Nat) (f : Core → Core) : (s.modCore k f).clusters = s.clusters := rfl
@[simp] theorem State.modCore_quads (k : Nat) (f : Core → Core) : (s.modCore k f).quads = s.quads := rfl
@[simp] theorem State.modCore_gangs (k : Nat) (f : Core → Core) : (s.modCore k f).gangs = s.gangs := rfl
@[simp] theorem State.modCore_engines (k : Nat) (f : Core → Core) : (s.modCore k f).engines = s.engines := rfl
@[simp] theorem State.modCore_ctxs (k : Nat) (f : Core → Core) : (s.modCore k f).ctxs = s.ctxs := rfl
@[simp] theorem State.modCore_mlogs (k : Nat) (f : Core → Core) : (s.modCore k f).mlogs = s.mlogs := rfl
@[simp] theorem State.modCore_sleeve (k : Nat) (f : Core → Core) : (s.modCore k f).sleeve = s.sleeve := rfl
@[simp] theorem State.modCore_outbox (k : Nat) (f : Core → Core) : (s.modCore k f).outbox = s.outbox := rfl
@[simp] theorem State.modCore_recQ (k : Nat) (f : Core → Core) : (s.modCore k f).recQ = s.recQ := rfl
@[simp] theorem State.modCore_fabric (k : Nat) (f : Core → Core) : (s.modCore k f).fabric = s.fabric := rfl
@[simp] theorem State.modCore_thresh (k : Nat) (f : Core → Core) : (s.modCore k f).thresh = s.thresh := rfl
@[simp] theorem State.modCore_counts (k : Nat) (f : Core → Core) : (s.modCore k f).counts = s.counts := rfl
@[simp] theorem State.modCore_spillMiB (k : Nat) (f : Core → Core) : (s.modCore k f).spillMiB = s.spillMiB := rfl
@[simp] theorem State.modCore_devMode (k : Nat) (f : Core → Core) : (s.modCore k f).devMode = s.devMode := rfl
@[simp] theorem State.modCore_keys (k : Nat) (f : Core → Core) : (s.modCore k f).keys = s.keys := rfl
@[simp] theorem State.modCore_confid (k : Nat) (f : Core → Core) : (s.modCore k f).confid = s.confid := rfl
@[simp] theorem State.modCore_rings (k : Nat) (f : Core → Core) : (s.modCore k f).rings = s.rings := rfl
@[simp] theorem State.modCore_lastPos (k : Nat) (f : Core → Core) : (s.modCore k f).lastPos = s.lastPos := rfl
@[simp] theorem State.modCore_nextKid (k : Nat) (f : Core → Core) : (s.modCore k f).nextKid = s.nextKid := rfl
@[simp] theorem State.modCore_fullAt (k : Nat) (f : Core → Core) : (s.modCore k f).fullAt = s.fullAt := rfl
@[simp] theorem State.modCore_decayed (k : Nat) (f : Core → Core) : (s.modCore k f).decayed = s.decayed := rfl
@[simp] theorem State.modCore_ready (k : Nat) (f : Core → Core) : (s.modCore k f).ready = s.ready := rfl
@[simp] theorem State.modCore_fail (k : Nat) (f : Core → Core) : (s.modCore k f).fail = s.fail := rfl
@[simp] theorem State.modCore_fcode (k : Nat) (f : Core → Core) : (s.modCore k f).fcode = s.fcode := rfl
@[simp] theorem State.modCore_phase (k : Nat) (f : Core → Core) : (s.modCore k f).phase = s.phase := rfl
@[simp] theorem State.modCore_confreq (k : Nat) (f : Core → Core) : (s.modCore k f).confreq = s.confreq := rfl
@[simp] theorem State.modCore_cap (k : Nat) (f : Core → Core) : (s.modCore k f).cap = s.cap := rfl
@[simp] theorem State.modCore_capOn (k : Nat) (f : Core → Core) : (s.modCore k f).capOn = s.capOn := rfl
@[simp] theorem State.modCore_modw (k : Nat) (f : Core → Core) : (s.modCore k f).modw = s.modw := rfl
@[simp] theorem State.modCore_tmax (k : Nat) (f : Core → Core) : (s.modCore k f).tmax = s.tmax := rfl
@[simp] theorem State.modCore_steps (k : Nat) (f : Core → Core) : (s.modCore k f).steps = s.steps := rfl
@[simp] theorem State.modCore_duty (k : Nat) (f : Core → Core) : (s.modCore k f).duty = s.duty := rfl
@[simp] theorem State.modCore_store (k : Nat) (f : Core → Core) : (s.modCore k f).store = s.store := rfl
@[simp] theorem State.modCore_inForce (k : Nat) (f : Core → Core) : (s.modCore k f).inForce = s.inForce := rfl
@[simp] theorem State.modCore_locked (k : Nat) (f : Core → Core) : (s.modCore k f).locked = s.locked := rfl
@[simp] theorem State.modCore_serial (k : Nat) (f : Core → Core) : (s.modCore k f).serial = s.serial := rfl
@[simp] theorem State.modCore_fw (k : Nat) (f : Core → Core) : (s.modCore k f).fw = s.fw := rfl
@[simp] theorem State.modCore_fwVer (k : Nat) (f : Core → Core) : (s.modCore k f).fwVer = s.fwVer := rfl
@[simp] theorem State.modCore_fwSig (k : Nat) (f : Core → Core) : (s.modCore k f).fwSig = s.fwSig := rfl
@[simp] theorem State.modCore_sessions (k : Nat) (f : Core → Core) : (s.modCore k f).sessions = s.sessions := rfl
@[simp] theorem State.modCore_ide (k : Nat) (f : Core → Core) : (s.modCore k f).ide = s.ide := rfl
@[simp] theorem State.modCore_walkPtrs (k : Nat) (f : Core → Core) : (s.modCore k f).walkPtrs = s.walkPtrs := rfl
@[simp] theorem State.modCore_healthSeq (k : Nat) (f : Core → Core) : (s.modCore k f).healthSeq = s.healthSeq := rfl
@[simp] theorem State.modCore_suspects (k : Nat) (f : Core → Core) : (s.modCore k f).suspects = s.suspects := rfl
@[simp] theorem State.modCore_ringsShut (k : Nat) (f : Core → Core) : (s.modCore k f).ringsShut = s.ringsShut := rfl
@[simp] theorem State.modCore_ports (k : Nat) (f : Core → Core) : (s.modCore k f).ports = s.ports := rfl
@[simp] theorem State.modCore_pins (k : Nat) (f : Core → Core) : (s.modCore k f).pins = s.pins := rfl
@[simp] theorem State.modCore_colFirst (k : Nat) (f : Core → Core) : (s.modCore k f).colFirst = s.colFirst := rfl
@[simp] theorem State.modCore_pausedTo (k : Nat) (f : Core → Core) : (s.modCore k f).pausedTo = s.pausedTo := rfl

/-! ## modCluster -/

@[simp] theorem State.modCluster_agenda (k : Nat) (f : Cluster → Cluster) : (s.modCluster k f).agenda = s.agenda := rfl
@[simp] theorem State.modCluster_cur (k : Nat) (f : Cluster → Cluster) : (s.modCluster k f).cur = s.cur := rfl
@[simp] theorem State.modCluster_cycle (k : Nat) (f : Cluster → Cluster) : (s.modCluster k f).cycle = s.cycle := rfl
@[simp] theorem State.modCluster_clk (k : Nat) (f : Cluster → Cluster) : (s.modCluster k f).clk = s.clk := rfl
@[simp] theorem State.modCluster_env (k : Nat) (f : Cluster → Cluster) : (s.modCluster k f).env = s.env := rfl
@[simp] theorem State.modCluster_fresh (k : Nat) (f : Cluster → Cluster) : (s.modCluster k f).fresh = s.fresh := rfl
@[simp] theorem State.modCluster_stamp (k : Nat) (f : Cluster → Cluster) : (s.modCluster k f).stamp = s.stamp := rfl
@[simp] theorem State.modCluster_mem (k : Nat) (f : Cluster → Cluster) : (s.modCluster k f).mem = s.mem := rfl
@[simp] theorem State.modCluster_mpois (k : Nat) (f : Cluster → Cluster) : (s.modCluster k f).mpois = s.mpois := rfl
@[simp] theorem State.modCluster_host (k : Nat) (f : Cluster → Cluster) : (s.modCluster k f).host = s.host := rfl
@[simp] theorem State.modCluster_homes (k : Nat) (f : Cluster → Cluster) : (s.modCluster k f).homes = s.homes := rfl
@[simp] theorem State.modCluster_homeQ (k : Nat) (f : Cluster → Cluster) : (s.modCluster k f).homeQ = s.homeQ := rfl
@[simp] theorem State.modCluster_l2 (k : Nat) (f : Cluster → Cluster) : (s.modCluster k f).l2 = s.l2 := rfl
@[simp] theorem State.modCluster_net (k : Nat) (f : Cluster → Cluster) : (s.modCluster k f).net = s.net := rfl
@[simp] theorem State.modCluster_apron (k : Nat) (f : Cluster → Cluster) : (s.modCluster k f).apron = s.apron := rfl
@[simp] theorem State.modCluster_vclocks (k : Nat) (f : Cluster → Cluster) : (s.modCluster k f).vclocks = s.vclocks := rfl
@[simp] theorem State.modCluster_groups (k : Nat) (f : Cluster → Cluster) : (s.modCluster k f).groups = s.groups := rfl
@[simp] theorem State.modCluster_teams (k : Nat) (f : Cluster → Cluster) : (s.modCluster k f).teams = s.teams := rfl
@[simp] theorem State.modCluster_launches (k : Nat) (f : Cluster → Cluster) : (s.modCluster k f).launches = s.launches := rfl
@[simp] theorem State.modCluster_cores (k : Nat) (f : Cluster → Cluster) : (s.modCluster k f).cores = s.cores := rfl
@[simp] theorem State.modCluster_quads (k : Nat) (f : Cluster → Cluster) : (s.modCluster k f).quads = s.quads := rfl
@[simp] theorem State.modCluster_gangs (k : Nat) (f : Cluster → Cluster) : (s.modCluster k f).gangs = s.gangs := rfl
@[simp] theorem State.modCluster_engines (k : Nat) (f : Cluster → Cluster) : (s.modCluster k f).engines = s.engines := rfl
@[simp] theorem State.modCluster_ctxs (k : Nat) (f : Cluster → Cluster) : (s.modCluster k f).ctxs = s.ctxs := rfl
@[simp] theorem State.modCluster_mlogs (k : Nat) (f : Cluster → Cluster) : (s.modCluster k f).mlogs = s.mlogs := rfl
@[simp] theorem State.modCluster_sleeve (k : Nat) (f : Cluster → Cluster) : (s.modCluster k f).sleeve = s.sleeve := rfl
@[simp] theorem State.modCluster_outbox (k : Nat) (f : Cluster → Cluster) : (s.modCluster k f).outbox = s.outbox := rfl
@[simp] theorem State.modCluster_recQ (k : Nat) (f : Cluster → Cluster) : (s.modCluster k f).recQ = s.recQ := rfl
@[simp] theorem State.modCluster_fabric (k : Nat) (f : Cluster → Cluster) : (s.modCluster k f).fabric = s.fabric := rfl
@[simp] theorem State.modCluster_thresh (k : Nat) (f : Cluster → Cluster) : (s.modCluster k f).thresh = s.thresh := rfl
@[simp] theorem State.modCluster_counts (k : Nat) (f : Cluster → Cluster) : (s.modCluster k f).counts = s.counts := rfl
@[simp] theorem State.modCluster_spillMiB (k : Nat) (f : Cluster → Cluster) : (s.modCluster k f).spillMiB = s.spillMiB := rfl
@[simp] theorem State.modCluster_devMode (k : Nat) (f : Cluster → Cluster) : (s.modCluster k f).devMode = s.devMode := rfl
@[simp] theorem State.modCluster_keys (k : Nat) (f : Cluster → Cluster) : (s.modCluster k f).keys = s.keys := rfl
@[simp] theorem State.modCluster_confid (k : Nat) (f : Cluster → Cluster) : (s.modCluster k f).confid = s.confid := rfl
@[simp] theorem State.modCluster_rings (k : Nat) (f : Cluster → Cluster) : (s.modCluster k f).rings = s.rings := rfl
@[simp] theorem State.modCluster_lastPos (k : Nat) (f : Cluster → Cluster) : (s.modCluster k f).lastPos = s.lastPos := rfl
@[simp] theorem State.modCluster_nextKid (k : Nat) (f : Cluster → Cluster) : (s.modCluster k f).nextKid = s.nextKid := rfl
@[simp] theorem State.modCluster_fullAt (k : Nat) (f : Cluster → Cluster) : (s.modCluster k f).fullAt = s.fullAt := rfl
@[simp] theorem State.modCluster_decayed (k : Nat) (f : Cluster → Cluster) : (s.modCluster k f).decayed = s.decayed := rfl
@[simp] theorem State.modCluster_ready (k : Nat) (f : Cluster → Cluster) : (s.modCluster k f).ready = s.ready := rfl
@[simp] theorem State.modCluster_fail (k : Nat) (f : Cluster → Cluster) : (s.modCluster k f).fail = s.fail := rfl
@[simp] theorem State.modCluster_fcode (k : Nat) (f : Cluster → Cluster) : (s.modCluster k f).fcode = s.fcode := rfl
@[simp] theorem State.modCluster_phase (k : Nat) (f : Cluster → Cluster) : (s.modCluster k f).phase = s.phase := rfl
@[simp] theorem State.modCluster_confreq (k : Nat) (f : Cluster → Cluster) : (s.modCluster k f).confreq = s.confreq := rfl
@[simp] theorem State.modCluster_cap (k : Nat) (f : Cluster → Cluster) : (s.modCluster k f).cap = s.cap := rfl
@[simp] theorem State.modCluster_capOn (k : Nat) (f : Cluster → Cluster) : (s.modCluster k f).capOn = s.capOn := rfl
@[simp] theorem State.modCluster_modw (k : Nat) (f : Cluster → Cluster) : (s.modCluster k f).modw = s.modw := rfl
@[simp] theorem State.modCluster_tmax (k : Nat) (f : Cluster → Cluster) : (s.modCluster k f).tmax = s.tmax := rfl
@[simp] theorem State.modCluster_steps (k : Nat) (f : Cluster → Cluster) : (s.modCluster k f).steps = s.steps := rfl
@[simp] theorem State.modCluster_duty (k : Nat) (f : Cluster → Cluster) : (s.modCluster k f).duty = s.duty := rfl
@[simp] theorem State.modCluster_store (k : Nat) (f : Cluster → Cluster) : (s.modCluster k f).store = s.store := rfl
@[simp] theorem State.modCluster_inForce (k : Nat) (f : Cluster → Cluster) : (s.modCluster k f).inForce = s.inForce := rfl
@[simp] theorem State.modCluster_locked (k : Nat) (f : Cluster → Cluster) : (s.modCluster k f).locked = s.locked := rfl
@[simp] theorem State.modCluster_serial (k : Nat) (f : Cluster → Cluster) : (s.modCluster k f).serial = s.serial := rfl
@[simp] theorem State.modCluster_fw (k : Nat) (f : Cluster → Cluster) : (s.modCluster k f).fw = s.fw := rfl
@[simp] theorem State.modCluster_fwVer (k : Nat) (f : Cluster → Cluster) : (s.modCluster k f).fwVer = s.fwVer := rfl
@[simp] theorem State.modCluster_fwSig (k : Nat) (f : Cluster → Cluster) : (s.modCluster k f).fwSig = s.fwSig := rfl
@[simp] theorem State.modCluster_sessions (k : Nat) (f : Cluster → Cluster) : (s.modCluster k f).sessions = s.sessions := rfl
@[simp] theorem State.modCluster_ide (k : Nat) (f : Cluster → Cluster) : (s.modCluster k f).ide = s.ide := rfl
@[simp] theorem State.modCluster_walkPtrs (k : Nat) (f : Cluster → Cluster) : (s.modCluster k f).walkPtrs = s.walkPtrs := rfl
@[simp] theorem State.modCluster_healthSeq (k : Nat) (f : Cluster → Cluster) : (s.modCluster k f).healthSeq = s.healthSeq := rfl
@[simp] theorem State.modCluster_suspects (k : Nat) (f : Cluster → Cluster) : (s.modCluster k f).suspects = s.suspects := rfl
@[simp] theorem State.modCluster_ringsShut (k : Nat) (f : Cluster → Cluster) : (s.modCluster k f).ringsShut = s.ringsShut := rfl
@[simp] theorem State.modCluster_ports (k : Nat) (f : Cluster → Cluster) : (s.modCluster k f).ports = s.ports := rfl
@[simp] theorem State.modCluster_pins (k : Nat) (f : Cluster → Cluster) : (s.modCluster k f).pins = s.pins := rfl
@[simp] theorem State.modCluster_colFirst (k : Nat) (f : Cluster → Cluster) : (s.modCluster k f).colFirst = s.colFirst := rfl
@[simp] theorem State.modCluster_pausedTo (k : Nat) (f : Cluster → Cluster) : (s.modCluster k f).pausedTo = s.pausedTo := rfl

/-! ## modCtx -/

@[simp] theorem State.modCtx_agenda (k : Nat) (f : Ctx → Ctx) : (s.modCtx k f).agenda = s.agenda := rfl
@[simp] theorem State.modCtx_cur (k : Nat) (f : Ctx → Ctx) : (s.modCtx k f).cur = s.cur := rfl
@[simp] theorem State.modCtx_cycle (k : Nat) (f : Ctx → Ctx) : (s.modCtx k f).cycle = s.cycle := rfl
@[simp] theorem State.modCtx_clk (k : Nat) (f : Ctx → Ctx) : (s.modCtx k f).clk = s.clk := rfl
@[simp] theorem State.modCtx_env (k : Nat) (f : Ctx → Ctx) : (s.modCtx k f).env = s.env := rfl
@[simp] theorem State.modCtx_fresh (k : Nat) (f : Ctx → Ctx) : (s.modCtx k f).fresh = s.fresh := rfl
@[simp] theorem State.modCtx_stamp (k : Nat) (f : Ctx → Ctx) : (s.modCtx k f).stamp = s.stamp := rfl
@[simp] theorem State.modCtx_mem (k : Nat) (f : Ctx → Ctx) : (s.modCtx k f).mem = s.mem := rfl
@[simp] theorem State.modCtx_mpois (k : Nat) (f : Ctx → Ctx) : (s.modCtx k f).mpois = s.mpois := rfl
@[simp] theorem State.modCtx_host (k : Nat) (f : Ctx → Ctx) : (s.modCtx k f).host = s.host := rfl
@[simp] theorem State.modCtx_homes (k : Nat) (f : Ctx → Ctx) : (s.modCtx k f).homes = s.homes := rfl
@[simp] theorem State.modCtx_homeQ (k : Nat) (f : Ctx → Ctx) : (s.modCtx k f).homeQ = s.homeQ := rfl
@[simp] theorem State.modCtx_l2 (k : Nat) (f : Ctx → Ctx) : (s.modCtx k f).l2 = s.l2 := rfl
@[simp] theorem State.modCtx_net (k : Nat) (f : Ctx → Ctx) : (s.modCtx k f).net = s.net := rfl
@[simp] theorem State.modCtx_apron (k : Nat) (f : Ctx → Ctx) : (s.modCtx k f).apron = s.apron := rfl
@[simp] theorem State.modCtx_vclocks (k : Nat) (f : Ctx → Ctx) : (s.modCtx k f).vclocks = s.vclocks := rfl
@[simp] theorem State.modCtx_groups (k : Nat) (f : Ctx → Ctx) : (s.modCtx k f).groups = s.groups := rfl
@[simp] theorem State.modCtx_teams (k : Nat) (f : Ctx → Ctx) : (s.modCtx k f).teams = s.teams := rfl
@[simp] theorem State.modCtx_launches (k : Nat) (f : Ctx → Ctx) : (s.modCtx k f).launches = s.launches := rfl
@[simp] theorem State.modCtx_cores (k : Nat) (f : Ctx → Ctx) : (s.modCtx k f).cores = s.cores := rfl
@[simp] theorem State.modCtx_clusters (k : Nat) (f : Ctx → Ctx) : (s.modCtx k f).clusters = s.clusters := rfl
@[simp] theorem State.modCtx_quads (k : Nat) (f : Ctx → Ctx) : (s.modCtx k f).quads = s.quads := rfl
@[simp] theorem State.modCtx_gangs (k : Nat) (f : Ctx → Ctx) : (s.modCtx k f).gangs = s.gangs := rfl
@[simp] theorem State.modCtx_engines (k : Nat) (f : Ctx → Ctx) : (s.modCtx k f).engines = s.engines := rfl
@[simp] theorem State.modCtx_mlogs (k : Nat) (f : Ctx → Ctx) : (s.modCtx k f).mlogs = s.mlogs := rfl
@[simp] theorem State.modCtx_sleeve (k : Nat) (f : Ctx → Ctx) : (s.modCtx k f).sleeve = s.sleeve := rfl
@[simp] theorem State.modCtx_outbox (k : Nat) (f : Ctx → Ctx) : (s.modCtx k f).outbox = s.outbox := rfl
@[simp] theorem State.modCtx_recQ (k : Nat) (f : Ctx → Ctx) : (s.modCtx k f).recQ = s.recQ := rfl
@[simp] theorem State.modCtx_fabric (k : Nat) (f : Ctx → Ctx) : (s.modCtx k f).fabric = s.fabric := rfl
@[simp] theorem State.modCtx_thresh (k : Nat) (f : Ctx → Ctx) : (s.modCtx k f).thresh = s.thresh := rfl
@[simp] theorem State.modCtx_counts (k : Nat) (f : Ctx → Ctx) : (s.modCtx k f).counts = s.counts := rfl
@[simp] theorem State.modCtx_spillMiB (k : Nat) (f : Ctx → Ctx) : (s.modCtx k f).spillMiB = s.spillMiB := rfl
@[simp] theorem State.modCtx_devMode (k : Nat) (f : Ctx → Ctx) : (s.modCtx k f).devMode = s.devMode := rfl
@[simp] theorem State.modCtx_keys (k : Nat) (f : Ctx → Ctx) : (s.modCtx k f).keys = s.keys := rfl
@[simp] theorem State.modCtx_confid (k : Nat) (f : Ctx → Ctx) : (s.modCtx k f).confid = s.confid := rfl
@[simp] theorem State.modCtx_rings (k : Nat) (f : Ctx → Ctx) : (s.modCtx k f).rings = s.rings := rfl
@[simp] theorem State.modCtx_lastPos (k : Nat) (f : Ctx → Ctx) : (s.modCtx k f).lastPos = s.lastPos := rfl
@[simp] theorem State.modCtx_nextKid (k : Nat) (f : Ctx → Ctx) : (s.modCtx k f).nextKid = s.nextKid := rfl
@[simp] theorem State.modCtx_fullAt (k : Nat) (f : Ctx → Ctx) : (s.modCtx k f).fullAt = s.fullAt := rfl
@[simp] theorem State.modCtx_decayed (k : Nat) (f : Ctx → Ctx) : (s.modCtx k f).decayed = s.decayed := rfl
@[simp] theorem State.modCtx_ready (k : Nat) (f : Ctx → Ctx) : (s.modCtx k f).ready = s.ready := rfl
@[simp] theorem State.modCtx_fail (k : Nat) (f : Ctx → Ctx) : (s.modCtx k f).fail = s.fail := rfl
@[simp] theorem State.modCtx_fcode (k : Nat) (f : Ctx → Ctx) : (s.modCtx k f).fcode = s.fcode := rfl
@[simp] theorem State.modCtx_phase (k : Nat) (f : Ctx → Ctx) : (s.modCtx k f).phase = s.phase := rfl
@[simp] theorem State.modCtx_confreq (k : Nat) (f : Ctx → Ctx) : (s.modCtx k f).confreq = s.confreq := rfl
@[simp] theorem State.modCtx_cap (k : Nat) (f : Ctx → Ctx) : (s.modCtx k f).cap = s.cap := rfl
@[simp] theorem State.modCtx_capOn (k : Nat) (f : Ctx → Ctx) : (s.modCtx k f).capOn = s.capOn := rfl
@[simp] theorem State.modCtx_modw (k : Nat) (f : Ctx → Ctx) : (s.modCtx k f).modw = s.modw := rfl
@[simp] theorem State.modCtx_tmax (k : Nat) (f : Ctx → Ctx) : (s.modCtx k f).tmax = s.tmax := rfl
@[simp] theorem State.modCtx_steps (k : Nat) (f : Ctx → Ctx) : (s.modCtx k f).steps = s.steps := rfl
@[simp] theorem State.modCtx_duty (k : Nat) (f : Ctx → Ctx) : (s.modCtx k f).duty = s.duty := rfl
@[simp] theorem State.modCtx_store (k : Nat) (f : Ctx → Ctx) : (s.modCtx k f).store = s.store := rfl
@[simp] theorem State.modCtx_inForce (k : Nat) (f : Ctx → Ctx) : (s.modCtx k f).inForce = s.inForce := rfl
@[simp] theorem State.modCtx_locked (k : Nat) (f : Ctx → Ctx) : (s.modCtx k f).locked = s.locked := rfl
@[simp] theorem State.modCtx_serial (k : Nat) (f : Ctx → Ctx) : (s.modCtx k f).serial = s.serial := rfl
@[simp] theorem State.modCtx_fw (k : Nat) (f : Ctx → Ctx) : (s.modCtx k f).fw = s.fw := rfl
@[simp] theorem State.modCtx_fwVer (k : Nat) (f : Ctx → Ctx) : (s.modCtx k f).fwVer = s.fwVer := rfl
@[simp] theorem State.modCtx_fwSig (k : Nat) (f : Ctx → Ctx) : (s.modCtx k f).fwSig = s.fwSig := rfl
@[simp] theorem State.modCtx_sessions (k : Nat) (f : Ctx → Ctx) : (s.modCtx k f).sessions = s.sessions := rfl
@[simp] theorem State.modCtx_ide (k : Nat) (f : Ctx → Ctx) : (s.modCtx k f).ide = s.ide := rfl
@[simp] theorem State.modCtx_walkPtrs (k : Nat) (f : Ctx → Ctx) : (s.modCtx k f).walkPtrs = s.walkPtrs := rfl
@[simp] theorem State.modCtx_healthSeq (k : Nat) (f : Ctx → Ctx) : (s.modCtx k f).healthSeq = s.healthSeq := rfl
@[simp] theorem State.modCtx_suspects (k : Nat) (f : Ctx → Ctx) : (s.modCtx k f).suspects = s.suspects := rfl
@[simp] theorem State.modCtx_ringsShut (k : Nat) (f : Ctx → Ctx) : (s.modCtx k f).ringsShut = s.ringsShut := rfl
@[simp] theorem State.modCtx_ports (k : Nat) (f : Ctx → Ctx) : (s.modCtx k f).ports = s.ports := rfl
@[simp] theorem State.modCtx_pins (k : Nat) (f : Ctx → Ctx) : (s.modCtx k f).pins = s.pins := rfl
@[simp] theorem State.modCtx_colFirst (k : Nat) (f : Ctx → Ctx) : (s.modCtx k f).colFirst = s.colFirst := rfl
@[simp] theorem State.modCtx_pausedTo (k : Nat) (f : Ctx → Ctx) : (s.modCtx k f).pausedTo = s.pausedTo := rfl

/-! ## modQuad -/

@[simp] theorem State.modQuad_agenda (k : Nat) (f : Quad → Quad) : (s.modQuad k f).agenda = s.agenda := rfl
@[simp] theorem State.modQuad_cur (k : Nat) (f : Quad → Quad) : (s.modQuad k f).cur = s.cur := rfl
@[simp] theorem State.modQuad_cycle (k : Nat) (f : Quad → Quad) : (s.modQuad k f).cycle = s.cycle := rfl
@[simp] theorem State.modQuad_clk (k : Nat) (f : Quad → Quad) : (s.modQuad k f).clk = s.clk := rfl
@[simp] theorem State.modQuad_env (k : Nat) (f : Quad → Quad) : (s.modQuad k f).env = s.env := rfl
@[simp] theorem State.modQuad_fresh (k : Nat) (f : Quad → Quad) : (s.modQuad k f).fresh = s.fresh := rfl
@[simp] theorem State.modQuad_stamp (k : Nat) (f : Quad → Quad) : (s.modQuad k f).stamp = s.stamp := rfl
@[simp] theorem State.modQuad_mem (k : Nat) (f : Quad → Quad) : (s.modQuad k f).mem = s.mem := rfl
@[simp] theorem State.modQuad_mpois (k : Nat) (f : Quad → Quad) : (s.modQuad k f).mpois = s.mpois := rfl
@[simp] theorem State.modQuad_host (k : Nat) (f : Quad → Quad) : (s.modQuad k f).host = s.host := rfl
@[simp] theorem State.modQuad_homes (k : Nat) (f : Quad → Quad) : (s.modQuad k f).homes = s.homes := rfl
@[simp] theorem State.modQuad_homeQ (k : Nat) (f : Quad → Quad) : (s.modQuad k f).homeQ = s.homeQ := rfl
@[simp] theorem State.modQuad_l2 (k : Nat) (f : Quad → Quad) : (s.modQuad k f).l2 = s.l2 := rfl
@[simp] theorem State.modQuad_net (k : Nat) (f : Quad → Quad) : (s.modQuad k f).net = s.net := rfl
@[simp] theorem State.modQuad_apron (k : Nat) (f : Quad → Quad) : (s.modQuad k f).apron = s.apron := rfl
@[simp] theorem State.modQuad_vclocks (k : Nat) (f : Quad → Quad) : (s.modQuad k f).vclocks = s.vclocks := rfl
@[simp] theorem State.modQuad_groups (k : Nat) (f : Quad → Quad) : (s.modQuad k f).groups = s.groups := rfl
@[simp] theorem State.modQuad_teams (k : Nat) (f : Quad → Quad) : (s.modQuad k f).teams = s.teams := rfl
@[simp] theorem State.modQuad_launches (k : Nat) (f : Quad → Quad) : (s.modQuad k f).launches = s.launches := rfl
@[simp] theorem State.modQuad_cores (k : Nat) (f : Quad → Quad) : (s.modQuad k f).cores = s.cores := rfl
@[simp] theorem State.modQuad_clusters (k : Nat) (f : Quad → Quad) : (s.modQuad k f).clusters = s.clusters := rfl
@[simp] theorem State.modQuad_gangs (k : Nat) (f : Quad → Quad) : (s.modQuad k f).gangs = s.gangs := rfl
@[simp] theorem State.modQuad_engines (k : Nat) (f : Quad → Quad) : (s.modQuad k f).engines = s.engines := rfl
@[simp] theorem State.modQuad_ctxs (k : Nat) (f : Quad → Quad) : (s.modQuad k f).ctxs = s.ctxs := rfl
@[simp] theorem State.modQuad_mlogs (k : Nat) (f : Quad → Quad) : (s.modQuad k f).mlogs = s.mlogs := rfl
@[simp] theorem State.modQuad_sleeve (k : Nat) (f : Quad → Quad) : (s.modQuad k f).sleeve = s.sleeve := rfl
@[simp] theorem State.modQuad_outbox (k : Nat) (f : Quad → Quad) : (s.modQuad k f).outbox = s.outbox := rfl
@[simp] theorem State.modQuad_recQ (k : Nat) (f : Quad → Quad) : (s.modQuad k f).recQ = s.recQ := rfl
@[simp] theorem State.modQuad_fabric (k : Nat) (f : Quad → Quad) : (s.modQuad k f).fabric = s.fabric := rfl
@[simp] theorem State.modQuad_thresh (k : Nat) (f : Quad → Quad) : (s.modQuad k f).thresh = s.thresh := rfl
@[simp] theorem State.modQuad_counts (k : Nat) (f : Quad → Quad) : (s.modQuad k f).counts = s.counts := rfl
@[simp] theorem State.modQuad_spillMiB (k : Nat) (f : Quad → Quad) : (s.modQuad k f).spillMiB = s.spillMiB := rfl
@[simp] theorem State.modQuad_devMode (k : Nat) (f : Quad → Quad) : (s.modQuad k f).devMode = s.devMode := rfl
@[simp] theorem State.modQuad_keys (k : Nat) (f : Quad → Quad) : (s.modQuad k f).keys = s.keys := rfl
@[simp] theorem State.modQuad_confid (k : Nat) (f : Quad → Quad) : (s.modQuad k f).confid = s.confid := rfl
@[simp] theorem State.modQuad_rings (k : Nat) (f : Quad → Quad) : (s.modQuad k f).rings = s.rings := rfl
@[simp] theorem State.modQuad_lastPos (k : Nat) (f : Quad → Quad) : (s.modQuad k f).lastPos = s.lastPos := rfl
@[simp] theorem State.modQuad_nextKid (k : Nat) (f : Quad → Quad) : (s.modQuad k f).nextKid = s.nextKid := rfl
@[simp] theorem State.modQuad_fullAt (k : Nat) (f : Quad → Quad) : (s.modQuad k f).fullAt = s.fullAt := rfl
@[simp] theorem State.modQuad_decayed (k : Nat) (f : Quad → Quad) : (s.modQuad k f).decayed = s.decayed := rfl
@[simp] theorem State.modQuad_ready (k : Nat) (f : Quad → Quad) : (s.modQuad k f).ready = s.ready := rfl
@[simp] theorem State.modQuad_fail (k : Nat) (f : Quad → Quad) : (s.modQuad k f).fail = s.fail := rfl
@[simp] theorem State.modQuad_fcode (k : Nat) (f : Quad → Quad) : (s.modQuad k f).fcode = s.fcode := rfl
@[simp] theorem State.modQuad_phase (k : Nat) (f : Quad → Quad) : (s.modQuad k f).phase = s.phase := rfl
@[simp] theorem State.modQuad_confreq (k : Nat) (f : Quad → Quad) : (s.modQuad k f).confreq = s.confreq := rfl
@[simp] theorem State.modQuad_cap (k : Nat) (f : Quad → Quad) : (s.modQuad k f).cap = s.cap := rfl
@[simp] theorem State.modQuad_capOn (k : Nat) (f : Quad → Quad) : (s.modQuad k f).capOn = s.capOn := rfl
@[simp] theorem State.modQuad_modw (k : Nat) (f : Quad → Quad) : (s.modQuad k f).modw = s.modw := rfl
@[simp] theorem State.modQuad_tmax (k : Nat) (f : Quad → Quad) : (s.modQuad k f).tmax = s.tmax := rfl
@[simp] theorem State.modQuad_steps (k : Nat) (f : Quad → Quad) : (s.modQuad k f).steps = s.steps := rfl
@[simp] theorem State.modQuad_duty (k : Nat) (f : Quad → Quad) : (s.modQuad k f).duty = s.duty := rfl
@[simp] theorem State.modQuad_store (k : Nat) (f : Quad → Quad) : (s.modQuad k f).store = s.store := rfl
@[simp] theorem State.modQuad_inForce (k : Nat) (f : Quad → Quad) : (s.modQuad k f).inForce = s.inForce := rfl
@[simp] theorem State.modQuad_locked (k : Nat) (f : Quad → Quad) : (s.modQuad k f).locked = s.locked := rfl
@[simp] theorem State.modQuad_serial (k : Nat) (f : Quad → Quad) : (s.modQuad k f).serial = s.serial := rfl
@[simp] theorem State.modQuad_fw (k : Nat) (f : Quad → Quad) : (s.modQuad k f).fw = s.fw := rfl
@[simp] theorem State.modQuad_fwVer (k : Nat) (f : Quad → Quad) : (s.modQuad k f).fwVer = s.fwVer := rfl
@[simp] theorem State.modQuad_fwSig (k : Nat) (f : Quad → Quad) : (s.modQuad k f).fwSig = s.fwSig := rfl
@[simp] theorem State.modQuad_sessions (k : Nat) (f : Quad → Quad) : (s.modQuad k f).sessions = s.sessions := rfl
@[simp] theorem State.modQuad_ide (k : Nat) (f : Quad → Quad) : (s.modQuad k f).ide = s.ide := rfl
@[simp] theorem State.modQuad_walkPtrs (k : Nat) (f : Quad → Quad) : (s.modQuad k f).walkPtrs = s.walkPtrs := rfl
@[simp] theorem State.modQuad_healthSeq (k : Nat) (f : Quad → Quad) : (s.modQuad k f).healthSeq = s.healthSeq := rfl
@[simp] theorem State.modQuad_suspects (k : Nat) (f : Quad → Quad) : (s.modQuad k f).suspects = s.suspects := rfl
@[simp] theorem State.modQuad_ringsShut (k : Nat) (f : Quad → Quad) : (s.modQuad k f).ringsShut = s.ringsShut := rfl
@[simp] theorem State.modQuad_ports (k : Nat) (f : Quad → Quad) : (s.modQuad k f).ports = s.ports := rfl
@[simp] theorem State.modQuad_pins (k : Nat) (f : Quad → Quad) : (s.modQuad k f).pins = s.pins := rfl
@[simp] theorem State.modQuad_colFirst (k : Nat) (f : Quad → Quad) : (s.modQuad k f).colFirst = s.colFirst := rfl
@[simp] theorem State.modQuad_pausedTo (k : Nat) (f : Quad → Quad) : (s.modQuad k f).pausedTo = s.pausedTo := rfl

/-! ## modGang -/

@[simp] theorem State.modGang_agenda (k : Nat) (f : Gang → Gang) : (s.modGang k f).agenda = s.agenda := rfl
@[simp] theorem State.modGang_cur (k : Nat) (f : Gang → Gang) : (s.modGang k f).cur = s.cur := rfl
@[simp] theorem State.modGang_cycle (k : Nat) (f : Gang → Gang) : (s.modGang k f).cycle = s.cycle := rfl
@[simp] theorem State.modGang_clk (k : Nat) (f : Gang → Gang) : (s.modGang k f).clk = s.clk := rfl
@[simp] theorem State.modGang_env (k : Nat) (f : Gang → Gang) : (s.modGang k f).env = s.env := rfl
@[simp] theorem State.modGang_fresh (k : Nat) (f : Gang → Gang) : (s.modGang k f).fresh = s.fresh := rfl
@[simp] theorem State.modGang_stamp (k : Nat) (f : Gang → Gang) : (s.modGang k f).stamp = s.stamp := rfl
@[simp] theorem State.modGang_mem (k : Nat) (f : Gang → Gang) : (s.modGang k f).mem = s.mem := rfl
@[simp] theorem State.modGang_mpois (k : Nat) (f : Gang → Gang) : (s.modGang k f).mpois = s.mpois := rfl
@[simp] theorem State.modGang_host (k : Nat) (f : Gang → Gang) : (s.modGang k f).host = s.host := rfl
@[simp] theorem State.modGang_homes (k : Nat) (f : Gang → Gang) : (s.modGang k f).homes = s.homes := rfl
@[simp] theorem State.modGang_homeQ (k : Nat) (f : Gang → Gang) : (s.modGang k f).homeQ = s.homeQ := rfl
@[simp] theorem State.modGang_l2 (k : Nat) (f : Gang → Gang) : (s.modGang k f).l2 = s.l2 := rfl
@[simp] theorem State.modGang_net (k : Nat) (f : Gang → Gang) : (s.modGang k f).net = s.net := rfl
@[simp] theorem State.modGang_apron (k : Nat) (f : Gang → Gang) : (s.modGang k f).apron = s.apron := rfl
@[simp] theorem State.modGang_vclocks (k : Nat) (f : Gang → Gang) : (s.modGang k f).vclocks = s.vclocks := rfl
@[simp] theorem State.modGang_groups (k : Nat) (f : Gang → Gang) : (s.modGang k f).groups = s.groups := rfl
@[simp] theorem State.modGang_teams (k : Nat) (f : Gang → Gang) : (s.modGang k f).teams = s.teams := rfl
@[simp] theorem State.modGang_launches (k : Nat) (f : Gang → Gang) : (s.modGang k f).launches = s.launches := rfl
@[simp] theorem State.modGang_cores (k : Nat) (f : Gang → Gang) : (s.modGang k f).cores = s.cores := rfl
@[simp] theorem State.modGang_clusters (k : Nat) (f : Gang → Gang) : (s.modGang k f).clusters = s.clusters := rfl
@[simp] theorem State.modGang_quads (k : Nat) (f : Gang → Gang) : (s.modGang k f).quads = s.quads := rfl
@[simp] theorem State.modGang_engines (k : Nat) (f : Gang → Gang) : (s.modGang k f).engines = s.engines := rfl
@[simp] theorem State.modGang_ctxs (k : Nat) (f : Gang → Gang) : (s.modGang k f).ctxs = s.ctxs := rfl
@[simp] theorem State.modGang_mlogs (k : Nat) (f : Gang → Gang) : (s.modGang k f).mlogs = s.mlogs := rfl
@[simp] theorem State.modGang_sleeve (k : Nat) (f : Gang → Gang) : (s.modGang k f).sleeve = s.sleeve := rfl
@[simp] theorem State.modGang_outbox (k : Nat) (f : Gang → Gang) : (s.modGang k f).outbox = s.outbox := rfl
@[simp] theorem State.modGang_recQ (k : Nat) (f : Gang → Gang) : (s.modGang k f).recQ = s.recQ := rfl
@[simp] theorem State.modGang_fabric (k : Nat) (f : Gang → Gang) : (s.modGang k f).fabric = s.fabric := rfl
@[simp] theorem State.modGang_thresh (k : Nat) (f : Gang → Gang) : (s.modGang k f).thresh = s.thresh := rfl
@[simp] theorem State.modGang_counts (k : Nat) (f : Gang → Gang) : (s.modGang k f).counts = s.counts := rfl
@[simp] theorem State.modGang_spillMiB (k : Nat) (f : Gang → Gang) : (s.modGang k f).spillMiB = s.spillMiB := rfl
@[simp] theorem State.modGang_devMode (k : Nat) (f : Gang → Gang) : (s.modGang k f).devMode = s.devMode := rfl
@[simp] theorem State.modGang_keys (k : Nat) (f : Gang → Gang) : (s.modGang k f).keys = s.keys := rfl
@[simp] theorem State.modGang_confid (k : Nat) (f : Gang → Gang) : (s.modGang k f).confid = s.confid := rfl
@[simp] theorem State.modGang_rings (k : Nat) (f : Gang → Gang) : (s.modGang k f).rings = s.rings := rfl
@[simp] theorem State.modGang_lastPos (k : Nat) (f : Gang → Gang) : (s.modGang k f).lastPos = s.lastPos := rfl
@[simp] theorem State.modGang_nextKid (k : Nat) (f : Gang → Gang) : (s.modGang k f).nextKid = s.nextKid := rfl
@[simp] theorem State.modGang_fullAt (k : Nat) (f : Gang → Gang) : (s.modGang k f).fullAt = s.fullAt := rfl
@[simp] theorem State.modGang_decayed (k : Nat) (f : Gang → Gang) : (s.modGang k f).decayed = s.decayed := rfl
@[simp] theorem State.modGang_ready (k : Nat) (f : Gang → Gang) : (s.modGang k f).ready = s.ready := rfl
@[simp] theorem State.modGang_fail (k : Nat) (f : Gang → Gang) : (s.modGang k f).fail = s.fail := rfl
@[simp] theorem State.modGang_fcode (k : Nat) (f : Gang → Gang) : (s.modGang k f).fcode = s.fcode := rfl
@[simp] theorem State.modGang_phase (k : Nat) (f : Gang → Gang) : (s.modGang k f).phase = s.phase := rfl
@[simp] theorem State.modGang_confreq (k : Nat) (f : Gang → Gang) : (s.modGang k f).confreq = s.confreq := rfl
@[simp] theorem State.modGang_cap (k : Nat) (f : Gang → Gang) : (s.modGang k f).cap = s.cap := rfl
@[simp] theorem State.modGang_capOn (k : Nat) (f : Gang → Gang) : (s.modGang k f).capOn = s.capOn := rfl
@[simp] theorem State.modGang_modw (k : Nat) (f : Gang → Gang) : (s.modGang k f).modw = s.modw := rfl
@[simp] theorem State.modGang_tmax (k : Nat) (f : Gang → Gang) : (s.modGang k f).tmax = s.tmax := rfl
@[simp] theorem State.modGang_steps (k : Nat) (f : Gang → Gang) : (s.modGang k f).steps = s.steps := rfl
@[simp] theorem State.modGang_duty (k : Nat) (f : Gang → Gang) : (s.modGang k f).duty = s.duty := rfl
@[simp] theorem State.modGang_store (k : Nat) (f : Gang → Gang) : (s.modGang k f).store = s.store := rfl
@[simp] theorem State.modGang_inForce (k : Nat) (f : Gang → Gang) : (s.modGang k f).inForce = s.inForce := rfl
@[simp] theorem State.modGang_locked (k : Nat) (f : Gang → Gang) : (s.modGang k f).locked = s.locked := rfl
@[simp] theorem State.modGang_serial (k : Nat) (f : Gang → Gang) : (s.modGang k f).serial = s.serial := rfl
@[simp] theorem State.modGang_fw (k : Nat) (f : Gang → Gang) : (s.modGang k f).fw = s.fw := rfl
@[simp] theorem State.modGang_fwVer (k : Nat) (f : Gang → Gang) : (s.modGang k f).fwVer = s.fwVer := rfl
@[simp] theorem State.modGang_fwSig (k : Nat) (f : Gang → Gang) : (s.modGang k f).fwSig = s.fwSig := rfl
@[simp] theorem State.modGang_sessions (k : Nat) (f : Gang → Gang) : (s.modGang k f).sessions = s.sessions := rfl
@[simp] theorem State.modGang_ide (k : Nat) (f : Gang → Gang) : (s.modGang k f).ide = s.ide := rfl
@[simp] theorem State.modGang_walkPtrs (k : Nat) (f : Gang → Gang) : (s.modGang k f).walkPtrs = s.walkPtrs := rfl
@[simp] theorem State.modGang_healthSeq (k : Nat) (f : Gang → Gang) : (s.modGang k f).healthSeq = s.healthSeq := rfl
@[simp] theorem State.modGang_suspects (k : Nat) (f : Gang → Gang) : (s.modGang k f).suspects = s.suspects := rfl
@[simp] theorem State.modGang_ringsShut (k : Nat) (f : Gang → Gang) : (s.modGang k f).ringsShut = s.ringsShut := rfl
@[simp] theorem State.modGang_ports (k : Nat) (f : Gang → Gang) : (s.modGang k f).ports = s.ports := rfl
@[simp] theorem State.modGang_pins (k : Nat) (f : Gang → Gang) : (s.modGang k f).pins = s.pins := rfl
@[simp] theorem State.modGang_colFirst (k : Nat) (f : Gang → Gang) : (s.modGang k f).colFirst = s.colFirst := rfl
@[simp] theorem State.modGang_pausedTo (k : Nat) (f : Gang → Gang) : (s.modGang k f).pausedTo = s.pausedTo := rfl

/-! ## Members after an update -/

theorem State.group_modGroup (k j : Nat) (f : Group → Group) :
    (s.modGroup k f).group j = if k = j ∧ (kvGet s.groups k).isSome then f (s.group j) else s.group j := by
  unfold State.group State.modGroup
  simp only [kvGet_kvMod]
  by_cases e : k = j
  · subst e
    cases h : kvGet s.groups k <;> simp [h]
  · simp [e]

theorem State.group_modGroup_self {k : Nat} (h : (kvGet s.groups k).isSome) (f : Group → Group) :
    (s.modGroup k f).group k = f (s.group k) := by simp [State.group_modGroup, h]

theorem State.group_modGroup_ne {k j : Nat} (h : k ≠ j) (f : Group → Group) : (s.modGroup k f).group j = s.group j := by
  simp [State.group_modGroup, h]

@[simp] theorem State.isSome_modGroup (k j : Nat) (f : Group → Group) :
    (kvGet (s.modGroup k f).groups j).isSome = (kvGet s.groups j).isSome := by
  unfold State.modGroup
  simp only [kvGet_kvMod]
  split
  · subst_vars; simp
  · rfl

theorem State.modGroup_modGroup (k : Nat) (f g : Group → Group) :
    (s.modGroup k f).modGroup k g = s.modGroup k (fun x => g (f x)) := by
  simp only [State.modGroup, kvMod_kvMod]

theorem State.team_modTeam (k j : Nat) (f : Team → Team) :
    (s.modTeam k f).team j = if k = j ∧ (kvGet s.teams k).isSome then f (s.team j) else s.team j := by
  unfold State.team State.modTeam
  simp only [kvGet_kvMod]
  by_cases e : k = j
  · subst e
    cases h : kvGet s.teams k <;> simp [h]
  · simp [e]

theorem State.core_modCore (k j : Nat) (f : Core → Core) :
    (s.modCore k f).core j = if k = j then f (s.core k) else s.core j := by
  show ((kvGet (kvSet s.cores k (f (s.core k))) j).getD Core.reset) = _
  rw [kvGet_kvSet]
  split <;> rfl

theorem State.quad_modQuad (k j : Nat) (f : Quad → Quad) :
    (s.modQuad k f).quad j = if k = j then f (s.quad k) else s.quad j := by
  show ((kvGet (kvSet s.quads k (f (s.quad k))) j).getD Quad.reset) = _
  rw [kvGet_kvSet]
  split <;> rfl

theorem State.cluster_modCluster (k j : Nat) (f : Cluster → Cluster) :
    (s.modCluster k f).cluster j = if k = j then f (s.cluster k) else s.cluster j := by
  show ((kvGet (kvSet s.clusters k (f (s.cluster k))) j).getD (Cluster.reset j)) = _
  rw [kvGet_kvSet]
  split <;> rfl

theorem State.ctx_modCtx (k j : Nat) (f : Ctx → Ctx) :
    (s.modCtx k f).ctx j = if k = j then f (s.ctx k) else s.ctx j := by
  show ((kvGet (kvSet s.ctxs k (f (s.ctx k))) j).getD Ctx.reset) = _
  rw [kvGet_kvSet]
  split <;> rfl

end Sys2Proof.Machine
end

