-- ==== Sys2Proof/Laws/Memory.lean ====
section
/-!
SUPPORT. The laws of the memories: a read after a write, the bytes that a write leaves alone, and the canonical form that every write
keeps.
-/
namespace Sys2Proof.Machine
open Sys2Proof

/-! ## Lists of cells -/

/-- The byte read after one byte is written. -/
theorem cellsSet_read (m : List Host.Cell) (a : Nat) (b : Byte) (j : Nat) :
    kvGetD memDefault (cellsSet m a b) j = if a = j then b else kvGetD memDefault m j := kvGetD_kvPut memDefault m a j b

theorem cellsSet_wf {m : List Host.Cell} (h : Memory.wf m = true) (a : Nat) (b : Byte) : Memory.wf (cellsSet m a b) = true :=
  kvWf_kvPut h a b

/-- Below what is written nothing changes. -/
theorem cellsWrite_read_below (bs : List Byte) (m : List Host.Cell) (a j : Nat) (h : j < a) :
    kvGetD memDefault (cellsWrite m a bs) j = kvGetD memDefault m j := by
  induction bs generalizing m a with
  | nil => rfl
  | cons b bs ih => rw [cellsWrite, ih _ _ (by omega), cellsSet_read, if_neg (by omega)]

/-- The byte read after bytes are written: the one written there, or the one that was there. -/
theorem cellsWrite_read (bs : List Byte) (m : List Host.Cell) (a j : Nat) :
    kvGetD memDefault (cellsWrite m a bs) j
      = if a ≤ j ∧ j < a + bs.length then bs.getD (j - a) 0 else kvGetD memDefault m j := by
  induction bs generalizing m a with
  | nil => rw [if_neg (by simp; try omega)]; rfl
  | cons b bs ih =>
    rw [cellsWrite, ih, cellsSet_read]
    by_cases e : a = j
    · subst e
      rw [if_neg (by omega), if_pos rfl, if_pos (by simp), Nat.sub_self, List.getD_cons_zero]
    · rw [if_neg e]
      by_cases hj : a ≤ j ∧ j < a + (b :: bs).length
      · rw [if_pos hj, if_pos (by simp at hj ⊢; omega), show j - a = (j - (a + 1)) + 1 by omega, List.getD_cons_succ]
      · rw [if_neg hj, if_neg (by simp at hj ⊢; omega)]

theorem cellsWrite_wf {m : List Host.Cell} (h : Memory.wf m = true) (a : Nat) (bs : List Byte) : Memory.wf (cellsWrite m a bs) = true := by
  induction bs generalizing m a with
  | nil => exact h
  | cons b bs ih => exact ih (cellsSet_wf h a b) (a + 1)

/-! ## Device memory -/

theorem State.memWrite_memByte (s : State) (pa : Nat) (bs : List Byte) (p : Bool) (j : Nat) :
    (s.memWrite pa bs p).memByte j = if pa ≤ j ∧ j < pa + bs.length then bs.getD (j - pa) 0 else s.memByte j := by
  unfold State.memWrite State.memByte
  split
  · rename_i h; rw [List.isEmpty_iff.mp h, if_neg (by simp; try omega)]
  · exact cellsWrite_read bs s.mem pa j

/-- A read of n bytes: n bytes, and those of two reads one after the other. -/
@[simp] theorem State.memRead_length (s : State) (pa n : Nat) : (s.memRead pa n).length = n := by simp [State.memRead]

theorem State.memRead_add (s : State) (pa m n : Nat) : s.memRead pa (m + n) = s.memRead pa m ++ s.memRead (pa + m) n := by
  simp only [State.memRead, List.range_add, List.map_append, List.map_map]
  congr 1
  exact List.map_congr_left (fun i _ => by simp [Nat.add_assoc])

/-- A read depends on the bytes of its span. -/
theorem State.memRead_congr {s t : State} {pa n : Nat} (h : ∀ i, i < n → s.memByte (pa + i) = t.memByte (pa + i)) :
    s.memRead pa n = t.memRead pa n := List.map_congr_left (fun i hi => h i (List.mem_range.mp hi))

/-- A read after a write of the same span. -/
theorem State.memRead_memWrite (s : State) (pa : Nat) (bs : List Byte) (p : Bool) : (s.memWrite pa bs p).memRead pa bs.length = bs := by
  refine List.ext_getElem (by simp) (fun i h₁ h₂ => ?_)
  simp only [State.memRead, List.getElem_map, List.getElem_range, State.memWrite_memByte]
  rw [if_pos (by omega), Nat.add_sub_cancel_left, List.getD_eq_getElem?_getD, List.getElem?_eq_getElem h₂, Option.getD_some]

/-- A read of a span that a write does not meet. -/
theorem State.memRead_memWrite_ne (s : State) (pa a n : Nat) (bs : List Byte) (p : Bool) (h : a + n ≤ pa ∨ pa + bs.length ≤ a) :
    (s.memWrite pa bs p).memRead a n = s.memRead a n :=
  State.memRead_congr (fun i hi => by rw [State.memWrite_memByte, if_neg (by omega)])

theorem State.memWrite_memoryWf {s : State} (h : s.memoryWf) (pa : Nat) (bs : List Byte) (p : Bool) : (s.memWrite pa bs p).memoryWf := by
  unfold State.memWrite
  split
  · exact h
  · exact ⟨cellsWrite_wf h.1 pa bs, h.2⟩

/-! ## Host memory -/

theorem State.hostWrite_hostByte (s : State) (a : Nat) (bs : List Byte) (j : Nat) :
    (s.hostWrite a bs).hostByte j = if a ≤ j ∧ j < a + bs.length then bs.getD (j - a) 0 else s.hostByte j := cellsWrite_read bs s.host a j

theorem State.hostRead_hostWrite (s : State) (a : Nat) (bs : List Byte) : (s.hostWrite a bs).hostRead a bs.length = bs := by
  refine List.ext_getElem (by simp [State.hostRead]) (fun i h₁ h₂ => ?_)
  simp only [State.hostRead, List.getElem_map, List.getElem_range, State.hostWrite_hostByte]
  rw [if_pos (by omega), Nat.add_sub_cancel_left, List.getD_eq_getElem?_getD, List.getElem?_eq_getElem h₂, Option.getD_some]

theorem State.hostWrite_memoryWf {s : State} (h : s.memoryWf) (a : Nat) (bs : List Byte) : (s.hostWrite a bs).memoryWf :=
  ⟨h.1, cellsWrite_wf h.2 a bs⟩

/-! ## The writes of the home -/

/-- What each step of a fold keeps, the fold keeps. -/
theorem foldl_keeps {α : Type} {P : State → Prop} {f : State → α → State} (hf : ∀ s a, P s → P (f s a)) (l : List α) {s : State} (h : P s) :
    P (l.foldl f s) := by
  induction l generalizing s with
  | nil => exact h
  | cons a l ih => exact ih (hf s a h)

/-- The bookkeeping of L2 changes no byte. -/
theorem State.poisonLine_mem (s : State) (line : Nat) : (s.poisonLine line).mem = s.mem ∧ (s.poisonLine line).host = s.host := ⟨rfl, rfl⟩

theorem State.l2Room_mem (s : State) (line : Nat) : (s.l2Room line).mem = s.mem ∧ (s.l2Room line).host = s.host := by
  unfold State.l2Room
  dsimp only
  split
  · exact ⟨rfl, rfl⟩
  · split <;> exact ⟨rfl, rfl⟩

theorem State.l2Check_mem (s : State) (line : Nat) : (s.l2Check line).mem = s.mem ∧ (s.l2Check line).host = s.host := by
  unfold State.l2Check
  dsimp only
  split
  · split
    · exact ⟨rfl, rfl⟩
    · split <;> exact ⟨rfl, rfl⟩
  · exact ⟨rfl, rfl⟩

theorem State.l2Touch_mem (s : State) (line : Nat) (u : L2Use) : (s.l2Touch line u).mem = s.mem ∧ (s.l2Touch line u).host = s.host := by
  unfold State.l2Touch
  split
  · exact ⟨rfl, rfl⟩
  · exact s.l2Check_mem line
  · exact s.l2Check_mem line
  · exact s.l2Room_mem line

theorem State.l2Dirty_mem (s : State) (line : Nat) : (s.l2Dirty line).mem = s.mem ∧ (s.l2Dirty line).host = s.host := ⟨rfl, rfl⟩
theorem State.l2Seal_mem (s : State) (line : Nat) : (s.l2Seal line).mem = s.mem ∧ (s.l2Seal line).host = s.host := ⟨rfl, rfl⟩

/-- What leaves the bytes of both memories alone keeps their form. -/
theorem State.memoryWf_of_mem {s t : State} (e : t.mem = s.mem ∧ t.host = s.host) (h : s.memoryWf) : t.memoryWf := by
  unfold State.memoryWf; rw [e.1, e.2]; exact h

/-- A fold of steps that leave the bytes alone leaves them alone. -/
theorem foldl_mem {α : Type} {f : State → α → State} (hf : ∀ s a, (f s a).mem = s.mem ∧ (f s a).host = s.host) (l : List α) (s : State) :
    (l.foldl f s).mem = s.mem ∧ (l.foldl f s).host = s.host := by
  induction l generalizing s with
  | nil => exact ⟨rfl, rfl⟩
  | cons a l ih => exact ⟨(ih _).1.trans (hf s a).1, (ih _).2.trans (hf s a).2⟩

theorem State.l2Open_mem (u : L2Use) (s : State) (l : Nat) :
    ((s.l2Touch l u).l2Dirty l).mem = s.mem ∧ ((s.l2Touch l u).l2Dirty l).host = s.host := s.l2Touch_mem l u

theorem State.plainWrite_memoryWf {s : State} (h : s.memoryWf) (pa : Nat) (bs : List Byte) (p : Bool) (u : L2Use) :
    (s.plainWrite pa bs p u).memoryWf := by
  unfold State.plainWrite
  dsimp only
  refine State.memoryWf_of_mem (foldl_mem (fun s l => s.l2Seal_mem l) _ _) (State.memWrite_memoryWf ?_ pa bs p)
  exact State.memoryWf_of_mem (foldl_mem (State.l2Open_mem u) _ _) h

/-- The bytes after an ordinary write at the home. -/
theorem State.plainWrite_memByte (s : State) (pa : Nat) (bs : List Byte) (p : Bool) (u : L2Use) (j : Nat) :
    (s.plainWrite pa bs p u).memByte j = if pa ≤ j ∧ j < pa + bs.length then bs.getD (j - pa) 0 else s.memByte j := by
  have same : ∀ s t : State, t.mem = s.mem → t.memByte j = s.memByte j := fun s t e => by unfold State.memByte; rw [e]
  unfold State.plainWrite
  dsimp only
  rw [same _ _ (foldl_mem (fun s l => s.l2Seal_mem l) _ _).1, State.memWrite_memByte, same _ _ (foldl_mem (State.l2Open_mem u) _ s).1]

theorem State.discardBytes_memoryWf {s : State} (h : s.memoryWf) (line : Nat) (b : Backing) : (s.discardBytes line b).memoryWf := by
  unfold State.discardBytes
  exact foldl_keeps (P := State.memoryWf) (fun _ c hs => State.memWrite_memoryWf hs _ _ _) _ h

/-- A line that nothing concerns needs no settling; with no update-only state on the device none does. -/
theorem State.settle_of_plain {s : State} {line : Nat} (h : s.linePlain line = true) : s.settle line = s := by
  unfold State.settle; rw [if_pos h]

theorem State.linePlain_of_quiet {s : State} (hh : s.homes = []) (hn : s.net = []) (hq : s.homeQ = []) (line : Nat) :
    s.linePlain line = true := by
  simp [State.linePlain, State.waitsFor, hh, hn, hq]

/-- A read at the home of a device without update-only state and with nothing in L2 changes nothing. -/
theorem homeRead_quiet {s : State} (hh : s.homes = []) (hn : s.net = []) (hq : s.homeQ = []) (h2 : s.l2 = []) {pa : Nat}
    (hm : s.inMap pa = true) (n : Nat) : homeRead s pa n = (⟨s.memRead pa n, s.memPois pa n⟩, s) := by
  have h : ∀ ls : List Nat, ls.foldl (fun s l => (s.settle l).l2Touch l .hit) s = s := fun ls => by
    induction ls with
    | nil => rfl
    | cons l ls ih =>
      rw [List.foldl_cons, State.settle_of_plain (State.linePlain_of_quiet hh hn hq l)]
      rw [show s.l2Touch l .hit = s by simp [State.l2Touch, State.l2Check, h2], ih]
  unfold homeRead
  rw [if_pos hm]
  simp only [h]

end Sys2Proof.Machine
end

