-- ==== Sys2Proof/Tests/Slice0.lean ====
section
/-!
SUPPORT. Tests: words written out from the spec's encoding tables and worked examples, ill-formed terms that each check refuses,
values that the spec's examples give, and states and operands that meet the hypotheses of the statements.
-/
set_option Elab.async false
set_option linter.unusedVariables false
set_option maxRecDepth 100000
namespace Sys2Proof.Tests
open Sys2Proof Sys2Proof.Machine Sys2Proof.Claims

/-! ## Words of the spec -/

def hd : Hdr := ⟨false, .inherit, false, 7⟩
def hpk : Hdr := ⟨true, .inherit, false, 7⟩

/-- 04: the worked words of its entries. -/
theorem test_decode_control :
    decode 0x0201_FFFF_F000_0006 0 = .ok (.bra ⟨⟨false, .inherit, false, 1⟩, .z, .z, 0, 6⟩)
    ∧ decode 0x0E03_003C_A000_0005 0x10 = .ok (.loop ⟨hd, .v 0, .int 10, 0, 5⟩ 0x10)
    ∧ decode 0x0E04_007F_F000_0014 8 = .ok (.loopw ⟨hd, .v 1, .z, 0, 0x14⟩ 8)
    ∧ decode 0x0E24_0040_50FF_C002 0 = .ok (.endl ⟨hd, .v 1, .v 5, 0, .z, 0, .s32, .rne, false, 2⟩)
    ∧ decode 0x0E20_FFFF_F0FF_C000 0 = .ok (.nop ⟨hd, .z, .z, 0, .z, 0, .s32, .rne, false, 0⟩)
    ∧ decode 0x0E25_FFFF_F0FF_C000 0 = .ok (.exit ⟨hd, .z, .z, 0, .z, 0, .s32, .rne, false, 0⟩) := by decide +kernel

/-- 05: the worked words of its entries. -/
theorem test_decode_integer :
    decode 0x0E40_00C0_4001_4188 0 = .ok (.iadd ⟨hd, .v 3, .v 4, 0, .v 5, 0, .s8, .rne, true, 0⟩)
    ∧ decode 0x0E55_0040_0000_8002 0 = .ok (.icmp ⟨hd, .v 1, .v 0, 0, .v 2, 0, .s32, .rne, false, 2⟩)
    ∧ decode 0x0EA0_017F_F0FF_FFFD 0 = .ok (.movi ⟨hd, .v 5, .z, 0, 0xFFFFFD⟩)
    ∧ decode 0x0E83_0180_1000_8003 0xD8 = .ok (.lop3 ⟨hd, .v 6, .v 1, 0, .v 2, 0, .v 3⟩ 0xD8) := by decide +kernel

/-- 06: words with a rounding mode in M and in OP (03 R108). -/
theorem test_decode_floating :
    decode 0x0EC0_00C0_1000_8210 0 = .ok (.fadd ⟨hd, .v 3, .v 1, 0, .v 2, 0, .f32, .rtz, false, 0⟩)
    ∧ decode 0x8F00_0200_2000_CC08 0 = .ok (.ffma .rne ⟨hpk, .v 8, .v 2, 0, .v 3, 3, .v 8⟩) := by decide +kernel

/-- 07: the worked words of its entries. -/
theorem test_decode_cross :
    decode 0x0F45_4100_20FF_C000 0 = .ok (.ballot ⟨hd, .s 4, .v 2, 0, .z, 0, .s32, .rne, false, 0⟩)
    ∧ decode 0x0F4B_0000_20FF_C000 0 = .ok (.rank ⟨hd, .v 0, .v 2, 0, .z, 0, .s32, .rne, false, 0⟩) := by decide +kernel

/-- 08: words with an offset word, with an AEXT word and with neither. -/
theorem test_decode_memory :
    decode 0x8F60_0190_80FF_C011 0x40 = .ok (.ldg ⟨hpk, .v 6, .s 8, 0, .z, .thread, .relaxed, .dflt, 2, .off 0x40⟩)
    ∧ decode 0x0F70_00C0_A001_6602 0x000F_FC40_0000_0000 =
        .ok (.atomg ⟨hd, .v 3, .v 10, 0, .v 5, .device, .acqRel, .dflt, 0, .aext 0x000F_FC40_0000_0000⟩)
    ∧ decode 0x0F75_FFC0_A001_6402 0x000F_FE06_0000_0100 =
        .ok (.red ⟨hd, .z, .v 10, 0, .v 5, .device, .release, .dflt, 0, .aext 0x000F_FE06_0000_0100⟩)
    ∧ decode 0x0F78_FFFF_F0FF_E608 0 = .ok (.fence ⟨hd, .z, .z, 0, .z, .device, .acqRel, .dflt, 1, .none⟩) := by decide +kernel

/-- 09: a mover command, a wait, a colour, a queue. -/
theorem test_decode_async :
    decode 0x0FB0_FFD1_00FF_C3FF 0 = .ok (.cpy ⟨hd, .z, .s 16, 0, .z, 0, .z⟩ 0)
    ∧ decode 0x0FB9_0051_4045_4116 0 = .ok (.bwait ⟨hd, .v 1, .s 20, 0, .s 21, 0, .s 22⟩)
    ∧ decode 0x0FBC_007C_00FF_C108 0 = .ok (.hbar ⟨hd, .v 1, .int 0, 0, .z, 0, .s 8⟩)
    ∧ decode 0x0FC0_007C_20F0_0117 0 = .ok (.qpush ⟨hd, .v 1, .int 2, 0, .int 0, 0, .s 23⟩) := by decide +kernel

/-- 10 and 11. -/
theorem test_decode_matrix_system :
    decode 0x0FD5_F03C_40FF_C3FF 0x41 = .ok (.mma ⟨hd, .int 0, .int 4, 0, .z, 0, .z⟩ 0x41)
    ∧ decode 0x0FF0_40BF_F000_0021 0 = .ok (.csrr ⟨hd, .s 2, .z, 0, 0x21⟩)
    ∧ decode 0x0FF5_FFFC_00F0_8080 0 = .ok (.regq ⟨hd, .z, .int 0, 0, .int 2, 0, .s64, .rne, false, 0⟩) := by decide +kernel

/-- 03 R122, R124: opcode 0x1FE is no instruction's. -/
theorem test_decode_unassigned : decode 0x0FFE_0000_0000_0000 0 = .ok (.unassignedOpcode hd 0x1FE 0) := by decide +kernel

/-! ## Terms that each check of the fields refuses -/

def f2z : F2 := ⟨hd, .z, .z, 0, .z, 0, .s32, .rne, false, 0⟩
def f3z : F3 := ⟨hd, .z, .z, 0, .z, 0, .z⟩
def fiz : FI := ⟨hd, .z, .z, 0, 0⟩
def fmz : FM := ⟨hd, .z, .z, 0, .z, .thread, .relaxed, .dflt, 2, .none⟩

theorem test_refuses_control : ∀ i ∈ [Instr.bra { fiz with d := .v 0 }, .loop { fiz with d := .v 4 } 1, .loop { fiz with d := .v 0 } 0,
    .loopw { fiz with d := .v 0, a := .v 1 } 1, .trap { fiz with imm := 16 }, .bkpt { fiz with imm := 0x10000 }, .waitev { fiz with d := .v 8 },
    .nop { f2z with sub := 1 }, .brx { f2z with a := .v 1 }, .endl { f2z with d := .v 0, sub := 4 }], i.wellFormed = false := by decide +kernel

theorem test_refuses_integer : ∀ i ∈ [Instr.iadd { f2z with sub := 1 }, .iadd { f2z with ty := .f32 }, .imulh { f2z with sat := true }, .iabs { f2z with ty := .n32 },
    .andB { f2z with ty := .s32 }, .shl { f2z with ty := .n64, d := .v 1 }, .popc { f2z with ty := .b32, b := .v 0 }, .bfx { f2z with ty := .s16 },
    .lea { f2z with d := .v 1 }, .icmp { f2z with d := .v 1, sub := 6 }, .sel { f2z with ty := .f32 }, .mov { f2z with ty := .b32, rnd := .rtz },
    .movToIndex { f2z with ty := .b32, sub := 1, d := .v 4 }, .movFromIndex { f2z with ty := .b32, sub := 2, a := .v 4 }, .cvti { f2z with ty := .f64 },
    .imad { f3z with a := .rsvA 0 }, .imadwS32 { f3z with d := .v 1 }, .lop3 f3z 0x100, .movi { fiz with a := .v 0 }, .movh { fiz with imm := 0x10000 },
    .plop { f2z with d := .v 0, a := .v 8, b := .v 0 }, .pmovSave { f2z with sub := 1 }, .pmovLoad { f2z with sub := 1, d := .v 0 },
    .pmovNz { f2z with sub := 2 }, .pcmp { f2z with d := .v 8 }, .psel { f2z with a := .int 3 }], i.wellFormed = false := by decide +kernel

theorem test_refuses_floating : ∀ i ∈ [Instr.fadd { f2z with ty := .s32 }, .fmin { f2z with ty := .f32, rnd := .rtz }, .fcmp { f2z with ty := .f32, d := .s 1 },
    .fclass { f2z with ty := .f16 }, .fcvt { f2z with ty := .f32, sub := 7 }, .frcp { f2z with ty := .f32, b := .v 0 }, .dadd { f2z with ty := .f64, d := .v 1 },
    .dcvt { f2z with ty := .n16 }, .hadd2 { f2z with ty := .f32 }, .fdivs { f2z with ty := .f32, a := .v 1 }, .cadd { f2z with ty := .f32, d := .v 3 },
    .ccnj { f2z with ty := .f32, sat := true }, .ffma .rne { f3z with c := .sp 0x12 }, .cfma .rne { f3z with d := .v 1 }], i.wellFormed = false := by decide +kernel

theorem test_refuses_cross : ∀ i ∈ [Instr.pick { f2z with ty := .b32, pa := 1 }, .pickFirst { f2z with ty := .b32 }, .vote { f2z with a := .v 9 }, .ballot { f2z with a := .z },
    .matchT { f2z with ty := .s8 }, .shfl { f2z with ty := .b32, sub := 4 }, .scani { f2z with ty := .f32, sub := 3 }, .redg { f2z with a := .x 0 }],
    i.wellFormed = false := by decide +kernel

theorem test_refuses_memory : ∀ i ∈ [Instr.ldg { fmz with a := .v 1 }, .stg { fmz with a := .v 0, width := 5 }, .lds { fmz with cpol := .noL1 }, .ldk { fmz with width := 5 },
    .ldc { fmz with ord := .acquire }, .ldga { fmz with scope := .device }, .stgr { fmz with scope := .thread, ord := .release },
    .atomg { fmz with width := 0, scope := .device, ext := .none }, .atoms { fmz with width := 0, scope := .device, ext := .aext 0x000FFC4000000000 },
    .casg { fmz with width := 0, scope := .device, ext := .aext 0x0000004200000000 }, .xchg { fmz with width := 4 }, .red { fmz with width := 0, d := .v 0 },
    .fence { fmz with width := 0 }, .cctlClean { fmz with width := 2 }, .pref { fmz with width := 2 }, .ldg { fmz with ext := .rsv 0 }], i.wellFormed = false := by decide +kernel

theorem test_refuses_async : ∀ i ∈ [Instr.cpy { f3z with a := .s 8 } 0, .cpy f3z 2, .cpyf { f3z with a := .v 0 }, .cpyq { f3z with b := .int 4 }, .xcpy { f3z with a := .v 0 } 32,
    .bini { f3z with d := .v 0 }, .barv { f3z with c := .int 3 }, .barx { f3z with c := .v 0 }, .bwait { f3z with d := .v 8 }, .btry { f3z with d := .v 0, c := .v 1 },
    .hbcfg { f3z with a := .int 8 }, .hbar { f3z with d := .z, a := .int 0 }, .hbara { f3z with a := .v 0 }, .hbarw { f3z with a := .int 0 }, .qini { f3z with a := .int 16 },
    .qpush { f3z with a := .int 0 }, .qpop { f3z with a := .int 0, b := .z }, .qtry { f3z with a := .int 0, b := .v 0 }, .cset { f3z with a := .v 0 },
    .sign { f3z with a := .int 16 }, .dqpush { f3z with d := .v 0, b := .v 1 }, .dqpop { f3z with d := .v 1, b := .v 0 }, .dqstl { f3z with b := .v 8 }],
    i.wellFormed = false := by decide +kernel

theorem test_refuses_matrix : ∀ i ∈ [Instr.tcfg { f3z with d := .int 16 }, .tld { f3z with d := .int 0 } 15, .tldq { f3z with d := .int 0 } 3, .tzr { f3z with d := .int 0, b := .int 7 },
    .tmov { f3z with d := .int 0 }, .mma { f3z with d := .int 0, a := .int 1 } 0x80, .mmas { f3z with d := .int 0, a := .int 1 } 0xC0, .azr { f3z with c := .int 1 },
    .azrRelease { f3z with c := .int 0 }, .ald f3z 0x100, .adrn f3z 0, .amov f3z 0xC0, .mxsc f3z, .tstat { f3z with a := .int 3 }], i.wellFormed = false := by decide +kernel

theorem test_refuses_system : ∀ i ∈ [Instr.csrr { fiz with imm := 0x12 }, .csrw { fiz with imm := 0x1010 }, .sigacc f2z, .heart { f2z with d := .v 0 }, .clkr { f2z with sub := 3 },
    .regq { f2z with a := .int 0, b := .int 1 }, .launch { f2z with a := .v 1 }, .tretResume { f2z with sub := 1 }, .tretSkip f2z, .pcls { f2z with sub := 4 },
    .errr { f2z with d := .v 8 }, .sleep { f2z with sub := 1 }, .flagsGet { f2z with sub := 1 }, .flagsSet { f2z with sub := 1 }, .kill { f2z with a := .v 0 },
    .unassignedOpcode hd 0x040 0], i.wellFormed = false := by decide +kernel

/-! ## Values that the spec's examples give -/

/-- 05 (IADD with SAT on s8): 100 + 100 clamps to 127, −100 − 100 to −128 sign-extended; 0x10 + 0x20 is 0x30. -/
theorem test_iadd_s8_sat :
    let f : F2 := { f2z with ty := .s8, sat := true }
    (specArith f (· + ·)).f [100, 100] = (0x7F, 0) ∧ (specArith f (· + ·)).f [156, 156] = (0xFFFF_FF80, 0)
      ∧ (specArith f (· + ·)).f [0x10, 0x20] = (0x30, 0) := by decide +kernel

/-- 05 R164: its four examples. -/
theorem test_bfx_examples :
    bitField true 0x8000_00F0 0x0804 = 0x0F ∧ bitField true 0x8000_00F0 0x0820 = 0xFFFF_FFFF ∧ bitField false 0x8000_00F0 0x0820 = 0
      ∧ bitField true 0x8000_00F0 0x0020 = 0 := by decide +kernel

/-- 06: frcp of 3.0 is 0x3EAA_AAAB with NX (bit 4). -/
theorem test_frcp_three : (approxFrcp (dec .f32 0x4040_0000)).out.1 = 0x3EAA_AAAB := by decide +kernel

/-- 11 R311: TCAUSE of its worked example, an ALIGN trap of thread 12 at word index 3. -/
theorem test_tcause_example : tcauseOf true 3
    { code := 0x22, kind := .thread, ridx := 12, ex := [], size := 8, addr := 0, done := false, block := false, widx := 3, desc := 0, pois := false,
      rwidx := none, rthr := none } = 0x8003_2C22 := by decide +kernel

/-- 03 R99: the check value of the descriptor code over the nine digits. -/
theorem test_crc_check_value : crc16 [0x31, 0x32, 0x33, 0x34, 0x35, 0x36, 0x37, 0x38, 0x39] = 0x29B1 := by decide +kernel

/-- 01 R29: p7 is true and keeps no write. -/
theorem test_p7 (th : Thread) : (th.setPred 7 false).pred 7 = true := by rfl

/-! ## States that meet the hypotheses of the statements -/

/-- A group of two live threads on core 0, before a NOP; its team has 64 KiB of scratch, its tenant a heap window. -/
def w0 : State :=
  ({ State.reset.withFetchWord 64 0x0E20FFFFF0FFC000 with
      agenda := [], cur := 2, ready := true, phase := 15, cycle := 100, clk := 500
      ctxs := [(0, { Ctx.reset with wen := true, wx := true, ww := true, wr := true, wlimit := 2 ^ 40 })] } : State).modGroup 2
    (fun g => { g with threads := g.threads.take 2 })

/-- w0 with the group, a thread's register, a uniform register, its team, its launch record, core 0 or quad 0 changed. -/
def wg (s : State) (f : Group → Group) : State := s.modGroup 2 f
def wv (s : State) (t n x : Nat) : State := s.modThread 2 t (fun th => { th with v := kvPut RegWord.zero th.v n ⟨BitVec.ofNat 32 x, false⟩ })
def ws (s : State) (n x : Nat) : State := wg s (fun g => { g with s := kvPut RegWord.zero g.s n ⟨BitVec.ofNat 32 x, false⟩ })
def wt (s : State) (f : Team → Team) : State := s.modTeam 1 f
def wl (s : State) (f : LaunchRec → LaunchRec) : State := s.modLaunch (s.teamOf 2).kid (fun l => { l with r := f l.r })
def wc (s : State) (f : Core → Core) : State := s.modCore 0 f
/-- Bytes placed in memory. -/
def wm (s : State) (a : Nat) (bs : List Byte) : State := { s with mem := cellsWrite s.mem a bs }
/-- A block of words in memory, behind its descriptor. -/
def block (ws : List Nat) : List Byte :=
  let bs := ws.flatMap (Word.toBytes 8)
  Word.toBytes 8 (0xB5 * 2 ^ 56 + ws.length * 2 ^ 44 + 128 * 2 ^ 36 + 32 * 2 ^ 28 + crc16 bs) ++ bs
/-- A trap of a code at the group's instruction. -/
def trapOf (s : State) (c : Nat) : Trap := Trap.atInstr c (s.issue hd 8)
def fadd : F2 := { f2z with ty := .f32, d := .v 3, a := .v 1, b := .v 2 }
def nopW : Nat := 0x0E20FFFFF0FFC000

def wq (s : State) (f : Quad → Quad) : State := s.modQuad (s.quadOfGroup 2) f
def queue1 (full slots : Nat) : State := wc w0 (fun k => { k with queues := [(0, ⟨1, 0, 0, full, 0, slots, 0⟩)] })
def deque1 (es : List (DWord × Bool)) : State := wc w0 (fun k => { k with deque := some ⟨(w0.teamOf 2).kid, es⟩ })
/-- A descriptor of a box of n bytes at a global address, as 16 words. -/
def box (ga n : Nat) : List Byte := Word.toBytes 8 ga ++ Word.toBytes 12 (0xFFFFFFFF * 2 ^ 32) ++ Word.toBytes 44 n
def move1 (ga n : Nat) (st : DescSt) (pos : Nat) : Move := { queuedMove w0 (descOf .box (box ga n)) with st := st, pos := pos }
def moving (m : Move) : State := wc w0 (fun k => { k with moves := [m] })
/-- The words of bytes in uniform registers from s0 on. -/
def wss (s : State) (bs : List Byte) : State := wg s (fun g => { g with s := (wordsOf 16 (Word.ofBytes bs)).zipIdx.foldl (fun f e => kvPut RegWord.zero f e.2 e.1) g.s })
def gX : GRes → Xlat | .ok x _ => x | _ => ⟨0, 0, 0, false, .wb, false, false, false⟩
def gPa : GRes → Nat | .ok _ p => p | _ => 0
def mVal {α : Type} (d : α) : MRes α → α | .ok a _ => a | _ => d
def mState {α : Type} : MRes α → State | .ok _ s => s | .fault _ s => s | .abort _ _ s => s | .wait => w0
def mVa {α : Type} : MRes α → Nat | .fault v _ => v | .abort _ v _ => v | _ => 0
def mCode {α : Type} : MRes α → Nat | .abort c _ _ => c | _ => 0
def cmd1 : CopyCmd := { src := 0, dst := 0x9000, len := 16, doneAt := none, doneVal := 0, dig := 0, tenant := 0, phys := true, team := none, gk := 2, id := 0, after := [] }
def res1 (ops : List MatOp) : List (Nat × Reservation) := [(0, ⟨1, 0, ops⟩)]
def tiles1 (ts : List (Nat × Tile)) : State := wq w0 (fun q => { q with tiles := ts, res := res1 [] })
def tile1 (owner rows bytes tag : Nat) : Tile := ⟨some owner, rows, bytes, tag, [], []⟩
/-- A quad whose team has two tiles of a tag and a row block of the accumulator. -/
def quad1 (tag bytesA bytesB : Nat) (ops : List MatOp) : Quad :=
  { tiles := [(0, tile1 1 64 bytesA tag), (1, tile1 1 64 bytesB tag)], acc := [], rbs := [(0, 1)], etags := [(0, 8)], res := res1 ops, conv := [], demerit := 0 }
def op1 (k : MatKind) (begun : Bool) : MatOp :=
  { id := 5, gk := 2, tok := none, at_ := 0, kind := k, begun := begun, granted := 0, inArray := [], amax := none, after := [] }
def mma1 : MmaOp := ⟨0, 1, 64, 64, 8, 8, 16, ⟨0, 0, 64, 64⟩, none, .inherit⟩
/-- A launch record: one team of one group, entered at 0x1000. -/
def rec1 : List Byte :=
  Word.toBytes 8 0x1000 ++ Word.toBytes 12 0 ++ Word.toBytes 4 1 ++ Word.toBytes 4 1 ++ Word.toBytes 4 1
    ++ Word.toBytes 4 (4 * 2 ^ 27 + 32 * 2 ^ 19 + 16 * 2 ^ 14 + 2 ^ 8) ++ Word.toBytes 12 0 ++ Word.toBytes 4 65536 ++ Word.toBytes 76 0
def line1 (st : HomeSt) (cv : List Nat) : HomeLine := ⟨st, ⟨0, .n32⟩, [], cv, [], [], none, 0, [], [], false, 0⟩
def homed (st : HomeSt) (cv : List Nat) : State := { w0 with homes := [(5, line1 st cv)] }
def readAcc : HomeAcc := .rd 2 7 320 4 (.alloc 0) [.none]
def eVal {ε α σ : Type} (d : α) (x : Except ε α × σ) : α := match x.1 with | .ok a => a | .error _ => d
def eErr {ε α σ : Type} (d : ε) (x : Except ε α × σ) : ε := match x.1 with | .ok _ => d | .error e => e
def w1 : State := (w0.submit rec1 none 0 (.ring 0 0) none).2
def placesOf : Option Next → List (Nat × List Nat) | some (.place _ p) => p | _ => []
def kid1 : Nat := (w0.teamOf 2).kid
/-- A Sleeve entry of the team that waits for a run, or has the run of a team. -/
def sleeve1 (wants : Option RunKind) (run : Option Nat) : SleeveEntry :=
  { kid := kid1, tid := 0, sigO := 0, sigR := 0, sigA := 0, coreO := 0, coreR := none, coreA := none, st := .sleeve, tainted := false, scratchDep := false,
    replayTainted := false, replayBad := false, second := false, doomed := false, notBefore := 0, wants := wants, run := run, logs := [], overs := [], endTrap := none }
def slept (wants : Option RunKind) : State := { w0 with sleeve := [(9, sleeve1 wants none)] }
/-- A launch that may pre-empt waits for the colours of every cluster. -/
def crowded : State :=
  let u := w1.modLaunch (w0.submit rec1 none 0 (.ring 0 0) none).1 (fun l => { l with r := { l.r with preempts := true, prio := 5, colours := 1 } })
  { u with gangs := (List.range Config.clusters).map (fun i => (100 + i, ⟨kid1, [1], i, List.replicate 8 Colour.reset⟩)) }
def haltedTeam : State := wt w0 (fun tm => { tm with resid := .halted, scratchSize := 64 })
def savedTeam : State := match exec (.contextSave 1) haltedTeam with | .next u => u | _ => w0
def ver1 (entry : Nat) : Version := { line := 5, kind := .original, kid := kid1, owner := 1, entry := entry, bytes := [(0, 7)], pois := [], parts := [], rel := false }
def stoppedGroup1 : State :=
  wg w0 (fun g => { g with run := .stopped, tcause := 0x80000001, stopAt := some ⟨[0, 1], 0⟩, stopSize := 8, stopCode := 0x01 })
def flit0 : Flit := { vc := 5, head := true, tail := true, trunc := false, pois := 0, cvc := 0, ccnt := 0, fcrc := 0, data := List.replicate 32 0 }
def flit1 : Flit := { flit0 with fcrc := flitCrc flit0 }
def port0 (p : Port) : State := { w0 with ports := [(0, p)] }
def chan0 (c : Channel → Channel) : List (Nat × Channel) := [(0, c (w0.chan 0 0))]
def linked : State :=
  { (wm w0 1536 [4]) with fabric := { Fabric.reset with node := 1, links := [(0, ⟨true, 2, 0⟩)], routes := [(2, ⟨true, 0⟩)], groups := [(3, ⟨true, 4⟩)] } }
def packet1 (ddev hops gen : Nat) : Packet := ⟨2, ddev, 3, gen, hops, 0, .rd 0 16⟩
def phase1 (n : Nat) : State := { State.reset with phase := n }

/-- An answer that is read off a check, as a computation that can be evaluated. -/
theorem ok_of {ε α : Type} [DecidableEq α] {e : Except ε α} {a : α} (h : (match e with | .ok b => decide (b = a) | .error _ => false) = true) :
    e = .ok a := by
  cases e with
  | ok b => exact congrArg _ (of_decide_eq_true h)
  | error b => cases h
theorem error_of {ε α : Type} [DecidableEq ε] {e : Except ε α} {a : ε} (h : (match e with | .ok _ => false | .error b => decide (b = a)) = true) :
    e = .error a := by
  cases e with
  | error b => exact congrArg _ (of_decide_eq_true h)
  | ok b => cases h
theorem mres_ok {α : Type} [DecidableEq α] {e : MRes α} {a : α} {u : State}
    (h : (match e with | .ok b v => decide (b = a ∧ v = u) | _ => false) = true) : e = .ok a u := by
  cases e with
  | ok b v => obtain ⟨h₁, h₂⟩ := of_decide_eq_true h; rw [h₁, h₂]
  | _ => cases h
theorem mres_fault {α : Type} {e : MRes α} {a : Nat} {u : State}
    (h : (match e with | .fault b v => decide (b = a ∧ v = u) | _ => false) = true) : e = .fault a u := by
  cases e with
  | fault b v => obtain ⟨h₁, h₂⟩ := of_decide_eq_true h; rw [h₁, h₂]
  | _ => cases h
theorem mres_abort {α : Type} {e : MRes α} {c a : Nat} {u : State}
    (h : (match e with | .abort d b v => decide (d = c ∧ b = a ∧ v = u) | _ => false) = true) : e = .abort c a u := by
  cases e with
  | abort d b v => obtain ⟨h₀, h₁, h₂⟩ := of_decide_eq_true h; rw [h₀, h₁, h₂]
  | _ => cases h
theorem none_all {α : Type} {o : Option α} {P : α → Prop} (h : o.isNone = true) : ∀ a, o = some a → P a := by
  intro a ha; rw [ha] at h; cases h
theorem pair_ok {ε α σ : Type} [DecidableEq α] [DecidableEq σ] {e : Except ε α × σ} {a : α} {v : σ}
    (h : (match e with | (.ok b, w) => decide (b = a ∧ w = v) | _ => false) = true) : e = (.ok a, v) := by
  obtain ⟨e, w⟩ := e
  cases e with
  | ok b => obtain ⟨h₁, h₂⟩ := of_decide_eq_true h; rw [h₁, h₂]
  | error b => cases h
theorem pair_error {ε α σ : Type} [DecidableEq ε] [DecidableEq σ] {e : Except ε α × σ} {a : ε} {v : σ}
    (h : (match e with | (.error b, w) => decide (b = a ∧ w = v) | _ => false) = true) : e = (.error a, v) := by
  obtain ⟨e, w⟩ := e
  cases e with
  | error b => obtain ⟨h₁, h₂⟩ := of_decide_eq_true h; rw [h₁, h₂]
  | ok b => cases h
theorem next_of {o : Host.Outcome State Fault Refusal} {t : State} (h : (match o with | .next v => decide (v = t) | _ => false) = true) :
    o = .next t := by
  cases o with
  | next v => exact congrArg _ (of_decide_eq_true h)
  | _ => cases h
theorem some_getD {α : Type} {o : Option α} {d : α} (h : o.isSome = true) : o = some (o.getD d) := by
  cases o with
  | some a => rfl
  | none => cases h
theorem four {a b c d e : Prop} (h : a ∧ b ∧ c ∧ d) (k : e) : a ∧ b ∧ c ∧ d ∧ e := ⟨h.1, h.2.1, h.2.2.1, h.2.2.2, k⟩

/-! ## States and operands that meet the hypotheses of the statements, one theorem for each statement -/

theorem witness_LaneInstructionsComplete : (∃ (i : Instr) (h : Hdr) (size : Nat) (sp : LaneSpec) (s : State), ((laneOf i = some (h, size, sp)) ∧
    (ready h size s = true) ∧ (sp.dst.isUniform = false) ∧ (laneClear sp s (s.issue h size) (s.issue h size).ex = true) ∧ True)) :=
  ⟨(.iadd { f2z with d := .v 3, a := .v 1, b := .v 2 }), hd, 8, _, w0, rfl, by decide +kernel⟩

theorem witness_UniformInstructionsComplete : (∃ (i : Instr) (h : Hdr) (size : Nat) (sp : LaneSpec) (o : Opnd) (k : Nat) (s : State),
    ((laneOf i = some (h, size, sp)) ∧ (ready h size s = true) ∧ (sp.dst = .reg o k) ∧ (opIsUniform o = true) ∧
    (laneClear sp s (s.issue h size) [(s.issue h size).lowest] = true) ∧ True)) :=
  ⟨(.iadd { f2z with d := .s 3, a := .s 1, b := .int 2 }), hd, 8, _, _, _, w0, rfl, by decide +kernel, rfl, by decide +kernel⟩

theorem witness_TransfersComplete : (∃ (i : Instr) (h : Hdr) (call : Bool) (g : Target) (s u : State), ((transferOf i = some (h, call, g)) ∧
    (ready h 8 s = true) ∧ (transferOk g s (s.issue h 8) = true) ∧ ((s.issue h 8).ex.all (stackOk call g (s.issue h 8) s) = true) ∧
    (transfers call g (s.issue h 8) s (s.issue h 8).ex (begun h 8 s) = some u) ∧ True)) :=
  ⟨(.brx { f2z with a := .v 2 }), hd, false, (.reg (.v 2) 0), (wm (wv (wv w0 0 2 0x3000) 1 2 0x3000) 0x3000 (block [nopW])),
      ((transfers false (.reg (.v 2) 0) ((wm (wv (wv w0 0 2 0x3000) 1 2 0x3000) 0x3000 (block [nopW])).issue hd 8) (wm (wv (wv w0 0 2 0x3000) 1 2 0x3000) 0x3000 (block [nopW])) ((wm (wv (wv w0 0 2 0x3000) 1 2 0x3000) 0x3000 (block [nopW])).issue hd 8).ex (begun hd 8 (wm (wv (wv w0 0 2 0x3000) 1 2 0x3000) 0x3000 (block [nopW])))).getD w0),
      rfl, by decide +kernel⟩

theorem witness_TransfersTrap :
    (∃ (i : Instr) (h : Hdr) (call : Bool) (g : Target) (s : State) (t : Nat) (ts : List Nat), ((transferOf i = some (h, call, g)) ∧
        (ready h 8 s = true) ∧ (transferOk g s (s.issue h 8) = true) ∧ ((s.issue h 8).ex = t :: ts) ∧ let is := s.issue h 8;
        let x := targetOf g is s t; (stackOk false g is s t = true) ∧ ((2 ^ 57 ≤ x ∨ x % 8 ≠ 0)) ∧ True))
    ∧ (∃ (i : Instr) (h : Hdr) (call : Bool) (g : Target) (s : State) (t : Nat) (ts : List Nat), ((transferOf i = some (h, call, g)) ∧
        (ready h 8 s = true) ∧ (transferOk g s (s.issue h 8) = true) ∧ ((s.issue h 8).ex = t :: ts) ∧ let is := s.issue h 8;
        let x := targetOf g is s t; let psp := ((s.group s.cur).thread t).psp.toNat; ∃ u, ((call = true) ∧ (stackOk false g is s t = true) ∧
        (checkTarget (begun h 8 s) s.cur x = (none, u)) ∧ (psp < 8) ∧ True)))
    ∧ (∃ (i : Instr) (h : Hdr) (call : Bool) (g : Target) (s : State) (t : Nat) (ts : List Nat), ((transferOf i = some (h, call, g)) ∧
        (ready h 8 s = true) ∧ (transferOk g s (s.issue h 8) = true) ∧ ((s.issue h 8).ex = t :: ts) ∧
        let psp := ((s.group s.cur).thread t).psp.toNat; (g = .stack) ∧ ((s.roleOf s.cur).pocket < psp + 8) ∧ True)) :=
  ⟨⟨(.brx { f2z with a := .v 2 }), hd, false, (.reg (.v 2) 0), (wv w0 0 2 4), 0, [1], rfl, by decide +kernel⟩,
   ⟨(.callx { f2z with a := .v 2 }), hd, true, (.reg (.v 2) 0),
       (wm (wv (wg w0 (fun g => { g with threads := g.threads.map (fun th => { th with psp := 0 }) })) 0 2 0x3000) 0x3000 (block [nopW])), 0, [1],
       rfl, by decide +kernel, by decide +kernel, by decide +kernel,
       (checkTarget (begun hd 8 (wm (wv (wg w0 (fun g => { g with threads := g.threads.map (fun th => { th with psp := 0 }) })) 0 2 0x3000) 0x3000 (block [nopW]))) 2 0x3000).2,
       by decide +kernel⟩,
   ⟨(.ret f2z), hd, false, .stack, (wg w0 (fun g => { g with threads := g.threads.map (fun th => { th with psp := 256 }) })), 0, [1], rfl,
       by decide +kernel⟩⟩

theorem witness_LoopsBegin :
    (∃ (f : FI) (fx : DWord) (s : State), ((readyOnce f.h 16 noDst [(f.a, 1)] s = true) ∧ let is := s.issue f.h 16; let body := is.w + 16;
        let count := arg f.h 16 s f.a 1; let max := Word.bits fx.toNat 31 0; ∃ ws u,
        ((spanOf (opNum f.d) f.imm false body (begun f.h 16 s) = some (ws, u)) ∧ (count ≤ max) ∧ True)))
    ∧ (∃ (f : FI) (fx : DWord) (s : State), ((readyOnce f.h 16 noDst [(f.a, 1)] s = true) ∧ let is := s.issue f.h 16; let body := is.w + 16;
        let count := arg f.h 16 s f.a 1; let max := Word.bits fx.toNat 31 0; ∃ ws u,
        ((spanOf (opNum f.d) f.imm false body (begun f.h 16 s) = some (ws, u)) ∧ (max < count) ∧ True)))
    ∧ (∃ (f : FI) (fx : DWord) (s : State), ((readyOnce f.h 16 noDst [] s = true) ∧ ∃ ws u,
        ((spanOf (opNum f.d) f.imm true ((s.issue f.h 16).w + 16) (begun f.h 16 s) = some (ws, u)) ∧ True))) :=
  ⟨⟨{ fiz with d := .v 0, a := .int 8, imm := 4 }, 8, (wm w0 0x1018 (block [nopW, 0x0E24003FF0FFC000])), by decide +kernel,
      ((spanOf 0 4 false 0x1018 (begun hd 16 (wm w0 0x1018 (block [nopW, 0x0E24003FF0FFC000])))).getD ([], w0)).1,
      ((spanOf 0 4 false 0x1018 (begun hd 16 (wm w0 0x1018 (block [nopW, 0x0E24003FF0FFC000])))).getD ([], w0)).2, by decide +kernel⟩,
   ⟨{ fiz with d := .v 0, a := .int 9, imm := 4 }, 8, (wm w0 0x1018 (block [nopW, 0x0E24003FF0FFC000])), by decide +kernel,
       ((spanOf 0 4 false 0x1018 (begun hd 16 (wm w0 0x1018 (block [nopW, 0x0E24003FF0FFC000])))).getD ([], w0)).1,
       ((spanOf 0 4 false 0x1018 (begun hd 16 (wm w0 0x1018 (block [nopW, 0x0E24003FF0FFC000])))).getD ([], w0)).2, by decide +kernel⟩,
   ⟨{ fiz with d := .v 0, imm := 4 }, 8, (wm w0 0x1018 (block [nopW, 0x0E24003FF0FFC002])), by decide +kernel,
       ((spanOf 0 4 true 0x1018 (begun hd 16 (wm w0 0x1018 (block [nopW, 0x0E24003FF0FFC002])))).getD ([], w0)).1,
       ((spanOf 0 4 true 0x1018 (begun hd 16 (wm w0 0x1018 (block [nopW, 0x0E24003FF0FFC002])))).getD ([], w0)).2, by decide +kernel, trivial⟩⟩

theorem witness_EndlDecides :
    (∃ (f : F2) (s : State), ((ready f.h 8 s = true) ∧ (loopEnds f s = false) ∧ True))
    ∧ (∃ (f : F2) (s : State), ((ready f.h 8 s = true) ∧ let is := s.issue f.h 8; let g := s.group s.cur;
        let l := g.loops.getD (opNum f.d) LoopReg.idle; let isW := f.sub.val.testBit 1;
        let leaves := fun t => exits f (g.thread t) || (l.rem == 1 && !isW); (loopEnds f s = true) ∧ ((l.rem ≠ 1 ∨ is.ex.all leaves = true)) ∧ True))
    ∧ (∃ (f : F2) (s : State), ((ready f.h 8 s = true) ∧ let is := s.issue f.h 8; let g := s.group s.cur;
        let l := g.loops.getD (opNum f.d) LoopReg.idle; let isW := f.sub.val.testBit 1; ∃ t ts, ((loopEnds f s = true) ∧ (l.rem = 1) ∧ (isW = true) ∧
        (is.ex = t :: ts) ∧ (exits f (g.thread t) = false) ∧ True))) :=
  ⟨⟨{ f2z with d := .v 0 }, w0, by decide +kernel⟩,
   ⟨{ f2z with d := .v 0 }, (wg w0 (fun g => { g with loops := g.loops.set 0 ⟨true, 1, 9, 0x1000, 2, []⟩ })), by decide +kernel⟩,
   ⟨{ f2z with d := .v 0, sub := 2 }, (wg w0 (fun g => { g with loops := g.loops.set 0 ⟨true, 1, 9, 0x1000, 2, []⟩ })), by decide +kernel, 0, [1],
       by decide +kernel⟩⟩

theorem witness_HintsAndEvents :
    (∃ (f : F2) (s : State), ((ready f.h 8 s = true) ∧ True))
    ∧ (∃ (f : FI) (s : State), ((ready f.h 8 s = true) ∧ (((s.launchOf s.cur).r.debug = false ∨ s.isRerun s.cur = true)) ∧ True))
    ∧ (∃ (f : FI) (s : State), ((ready f.h 8 s = true) ∧ ((s.launchOf s.cur).r.debug = true) ∧ (s.isRerun s.cur = false) ∧ True))
    ∧ (∃ (f : FI) (s : State), ((ready f.h 8 s = true) ∧ (unlogged s = true) ∧ ((s.group s.cur).wake = true) ∧ True))
    ∧ (∃ (f : FI) (s : State), ((ready f.h 8 s = true) ∧ (unlogged s = true) ∧ ((s.group s.cur).wake = false) ∧ (f.imm = 0) ∧ True))
    ∧ (∃ (f : FI) (s : State), ((ready f.h 8 s = true) ∧ (unlogged s = true) ∧ ((s.group s.cur).wake = false) ∧ (f.imm ≠ 0) ∧ True)) :=
  ⟨⟨f2z, w0, by decide +kernel, trivial⟩,
   ⟨fiz, w0, by decide +kernel⟩,
   ⟨fiz, (wl w0 (fun r => { r with debug := true })), by decide +kernel⟩,
   ⟨{ fiz with d := .v 1 }, (wg w0 (fun g => { g with wake := true })), by decide +kernel⟩,
   ⟨{ fiz with d := .v 1 }, w0, by decide +kernel⟩,
   ⟨{ fiz with d := .v 1, imm := 1 }, w0, by decide +kernel⟩⟩

theorem witness_ThreadsEnd : (∃ (f : F2) (s : State), ((ready f.h 8 s = true) ∧ ((s.quad (Config.quadOf (s.coreOf s.cur))).conv = []) ∧
    ((s.teamOf s.cur).regq = none) ∧ ((kvGet s.teams (s.group s.cur).team).isSome = true) ∧ True)) :=
  ⟨f2z, w0, by decide +kernel⟩

theorem witness_CsrAccess :
    (∃ (f : FI) (s : State), ((readyOnce f.h 8 (f.d, csrWords f.imm) [] s = true) ∧ ((csrNum f.imm ≠ 0x0A0 ∨ unlogged s = true)) ∧ True))
    ∧ (∃ (f : FI) (s : State), ((readyOnce f.h 8 noDst [(f.a, csrWords f.imm)] s = true) ∧ True)) :=
  ⟨⟨{ fiz with d := .v 1, imm := 0x0A0 }, w0, by decide +kernel⟩,
   ⟨{ fiz with a := .s 1, imm := 0x0A0 }, w0, by decide +kernel, trivial⟩⟩

theorem witness_SignatureAndHeart :
    (∃ (f : F2) (s : State), (((match f.a with | .v _ | .x _ => false | _ => true) = true) ∧ (readyOnce f.h 8 noDst [(f.a, tyWords f.ty)] s = true) ∧
        True))
    ∧ (∃ (f : F2) (s : State), (((match f.a with | .v _ | .x _ => true | _ => false) = true) ∧ (ready f.h 8 s = true) ∧
        ((operandCheck (s.roleOf s.cur).vregs (s.roleOf s.cur).sregs (.reg .z 1) [.reg f.a f.pa (tyWords f.ty) .w] false).isNone = true) ∧
        ((s.issue f.h 8).ex.all (fun t => !idxOut (s.roleOf s.cur).vregs ((s.group s.cur).thread t) f.a (tyWords f.ty) && !(s.source (s.issue f.h 8) t f.a f.pa (tyWords f.ty) .w).pois) = true) ∧
        True))
    ∧ (∃ (f : F2) (s : State) (tm : Team), (((match f.a with | .v _ | .x _ => true | _ => false) = true) ∧ (ready f.h 8 s = true) ∧
        ((operandCheck (s.roleOf s.cur).vregs (s.roleOf s.cur).sregs (.reg .z 1) [.reg f.a f.pa (tyWords f.ty) .w] false).isNone = true) ∧
        ((s.issue f.h 8).ex.all (fun t => !idxOut (s.roleOf s.cur).vregs ((s.group s.cur).thread t) f.a (tyWords f.ty) && !(s.source (s.issue f.h 8) t f.a f.pa (tyWords f.ty) .w).pois) = true) ∧
        (kvGet s.teams (s.group s.cur).team = some tm) ∧ ((s.launchOf s.cur).checked = true) ∧ True))
    ∧ (∃ (f : F2) (s : State), ((ready f.h 8 s = true) ∧ True)) :=
  ⟨⟨{ f2z with ty := .b32, a := .s 1 }, w0, by decide +kernel⟩,
   ⟨{ f2z with ty := .b32, a := .v 1 }, (wl w0 (fun r => { r with level := .full })), by decide +kernel⟩,
   ⟨{ f2z with ty := .b32, a := .v 1 }, (wl w0 (fun r => { r with level := .full })), ((wl w0 (fun r => { r with level := .full })).team 1),
       by decide +kernel⟩,
   ⟨f2z, w0, by decide +kernel, trivial⟩⟩

theorem witness_ClocksAndFlags :
    (∃ (f : F2) (s : State), ((readyOnce f.h 8 (f.d, if f.sub = 0 then 2 else 1) [] s = true) ∧ (unlogged s = true) ∧ True))
    ∧ (∃ (f : F2) (s : State), ((ready f.h 8 s = true) ∧ True))
    ∧ (∃ (f : F2) (s : State), ((readyOnce f.h 8 noDst [(f.b, 1)] s = true) ∧ True))
    ∧ (∃ (f : F2) (s : State), ((readyOnce f.h 8 (f.d, 1) [(f.b, 1)] s = true) ∧ True)) :=
  ⟨⟨{ f2z with d := .v 2 }, w0, by decide +kernel⟩,
   ⟨{ f2z with sub := 3 }, w0, by decide +kernel, trivial⟩,
   ⟨{ f2z with b := .int 1 }, w0, by decide +kernel, trivial⟩,
   ⟨{ f2z with d := .v 2, b := .int 31 }, w0, by decide +kernel, trivial⟩⟩

theorem witness_RendezvousAndErrors :
    (∃ (f : F2) (s : State) (tm : Team), ((ready f.h 8 s = true) ∧ (kvGet s.teams (s.group s.cur).team = some tm) ∧ let src := constVal .w f.a;
        let dst := constVal .w f.b; let n := 8 * tyCode f.ty; (s.regqBad s.cur src dst n = false) ∧ (s.releaseReady s.cur .team = true) ∧ True))
    ∧ (∃ (f : F2) (s : State) (tm : Team) (off : Nat), ((readyOnce f.h 8 noDst [(f.a, 1)] s = true) ∧ (unlogged s = true) ∧
        (kvGet s.teams (s.group s.cur).team = some tm) ∧ ((begun f.h 8 s).ownCheck (s.group s.cur).team (arg f.h 8 s f.a 1) 64 64 = .ok off) ∧ ∃ r,
        ((tm.nextRec = some r) ∧ True)))
    ∧ (∃ (f : F2) (s : State) (tm : Team) (off : Nat), ((readyOnce f.h 8 noDst [(f.a, 1)] s = true) ∧ (unlogged s = true) ∧
        (kvGet s.teams (s.group s.cur).team = some tm) ∧ ((begun f.h 8 s).ownCheck (s.group s.cur).team (arg f.h 8 s f.a 1) 64 64 = .ok off) ∧
        (tm.nextRec = none) ∧ True)) :=
  ⟨⟨{ f2z with a := .int 0, b := .int 1, ty := .n32 }, (wt w0 (fun tm => { tm with roles := [⟨128, 128, 256, 1⟩, ⟨64, 64, 0, 1⟩] })),
      ((wt w0 (fun tm => { tm with roles := [⟨128, 128, 256, 1⟩, ⟨64, 64, 0, 1⟩] })).team 1), by decide +kernel⟩,
   ⟨{ f2z with d := .v 1, a := .s 1 }, (ws (wt w0 (fun tm => { tm with recq := [ErrRec.ofTeam w0 1 recTRAP 2], unread := 1 })) 1 0xFF000040),
       ((wt w0 (fun tm => { tm with recq := [ErrRec.ofTeam w0 1 recTRAP 2], unread := 1 })).team 1), 64, by decide +kernel, by decide +kernel,
       by decide +kernel, ok_of (by decide +kernel),
       (((wt w0 (fun tm => { tm with recq := [ErrRec.ofTeam w0 1 recTRAP 2], unread := 1 })).team 1).nextRec.getD (ErrRec.ofTeam w0 1 0 0)),
       by decide +kernel, trivial⟩,
   ⟨{ f2z with d := .v 1, a := .s 1 }, (ws w0 1 0xFF000040), (w0.team 1), 64, by decide +kernel, by decide +kernel, by decide +kernel,
       ok_of (by decide +kernel), by decide +kernel, trivial⟩⟩

theorem witness_TrapEntersHandler : (∃ (s u : State) (gk : Nat) (t : Trap), (((kvGet s.groups gk).isSome = true) ∧ (s.goesToHandler gk t = true) ∧
    (isDescriptorAt (recorded s gk t) (s.coreOf gk) (s.tenantOf gk) (s.group gk).tvec.toNat = (true, u)) ∧ True)) :=
  ⟨(wm (wg w0 (fun g => { g with tvec := 0x3000 })) 0x3000 (block [nopW])),
      (isDescriptorAt (recorded (wm (wg w0 (fun g => { g with tvec := 0x3000 })) 0x3000 (block [nopW])) 2 (trapOf (wm (wg w0 (fun g => { g with tvec := 0x3000 })) 0x3000 (block [nopW])) 0x01)) 0 0 0x3000).2,
      2, (trapOf (wm (wg w0 (fun g => { g with tvec := 0x3000 })) 0x3000 (block [nopW])) 0x01), by decide +kernel⟩

theorem witness_TrapStopsGroup :
    (∃ (s : State) (gk : Nat) (t : Trap), (((kvGet s.groups gk).isSome = true) ∧ (s.goesToHandler gk t = false) ∧ (t.code ≠ 0x20) ∧ True))
    ∧ (∃ (s : State) (gk : Nat) (t : Trap), (((kvGet s.groups gk).isSome = true) ∧ (s.goesToHandler gk t = false) ∧ (t.code ≠ 0x20) ∧ ∃ k,
        ((k ≠ gk) ∧ True))) :=
  ⟨⟨w0, 2, (trapOf w0 0x01), by decide +kernel⟩,
   ⟨w0, 2, (trapOf w0 0x01), by decide +kernel, by decide +kernel, by decide +kernel, 3, by decide +kernel, trivial⟩⟩

theorem witness_TrapsTaken :
    (∃ (f : FI) (s : State), ((ready f.h 8 s = true) ∧ (unlogged s = true) ∧ True))
    ∧ (∃ (h : Hdr) (op : Fin 512) (low : BitVec 48) (s : State), (((kvGet s.groups s.cur).isSome = true) ∧ ((s.issue h 8).ex ≠ []) ∧ True)) :=
  ⟨⟨{ fiz with imm := 15 }, w0, by decide +kernel⟩,
   ⟨hd, 0x1FE, 0, w0, by decide +kernel⟩⟩

theorem witness_TretReturns :
    (∃ (f : F2) (s : State) (skip : Bool), (((kvGet s.groups s.cur).isSome = true) ∧ ((s.issue f.h 8).ex ≠ []) ∧ ((s.group s.cur).inHandler = true) ∧
        True))
    ∧ (∃ (f : F2) (s : State) (skip : Bool), (((kvGet s.groups s.cur).isSome = true) ∧ ((s.issue f.h 8).ex ≠ []) ∧
        ((s.group s.cur).inHandler = false) ∧ True)) :=
  ⟨⟨f2z, (wg w0 (fun g => { g with tcause := 0x80000001, texec := 3 })), true, by decide +kernel⟩,
   ⟨f2z, w0, false, by decide +kernel⟩⟩

theorem witness_CrossThreadComplete : (∃ (i : Instr) (c : Cross) (s : State), ((crossOf i = some c) ∧ (crossClear i c s = true) ∧ True)) :=
  ⟨(.rank { f2z with d := .v 0, a := .v 2 }), _, w0, rfl, by decide +kernel, trivial⟩

theorem witness_MemoryInstructionsComplete : (∃ (i : Instr) (m : Mem) (s u : State), ((memOf i = some m) ∧ (memBarred i s = false) ∧
    (ready m.f.h (extSize m.f.ext) s = true) ∧
    (memClear m s (s.issue m.f.h (extSize m.f.ext)) (if m.once then [(s.issue m.f.h (extSize m.f.ext)).lowest] else (s.issue m.f.h (extSize m.f.ext)).ex) = true) ∧
    (memState m (extSize m.f.ext) s = some u) ∧ True)) :=
  ⟨(.stg { fmz with d := .v 4, a := .v 2, ext := .off 8 }), _, (wv (wv w0 0 2 0x8000) 1 2 0x8040),
      ((memState ((memOf (.stg { fmz with d := .v 4, a := .v 2, ext := .off 8 })).getD (cctlMem fmz .clean)) 16 (wv (wv w0 0 2 0x8000) 1 2 0x8040)).getD w0),
      rfl, by decide +kernel, by decide +kernel, by decide +kernel, some_getD (by decide +kernel), trivial⟩

theorem witness_MemoryInstructionsFrame : (∃ (i : Instr) (m : Mem) (s u : State), ((memOf i = some m) ∧ (memBarred i s = false) ∧
    (ready m.f.h (extSize m.f.ext) s = true) ∧ let is := s.issue m.f.h (extSize m.f.ext); let ts := if m.once then [is.lowest] else is.ex;
    (memClear m s is ts = true) ∧ (memState m (extSize m.f.ext) s = some u) ∧ ((s.ctx (s.tenantOf s.cur)).pten = false) ∧ (s.homes = []) ∧
    (s.net = []) ∧ (s.homeQ = []) ∧ ((s.core (s.coreOf s.cur)).red = []) ∧ True)) :=
  ⟨(.stg { fmz with d := .v 4, a := .v 2, ext := .off 8 }), _, (wv (wv w0 0 2 0x8000) 1 2 0x8040),
      ((memState ((memOf (.stg { fmz with d := .v 4, a := .v 2, ext := .off 8 })).getD (cctlMem fmz .clean)) 16 (wv (wv w0 0 2 0x8000) 1 2 0x8040)).getD w0),
      rfl, by decide +kernel, by decide +kernel, by decide +kernel, some_getD (by decide +kernel), by decide +kernel⟩

theorem witness_FenceOrders :
    (∃ (f : FM) (s : State), ((ready f.h 8 s = true) ∧ (s.isRerun s.cur = false) ∧ ((s.core (s.coreOf s.cur)).slog = []) ∧ let sc := f.width = 1;
        let rel := sc ∨ isRel f.ord = true; let acq := sc ∨ isAcq f.ord = true;
        let ok := (rel → s.releaseReady s.cur f.scope = true) ∧ (acq → (s.group s.cur).pend.all (·.ready) = true); (ok) ∧ True))
    ∧ (∃ (f : FM) (s : State), ((ready f.h 8 s = true) ∧ (s.isRerun s.cur = false) ∧ ((s.core (s.coreOf s.cur)).slog = []) ∧ let sc := f.width = 1;
        let rel := sc ∨ isRel f.ord = true; let acq := sc ∨ isAcq f.ord = true;
        let ok := (rel → s.releaseReady s.cur f.scope = true) ∧ (acq → (s.group s.cur).pend.all (·.ready) = true); (¬ok) ∧ True)) :=
  ⟨⟨{ fmz with scope := .device, ord := .acqRel }, w0, by decide +kernel⟩,
   ⟨{ fmz with scope := .device, ord := .acqRel }, (wg w0 (fun g => { g with unapplied := [7], unacked := [7] })), by decide +kernel⟩⟩

theorem witness_DiscardLine : (∃ (f : FM) (s : State) (t : Nat) (x : Xlat), ((ready f.h (extSize f.ext) s = true) ∧ (unlogged s = true) ∧
    ((s.launchOf s.cur).r.repro = false) ∧ let m := cctlMem f .clean; let is := s.issue f.h (extSize f.ext); let va := memAddr m s is t;
    (is.ex = [t]) ∧ (memClear m s is (if m.once then [is.lowest] else is.ex) = true) ∧ (srcVal s is t (.reg f.b 0 1 .w) = 64) ∧ (va % 64 = 0) ∧
    (va < 2 ^ 57 - 64) ∧ (windowXlat (s.ctx (s.tenantOf s.cur)) va = some x) ∧ (x.w = true) ∧ (outside x (x.phys va) = false) ∧
    (s.inMap (x.phys va) = true) ∧ (s.apron = []) ∧ ((s.core (s.coreOf s.cur)).slog = []) ∧ (s.linePlain (x.phys va / 64) = true) ∧ True)) :=
  ⟨{ fmz with a := .v 2, b := .v 4 },
      ({ (wv (wv (wg w0 (fun g => { g with threads := g.threads.take 1 })) 0 2 0x8040) 0 4 64) with l2 := [(0x201, ⟨some ⟨List.replicate 64 0, []⟩, 1, 0, false⟩)] } : State),
      0, ((windowXlat ((wg w0 (fun g => { g with threads := g.threads.take 1 })).ctx ((wg w0 (fun g => { g with threads := g.threads.take 1 })).tenantOf (wg w0 (fun g => { g with threads := g.threads.take 1 })).cur)) 0x8040).getD ⟨0,
      0, 0, false, .wb, false, false, false⟩), by decide +kernel⟩

theorem witness_AccessTraps :
    (∃ (i : Instr) (m : Mem) (s : State) (t : Nat) (ts : List Nat), ((memOf i = some m) ∧ (memBarred i s = false) ∧ (m.once = false) ∧
        (ready m.f.h (extSize m.f.ext) s = true) ∧ ((s.issue m.f.h (extSize m.f.ext)).ex = t :: ts) ∧ let is := s.issue m.f.h (extSize m.f.ext);
        (memClear m s is [t] = true) ∧ ((m.rel = false ∨ s.releaseReady s.cur m.f.scope = true)) ∧ let a := memAddr m s is t; (spaceOf i = .global) ∧
        ((s.core (s.coreOf s.cur)).slog = []) ∧ (2 ^ 57 ≤ a) ∧ True))
    ∧ (∃ (i : Instr) (m : Mem) (s : State) (t : Nat) (ts : List Nat), ((memOf i = some m) ∧ (memBarred i s = false) ∧ (m.once = false) ∧
        (ready m.f.h (extSize m.f.ext) s = true) ∧ ((s.issue m.f.h (extSize m.f.ext)).ex = t :: ts) ∧ let is := s.issue m.f.h (extSize m.f.ext);
        (memClear m s is [t] = true) ∧ ((m.rel = false ∨ s.releaseReady s.cur m.f.scope = true)) ∧ let a := memAddr m s is t; let n := accessBytes i;
        (spaceOf i = .global) ∧ ((s.core (s.coreOf s.cur)).slog = []) ∧ (a < 2 ^ 57) ∧ (a % n ≠ 0) ∧ True))
    ∧ (∃ (i : Instr) (m : Mem) (s : State) (t : Nat) (ts : List Nat), ((memOf i = some m) ∧ (memBarred i s = false) ∧ (m.once = false) ∧
        (ready m.f.h (extSize m.f.ext) s = true) ∧ ((s.issue m.f.h (extSize m.f.ext)).ex = t :: ts) ∧ let is := s.issue m.f.h (extSize m.f.ext);
        (memClear m s is [t] = true) ∧ ((m.rel = false ∨ s.releaseReady s.cur m.f.scope = true)) ∧ let a := memAddr m s is t; let n := accessBytes i;
        (spaceOf i = .scratch) ∧ let tm := s.teamOf s.cur; (tm.scratchSize < a % 2 ^ 24 + n) ∧ True))
    ∧ (∃ (i : Instr) (m : Mem) (s : State) (t : Nat) (ts : List Nat), ((memOf i = some m) ∧ (memBarred i s = false) ∧ (m.once = false) ∧
        (ready m.f.h (extSize m.f.ext) s = true) ∧ ((s.issue m.f.h (extSize m.f.ext)).ex = t :: ts) ∧ let is := s.issue m.f.h (extSize m.f.ext);
        (memClear m s is [t] = true) ∧ ((m.rel = false ∨ s.releaseReady s.cur m.f.scope = true)) ∧ let a := memAddr m s is t; let n := accessBytes i;
        (spaceOf i = .scratch) ∧ let tm := s.teamOf s.cur; let rank := a / 2 ^ 24;
        let foreign := rank ≠ 0xFF ∧ rank ≠ tm.grank ∧ (s.launchOf s.cur).r.gang ≤ rank; (a % 2 ^ 24 + n ≤ tm.scratchSize) ∧ (foreign) ∧ True))
    ∧ (∃ (i : Instr) (m : Mem) (s : State) (t : Nat) (ts : List Nat), ((memOf i = some m) ∧ (memBarred i s = false) ∧ (m.once = false) ∧
        (ready m.f.h (extSize m.f.ext) s = true) ∧ ((s.issue m.f.h (extSize m.f.ext)).ex = t :: ts) ∧ let is := s.issue m.f.h (extSize m.f.ext);
        (memClear m s is [t] = true) ∧ ((m.rel = false ∨ s.releaseReady s.cur m.f.scope = true)) ∧ let a := memAddr m s is t; let n := accessBytes i;
        (spaceOf i = .scratch) ∧ let tm := s.teamOf s.cur; let rank := a / 2 ^ 24;
        let foreign := rank ≠ 0xFF ∧ rank ≠ tm.grank ∧ (s.launchOf s.cur).r.gang ≤ rank; (a % 2 ^ 24 + n ≤ tm.scratchSize) ∧ (¬foreign) ∧
        (a % n ≠ 0) ∧ True))
    ∧ (∃ (i : Instr) (m : Mem) (s : State) (t : Nat) (ts : List Nat), ((memOf i = some m) ∧ (memBarred i s = false) ∧ (m.once = false) ∧
        (ready m.f.h (extSize m.f.ext) s = true) ∧ ((s.issue m.f.h (extSize m.f.ext)).ex = t :: ts) ∧ let is := s.issue m.f.h (extSize m.f.ext);
        (memClear m s is [t] = true) ∧ ((m.rel = false ∨ s.releaseReady s.cur m.f.scope = true)) ∧ let a := memAddr m s is t; let n := accessBytes i;
        (spaceOf i = .pocket) ∧ ((s.roleOf s.cur).pocket < a + n) ∧ True))
    ∧ (∃ (i : Instr) (m : Mem) (s : State) (t : Nat) (ts : List Nat), ((memOf i = some m) ∧ (memBarred i s = false) ∧ (m.once = false) ∧
        (ready m.f.h (extSize m.f.ext) s = true) ∧ ((s.issue m.f.h (extSize m.f.ext)).ex = t :: ts) ∧ let is := s.issue m.f.h (extSize m.f.ext);
        (memClear m s is [t] = true) ∧ ((m.rel = false ∨ s.releaseReady s.cur m.f.scope = true)) ∧ let a := memAddr m s is t; let n := accessBytes i;
        (spaceOf i = .pocket) ∧ (a + n ≤ (s.roleOf s.cur).pocket) ∧ (a % n ≠ 0) ∧ True)) :=
  ⟨⟨(.ldga { fmz with d := .v 4, a := .v 2 }), _, (wv w0 0 3 0x2000000), 0, [1], rfl, by decide +kernel⟩,
   ⟨(.ldg { fmz with d := .v 4, a := .v 2 }), _, (wv w0 0 2 2), 0, [1], rfl, by decide +kernel⟩,
   ⟨(.lds { fmz with d := .v 4, a := .v 2 }), _, (wv w0 0 2 0xFF010000), 0, [1], rfl, by decide +kernel⟩,
   ⟨(.lds { fmz with d := .v 4, a := .v 2 }), _, (wv w0 0 2 0x01000000), 0, [1], rfl, by decide +kernel⟩,
   ⟨(.lds { fmz with d := .v 4, a := .v 2 }), _, (wv w0 0 2 0xFF000006), 0, [1], rfl, by decide +kernel⟩,
   ⟨(.ldk { fmz with d := .v 4, a := .v 2 }), _, (wv w0 0 2 256), 0, [1], rfl, by decide +kernel⟩,
   ⟨(.ldk { fmz with d := .v 4, a := .v 2 }), _, (wv w0 0 2 6), 0, [1], rfl, by decide +kernel⟩⟩

theorem witness_BarrierInit :
    (∃ (f : F3) (s : State) (off : Nat), ((readyOnce f.h 8 noDst [(f.a, 1), (f.b, 1)] s = true) ∧ let b := arg f.h 8 s f.b 1;
        let tk := (s.group s.cur).team; ((begun f.h 8 s).ownCheck tk (arg f.h 8 s f.a 1) 16 16 = .ok off) ∧ ((1 ≤ b ∧ b ≤ 65535)) ∧ True))
    ∧ (∃ (f : F3) (s : State) (off : Nat), ((readyOnce f.h 8 noDst [(f.a, 1), (f.b, 1)] s = true) ∧ let b := arg f.h 8 s f.b 1;
        let tk := (s.group s.cur).team; ((begun f.h 8 s).ownCheck tk (arg f.h 8 s f.a 1) 16 16 = .ok off) ∧ ((b = 0 ∨ 65535 < b)) ∧ True)) :=
  ⟨⟨{ f3z with a := .s 1, b := .s 2 }, (ws (ws w0 1 0xFF000040) 2 65535), 64, by decide +kernel, ok_of (by decide +kernel), by decide +kernel,
      trivial⟩,
   ⟨{ f3z with a := .s 1, b := .s 2 }, (ws (ws w0 1 0xFF000040) 2 65536), 64, by decide +kernel, ok_of (by decide +kernel), by decide +kernel,
       trivial⟩⟩

theorem witness_BarrierArrive :
    (∃ (f : F3) (s : State) (p : ScrAt), ((readyOnce f.h 8 (f.d, 1) [(f.a, 1), (f.b, 1)] s = true) ∧ (unlogged s = true) ∧ let u := begun f.h 8 s;
        let n := arg f.h 8 s f.b 1; let c := constVal .w f.c; (barrierAt (arg f.h 8 s f.a 1) u = some p) ∧
        (u.releaseReady s.cur (arriveScope p) = true) ∧ (1 ≤ n) ∧ (n ≤ 65535) ∧ let b := u.barrier p.tk p.off; (b.full = false) ∧
        let tok := if c = 2 then b.phase else c; let fewer : Barrier := { b with pending := b.pending - n }; (tok = b.phase) ∧ (n ≤ b.pending) ∧
        (fewer.full = false) ∧ True))
    ∧ (∃ (f : F3) (s : State) (p : ScrAt), ((readyOnce f.h 8 (f.d, 1) [(f.a, 1), (f.b, 1)] s = true) ∧ (unlogged s = true) ∧ let u := begun f.h 8 s;
        let n := arg f.h 8 s f.b 1; let c := constVal .w f.c; (barrierAt (arg f.h 8 s f.a 1) u = some p) ∧
        (u.releaseReady s.cur (arriveScope p) = true) ∧ (1 ≤ n) ∧ (n ≤ 65535) ∧ let b := u.barrier p.tk p.off; (b.full = false) ∧
        let tok := if c = 2 then b.phase else c; let fewer : Barrier := { b with pending := b.pending - n }; (tok = b.phase) ∧ (n ≤ b.pending) ∧
        (fewer.full = true) ∧ True))
    ∧ (∃ (f : F3) (s : State) (p : ScrAt), ((readyOnce f.h 8 (f.d, 1) [(f.a, 1), (f.b, 1)] s = true) ∧ (unlogged s = true) ∧ let u := begun f.h 8 s;
        let n := arg f.h 8 s f.b 1; let c := constVal .w f.c; (barrierAt (arg f.h 8 s f.a 1) u = some p) ∧
        (u.releaseReady s.cur (arriveScope p) = true) ∧ (1 ≤ n) ∧ (n ≤ 65535) ∧ let b := u.barrier p.tk p.off; (b.full = false) ∧
        let tok := if c = 2 then b.phase else c; (tok ≠ b.phase) ∧ (b.early + n ≤ b.expect) ∧ True))
    ∧ (∃ (f : F3) (s : State) (p : ScrAt), ((readyOnce f.h 8 (f.d, 1) [(f.a, 1), (f.b, 1)] s = true) ∧ (unlogged s = true) ∧ let u := begun f.h 8 s;
        let n := arg f.h 8 s f.b 1; let c := constVal .w f.c; (barrierAt (arg f.h 8 s f.a 1) u = some p) ∧
        (u.releaseReady s.cur (arriveScope p) = true) ∧ (1 ≤ n) ∧ (n ≤ 65535) ∧ let b := u.barrier p.tk p.off; (b.full = false) ∧
        let tok := if c = 2 then b.phase else c; ((tok = b.phase ∧ b.pending < n) ∨ (tok ≠ b.phase ∧ b.expect < b.early + n)) ∧ True))
    ∧ (∃ (f : F3) (s : State) (p : ScrAt), ((readyOnce f.h 8 (f.d, 1) [(f.a, 1), (f.b, 1)] s = true) ∧ (unlogged s = true) ∧ let u := begun f.h 8 s;
        let n := arg f.h 8 s f.b 1; (barrierAt (arg f.h 8 s f.a 1) u = some p) ∧ (u.releaseReady s.cur (arriveScope p) = true) ∧
        let b := u.barrier p.tk p.off; (b.full = false) ∧ let more : Barrier := { b with pending := b.pending - 1, tx := b.tx + n };
        (1 ≤ b.pending) ∧ (b.tx + n < 2 ^ 31) ∧ (more.full = false) ∧ True))
    ∧ (∃ (f : F3) (s : State) (p : ScrAt), ((readyOnce f.h 8 (f.d, 1) [(f.a, 1), (f.b, 1)] s = true) ∧ (unlogged s = true) ∧ let u := begun f.h 8 s;
        let n := arg f.h 8 s f.b 1; (barrierAt (arg f.h 8 s f.a 1) u = some p) ∧ (u.releaseReady s.cur (arriveScope p) = true) ∧
        let b := u.barrier p.tk p.off; (b.full = false) ∧ let more : Barrier := { b with pending := b.pending - 1, tx := b.tx + n };
        (1 ≤ b.pending) ∧ (b.tx + n < 2 ^ 31) ∧ (more.full = true) ∧ True))
    ∧ (∃ (f : F3) (s : State) (p : ScrAt), ((readyOnce f.h 8 (f.d, 1) [(f.a, 1), (f.b, 1)] s = true) ∧ (unlogged s = true) ∧ let u := begun f.h 8 s;
        let n := arg f.h 8 s f.b 1; (barrierAt (arg f.h 8 s f.a 1) u = some p) ∧ (u.releaseReady s.cur (arriveScope p) = true) ∧
        let b := u.barrier p.tk p.off; (b.full = false) ∧ ((b.pending = 0 ∨ (2 : Int) ^ 31 ≤ b.tx + n)) ∧ True)) :=
  ⟨⟨{ f3z with d := .s 3, a := .s 1, b := .int 1, c := .int 2 },
      (wt (ws w0 1 0xFF000040) (fun tm => { tm with scratch := fileWrite tm.scratch 64 (Barrier.bytes ⟨0, 0, 2, 2, 0, false, 0⟩) false })),
      ((barrierAt 0xFF000040 (begun hd 8 (wt (ws w0 1 0xFF000040) (fun tm => { tm with scratch := fileWrite tm.scratch 64 (Barrier.bytes ⟨0, 0, 2, 2, 0, false, 0⟩) false })))).getD ⟨0,
      0, 0, false⟩), by decide +kernel⟩,
   ⟨{ f3z with d := .s 3, a := .s 1, b := .int 1, c := .int 2 },
       (wt (ws w0 1 0xFF000040) (fun tm => { tm with scratch := fileWrite tm.scratch 64 (Barrier.bytes ⟨0, 0, 2, 1, 0, false, 0⟩) false })),
       ((barrierAt 0xFF000040 (begun hd 8 (wt (ws w0 1 0xFF000040) (fun tm => { tm with scratch := fileWrite tm.scratch 64 (Barrier.bytes ⟨0, 0, 2, 1, 0, false, 0⟩) false })))).getD ⟨0,
       0, 0, false⟩), by decide +kernel⟩,
   ⟨{ f3z with d := .s 3, a := .s 1, b := .int 1, c := .int 1 },
       (wt (ws w0 1 0xFF000040) (fun tm => { tm with scratch := fileWrite tm.scratch 64 (Barrier.bytes ⟨0, 0, 2, 1, 0, false, 0⟩) false })),
       ((barrierAt 0xFF000040 (begun hd 8 (wt (ws w0 1 0xFF000040) (fun tm => { tm with scratch := fileWrite tm.scratch 64 (Barrier.bytes ⟨0, 0, 2, 1, 0, false, 0⟩) false })))).getD ⟨0,
       0, 0, false⟩), by decide +kernel⟩,
   ⟨{ f3z with d := .s 3, a := .s 1, b := .int 2, c := .int 2 },
       (wt (ws w0 1 0xFF000040) (fun tm => { tm with scratch := fileWrite tm.scratch 64 (Barrier.bytes ⟨0, 0, 2, 1, 0, false, 0⟩) false })),
       ((barrierAt 0xFF000040 (begun hd 8 (wt (ws w0 1 0xFF000040) (fun tm => { tm with scratch := fileWrite tm.scratch 64 (Barrier.bytes ⟨0, 0, 2, 1, 0, false, 0⟩) false })))).getD ⟨0,
       0, 0, false⟩), by decide +kernel⟩,
   ⟨{ f3z with d := .s 3, a := .s 1, b := .int 8, c := .int 2 },
       (wt (ws w0 1 0xFF000040) (fun tm => { tm with scratch := fileWrite tm.scratch 64 (Barrier.bytes ⟨0, 0, 2, 1, 0, false, 0⟩) false })),
       ((barrierAt 0xFF000040 (begun hd 8 (wt (ws w0 1 0xFF000040) (fun tm => { tm with scratch := fileWrite tm.scratch 64 (Barrier.bytes ⟨0, 0, 2, 1, 0, false, 0⟩) false })))).getD ⟨0,
       0, 0, false⟩), by decide +kernel⟩,
   ⟨{ f3z with d := .s 3, a := .s 1, b := .int 8, c := .int 2 },
       (wt (ws w0 1 0xFF000040) (fun tm => { tm with scratch := fileWrite tm.scratch 64 (Barrier.bytes ⟨-8, 0, 2, 1, 0, false, 0⟩) false })),
       ((barrierAt 0xFF000040 (begun hd 8 (wt (ws w0 1 0xFF000040) (fun tm => { tm with scratch := fileWrite tm.scratch 64 (Barrier.bytes ⟨-8, 0, 2, 1, 0, false, 0⟩) false })))).getD ⟨0,
       0, 0, false⟩), by decide +kernel⟩,
   ⟨{ f3z with d := .s 3, a := .s 1, b := .int 8, c := .int 2 },
       (wt (ws w0 1 0xFF000040) (fun tm => { tm with scratch := fileWrite tm.scratch 64 (Barrier.bytes ⟨5, 0, 2, 0, 0, false, 0⟩) false })),
       ((barrierAt 0xFF000040 (begun hd 8 (wt (ws w0 1 0xFF000040) (fun tm => { tm with scratch := fileWrite tm.scratch 64 (Barrier.bytes ⟨5, 0, 2, 0, 0, false, 0⟩) false })))).getD ⟨0,
       0, 0, false⟩), by decide +kernel⟩⟩

theorem witness_BarrierWait :
    (∃ (f : F3) (s : State) (off : Nat), ((unlogged s = true) ∧ let u := begun f.h 8 s; let tk := (s.group s.cur).team;
        (u.ownCheck tk (arg f.h 8 s f.a 1) 16 16 = .ok off) ∧ let b := u.barrier tk off; (b.err = true) ∧ (readyOnce f.h 8 noDst [(f.a, 1), (f.b, 1),
        (f.c, 1)] s = true) ∧ True))
    ∧ (∃ (f : F3) (s : State) (off : Nat), ((unlogged s = true) ∧ let u := begun f.h 8 s; let tk := (s.group s.cur).team;
        (u.ownCheck tk (arg f.h 8 s f.a 1) 16 16 = .ok off) ∧ let b := u.barrier tk off; (b.err = true) ∧ (readyOnce f.h 8 noDst [(f.a, 1), (f.b,
        1)] s = true) ∧ True))
    ∧ (∃ (f : F3) (s : State) (off : Nat), ((unlogged s = true) ∧ let u := begun f.h 8 s; let tk := (s.group s.cur).team;
        let tok := arg f.h 8 s f.b 1; (u.ownCheck tk (arg f.h 8 s f.a 1) 16 16 = .ok off) ∧ let b := u.barrier tk off; (b.err = false) ∧
        (b.full = false) ∧ (readyOnce f.h 8 noDst [(f.a, 1), (f.b, 1), (f.c, 1)] s = true) ∧ (b.phase ≠ tok % 2) ∧ True))
    ∧ (∃ (f : F3) (s : State) (off : Nat), ((unlogged s = true) ∧ let u := begun f.h 8 s; let tk := (s.group s.cur).team;
        let tok := arg f.h 8 s f.b 1; let t := arg f.h 8 s f.c 1; (u.ownCheck tk (arg f.h 8 s f.a 1) 16 16 = .ok off) ∧ let b := u.barrier tk off;
        (b.err = false) ∧ (b.full = false) ∧ (readyOnce f.h 8 noDst [(f.a, 1), (f.b, 1), (f.c, 1)] s = true) ∧ (b.phase = tok % 2) ∧ (t = 0) ∧ True))
    ∧ (∃ (f : F3) (s : State) (off : Nat), ((unlogged s = true) ∧ let u := begun f.h 8 s; let tk := (s.group s.cur).team;
        let tok := arg f.h 8 s f.b 1; let t := arg f.h 8 s f.c 1; (u.ownCheck tk (arg f.h 8 s f.a 1) 16 16 = .ok off) ∧ let b := u.barrier tk off;
        (b.err = false) ∧ (b.full = false) ∧ (readyOnce f.h 8 noDst [(f.a, 1), (f.b, 1), (f.c, 1)] s = true) ∧ (b.phase = tok % 2) ∧ (t ≠ 0) ∧ True))
    ∧ (∃ (f : F3) (s : State) (off : Nat), ((unlogged s = true) ∧ let u := begun f.h 8 s; let tk := (s.group s.cur).team;
        let tok := arg f.h 8 s f.b 1; (u.ownCheck tk (arg f.h 8 s f.a 1) 16 16 = .ok off) ∧ let b := u.barrier tk off; (b.err = false) ∧
        (b.full = false) ∧ (readyOnce f.h 8 noDst [(f.a, 1), (f.b, 1)] s = true) ∧ (b.phase ≠ tok % 2) ∧ True))
    ∧ (∃ (f : F3) (s : State) (off : Nat), ((unlogged s = true) ∧ let u := begun f.h 8 s; let tk := (s.group s.cur).team;
        let tok := arg f.h 8 s f.b 1; (u.ownCheck tk (arg f.h 8 s f.a 1) 16 16 = .ok off) ∧ let b := u.barrier tk off; (b.err = false) ∧
        (b.full = false) ∧ (readyOnce f.h 8 noDst [(f.a, 1), (f.b, 1)] s = true) ∧ (b.phase = tok % 2) ∧ True)) :=
  ⟨⟨{ f3z with d := .v 1, a := .s 1, b := .int 1, c := .z },
      (wt (ws w0 1 0xFF000040) (fun tm => { tm with scratch := fileWrite tm.scratch 64 (Barrier.bytes ⟨0, 0, 2, 1, 0, true, 0⟩) false })), 64,
      by decide +kernel, ok_of (by decide +kernel), by decide +kernel⟩,
   ⟨{ f3z with d := .v 1, a := .s 1, b := .int 1, c := .z },
       (wt (ws w0 1 0xFF000040) (fun tm => { tm with scratch := fileWrite tm.scratch 64 (Barrier.bytes ⟨0, 0, 2, 1, 0, true, 0⟩) false })), 64,
       by decide +kernel, ok_of (by decide +kernel), by decide +kernel⟩,
   ⟨{ f3z with d := .v 1, a := .s 1, b := .int 1, c := .z },
       (wt (ws w0 1 0xFF000040) (fun tm => { tm with scratch := fileWrite tm.scratch 64 (Barrier.bytes ⟨0, 0, 2, 1, 0, false, 0⟩) false })), 64,
       by decide +kernel, ok_of (by decide +kernel), by decide +kernel⟩,
   ⟨{ f3z with d := .v 1, a := .s 1, b := .z, c := .z },
       (wt (ws w0 1 0xFF000040) (fun tm => { tm with scratch := fileWrite tm.scratch 64 (Barrier.bytes ⟨0, 0, 2, 1, 0, false, 0⟩) false })), 64,
       by decide +kernel, ok_of (by decide +kernel), by decide +kernel⟩,
   ⟨{ f3z with d := .v 1, a := .s 1, b := .z, c := .int 9 },
       (wt (ws w0 1 0xFF000040) (fun tm => { tm with scratch := fileWrite tm.scratch 64 (Barrier.bytes ⟨0, 0, 2, 1, 0, false, 0⟩) false })), 64,
       by decide +kernel, ok_of (by decide +kernel), by decide +kernel⟩,
   ⟨{ f3z with d := .v 1, a := .s 1, b := .int 1, c := .z },
       (wt (ws w0 1 0xFF000040) (fun tm => { tm with scratch := fileWrite tm.scratch 64 (Barrier.bytes ⟨0, 0, 2, 1, 0, false, 0⟩) false })), 64,
       by decide +kernel, ok_of (by decide +kernel), by decide +kernel⟩,
   ⟨{ f3z with d := .v 1, a := .s 1, b := .z, c := .z },
       (wt (ws w0 1 0xFF000040) (fun tm => { tm with scratch := fileWrite tm.scratch 64 (Barrier.bytes ⟨0, 0, 2, 1, 0, false, 0⟩) false })), 64,
       by decide +kernel, ok_of (by decide +kernel), by decide +kernel⟩⟩

theorem witness_Colours :
    (∃ (f : F3) (s : State), ((readyOnce f.h 8 noDst [(f.b, 1)] s = true) ∧ (s.isRerun s.cur = false) ∧ let k := constVal .w f.a;
        let g := (s.teamOf s.cur).gang; let c := s.colour g k; let b := arg f.h 8 s f.b 1; (k < (s.launchOf s.cur).r.colours) ∧ (1 ≤ b) ∧
        (b ≤ 3072) ∧ ((c.cfg = false ∨ c.pending = c.expect)) ∧ True))
    ∧ (∃ (f : F3) (s : State), ((readyOnce f.h 8 noDst [(f.b, 1)] s = true) ∧ (s.isRerun s.cur = false) ∧ let k := constVal .w f.a;
        ((s.launchOf s.cur).r.colours ≤ k) ∧ True))
    ∧ (∃ (f : F3) (s : State), ((unlogged s = true) ∧ let k := constVal .w f.a; let g := (s.teamOf s.cur).gang; let c := s.colour g k;
        (k < (s.launchOf s.cur).r.colours) ∧ (c.cfg = true) ∧ (readyOnce f.h 8 (f.d, 1) [] s = true) ∧ (s.releaseReady s.cur .gang = true) ∧ True))
    ∧ (∃ (f : F3) (s : State), ((unlogged s = true) ∧ let k := constVal .w f.a; let g := (s.teamOf s.cur).gang; let c := s.colour g k;
        (k < (s.launchOf s.cur).r.colours) ∧ (c.cfg = true) ∧ (readyOnce f.h 8 noDst [(f.c, 1)] s = true) ∧ (s.releaseReady s.cur .gang = true) ∧
        ((s.group s.cur).hbarTok = none) ∧ ((kvGet s.gangs g).isSome = true) ∧ (k < (s.gang g).colours.length) ∧ (arg f.h 8 s f.c 1 = 0) ∧ True))
    ∧ (∃ (f : F3) (s : State), ((unlogged s = true) ∧ let k := constVal .w f.a; let g := (s.teamOf s.cur).gang; let c := s.colour g k;
        (k < (s.launchOf s.cur).r.colours) ∧ (c.cfg = true) ∧ (readyOnce f.h 8 noDst [(f.c, 1)] s = true) ∧ (s.releaseReady s.cur .gang = true) ∧
        ((s.group s.cur).hbarTok = none) ∧ ((kvGet s.gangs g).isSome = true) ∧ (k < (s.gang g).colours.length) ∧ (arg f.h 8 s f.c 1 ≠ 0) ∧ True))
    ∧ (∃ (f : F3) (s : State), ((unlogged s = true) ∧ let k := constVal .w f.a; let g := (s.teamOf s.cur).gang; let c := s.colour g k;
        let tok := if c.phase then 1 else 0;
        let flipsFor := fun (c : Colour) (tok : Nat) => c.flips.length + (if (if c.phase then 1 else 0) = tok % 2 then 1 else 0);
        (k < (s.launchOf s.cur).r.colours) ∧ (c.cfg = true) ∧ (readyOnce f.h 8 noDst [(f.b, 1), (f.c, 1)] s = true) ∧
        let need := flipsFor c (arg f.h 8 s f.b 1); (need = 0) ∧ True))
    ∧ (∃ (f : F3) (s : State), ((unlogged s = true) ∧ let k := constVal .w f.a; let g := (s.teamOf s.cur).gang; let c := s.colour g k;
        let tok := if c.phase then 1 else 0;
        let flipsFor := fun (c : Colour) (tok : Nat) => c.flips.length + (if (if c.phase then 1 else 0) = tok % 2 then 1 else 0);
        (k < (s.launchOf s.cur).r.colours) ∧ (c.cfg = true) ∧ (readyOnce f.h 8 noDst [(f.b, 1), (f.c, 1)] s = true) ∧
        let need := flipsFor c (arg f.h 8 s f.b 1); (need ≠ 0) ∧ (arg f.h 8 s f.c 1 = 0) ∧ True))
    ∧ (∃ (f : F3) (s : State), ((unlogged s = true) ∧ let k := constVal .w f.a; let g := (s.teamOf s.cur).gang; let c := s.colour g k;
        let tok := if c.phase then 1 else 0;
        let flipsFor := fun (c : Colour) (tok : Nat) => c.flips.length + (if (if c.phase then 1 else 0) = tok % 2 then 1 else 0);
        (k < (s.launchOf s.cur).r.colours) ∧ (c.cfg = true) ∧ (readyOnce f.h 8 noDst [(f.b, 1), (f.c, 1)] s = true) ∧
        let need := flipsFor c (arg f.h 8 s f.b 1); (need ≠ 0) ∧ (arg f.h 8 s f.c 1 ≠ 0) ∧ True)) :=
  ⟨⟨{ f3z with a := .int 0, b := .int 2 },
      (({ (wl w0 (fun r => { r with colours := 1 })) with gangs := [((w0.teamOf 2).gang, { w0.gang (w0.teamOf 2).gang with colours := [Colour.reset] })] }) : State),
      by decide +kernel⟩,
   ⟨{ f3z with a := .int 1, b := .int 2 },
       (({ (wl w0 (fun r => { r with colours := 1 })) with gangs := [((w0.teamOf 2).gang, { w0.gang (w0.teamOf 2).gang with colours := [Colour.reset] })] }) : State),
       by decide +kernel⟩,
   ⟨{ f3z with d := .v 3, a := .int 0 },
       (({ (wl w0 (fun r => { r with colours := 1 })) with gangs := [((w0.teamOf 2).gang, { w0.gang (w0.teamOf 2).gang with colours := [⟨true, false, 2, 2, false, []⟩] })] }) : State),
       by decide +kernel⟩,
   ⟨{ f3z with d := .v 3, a := .int 0 },
       (({ (wl w0 (fun r => { r with colours := 1 })) with gangs := [((w0.teamOf 2).gang, { w0.gang (w0.teamOf 2).gang with colours := [⟨true, false, 2, 2, false, []⟩] })] }) : State),
       by decide +kernel⟩,
   ⟨{ f3z with d := .v 3, a := .int 0, c := .int 9 },
       (({ (wl w0 (fun r => { r with colours := 1 })) with gangs := [((w0.teamOf 2).gang, { w0.gang (w0.teamOf 2).gang with colours := [⟨true, false, 2, 2, false, []⟩] })] }) : State),
       by decide +kernel⟩,
   ⟨{ f3z with d := .v 3, a := .int 0, b := .int 1 },
       (({ (wl w0 (fun r => { r with colours := 1 })) with gangs := [((w0.teamOf 2).gang, { w0.gang (w0.teamOf 2).gang with colours := [⟨true, false, 2, 2, false, []⟩] })] }) : State),
       by decide +kernel⟩,
   ⟨{ f3z with d := .v 3, a := .int 0 },
       (({ (wl w0 (fun r => { r with colours := 1 })) with gangs := [((w0.teamOf 2).gang, { w0.gang (w0.teamOf 2).gang with colours := [⟨true, false, 2, 2, false, []⟩] })] }) : State),
       by decide +kernel⟩,
   ⟨{ f3z with d := .v 3, a := .int 0, c := .int 9 },
       (({ (wl w0 (fun r => { r with colours := 1 })) with gangs := [((w0.teamOf 2).gang, { w0.gang (w0.teamOf 2).gang with colours := [⟨true, false, 2, 2, false, []⟩] })] }) : State),
       by decide +kernel⟩⟩

theorem witness_Queues :
    (∃ (f : F3) (s : State), ((readyOnce f.h 8 noDst [(f.b, 1), (f.c, 1)] s = true) ∧ (noQueueWaiters s = true) ∧ let base := arg f.h 8 s f.b 1;
        let cfg := arg f.h 8 s f.c 1; let slots := cfg % 128; let ss := Word.bits cfg 9 8; let tk := (s.group s.cur).team; (cfg < 1024) ∧
        (Word.bit cfg 7 = false) ∧ (1 ≤ slots) ∧ (slots ≤ 64) ∧ (ss ≠ 3) ∧ (base % (4 * 2 ^ ss) = 0) ∧
        (base + slots * (4 * 2 ^ ss) ≤ (s.team tk).scratchSize) ∧ ((∀ r, s.queue (coreNow s) (constVal .w f.a) = some r → r.owner = tk)) ∧ True))
    ∧ (∃ (f : F3) (s : State) (r : QueueReg), ((readyQueue f.h noDst [(f.b, r.words), (f.c, 1)] f.b (constVal .w f.a) r s = true) ∧
        (unlogged s = true) ∧ (noQueueWaiters s = true) ∧ (r.full < r.slots) ∧ (s.releaseReady s.cur .team = true) ∧ True))
    ∧ (∃ (f : F3) (s : State) (r : QueueReg), ((readyQueue f.h noDst [(f.b, r.words), (f.c, 1)] f.b (constVal .w f.a) r s = true) ∧
        (unlogged s = true) ∧ (noQueueWaiters s = true) ∧ (r.slots ≤ r.full) ∧ (arg f.h 8 s f.c 1 = 0) ∧ True))
    ∧ (∃ (f : F3) (s : State) (r : QueueReg), ((readyQueue f.h noDst [(f.b, r.words), (f.c, 1)] f.b (constVal .w f.a) r s = true) ∧
        (unlogged s = true) ∧ (noQueueWaiters s = true) ∧ (r.slots ≤ r.full) ∧ (arg f.h 8 s f.c 1 ≠ 0) ∧ True))
    ∧ (∃ (f : F3) (s : State) (r : QueueReg), ((readyQueue f.h (f.d, r.words) [(f.c, 1)] f.d (constVal .w f.a) r s = true) ∧ (unlogged s = true) ∧
        (noQueueWaiters s = true) ∧ (0 < r.full) ∧ True))
    ∧ (∃ (f : F3) (s : State) (r : QueueReg), ((readyQueue f.h (f.d, r.words) [(f.c, 1)] f.d (constVal .w f.a) r s = true) ∧ (unlogged s = true) ∧
        (noQueueWaiters s = true) ∧ (r.full = 0) ∧ (arg f.h 8 s f.c 1 = 0) ∧ True))
    ∧ (∃ (f : F3) (s : State) (r : QueueReg), ((readyQueue f.h (f.d, r.words) [(f.c, 1)] f.d (constVal .w f.a) r s = true) ∧ (unlogged s = true) ∧
        (noQueueWaiters s = true) ∧ (r.full = 0) ∧ (arg f.h 8 s f.c 1 ≠ 0) ∧ True))
    ∧ (∃ (f : F3) (s : State) (r : QueueReg), ((readyQueue f.h (f.d, 1) [] .z (constVal .w f.a) r s = true) ∧ (unlogged s = true) ∧ True)) :=
  ⟨⟨{ f3z with a := .int 0, b := .s 1, c := .s 2 }, (ws (ws w0 1 0x100) 2 4), four (by decide +kernel) (four (by decide +kernel) ⟨by decide +kernel,
      none_all (by decide +kernel), trivial⟩)⟩,
   ⟨{ f3z with d := .v 1, a := .int 0, b := .s 3 }, (queue1 1 2), (⟨1, 0, 0, 1, 0, 2, 0⟩ : QueueReg), by decide +kernel⟩,
   ⟨{ f3z with d := .v 1, a := .int 0, b := .s 3 }, (queue1 2 2), (⟨1, 0, 0, 2, 0, 2, 0⟩ : QueueReg), by decide +kernel⟩,
   ⟨{ f3z with d := .v 1, a := .int 0, b := .s 3, c := .int 9 }, (queue1 2 2), (⟨1, 0, 0, 2, 0, 2, 0⟩ : QueueReg), by decide +kernel⟩,
   ⟨{ f3z with d := .s 4, a := .int 0, b := .v 1 }, (queue1 1 2), (⟨1, 0, 0, 1, 0, 2, 0⟩ : QueueReg), by decide +kernel⟩,
   ⟨{ f3z with d := .s 4, a := .int 0, b := .v 1 }, (queue1 0 2), (⟨1, 0, 0, 0, 0, 2, 0⟩ : QueueReg), by decide +kernel⟩,
   ⟨{ f3z with d := .s 4, a := .int 0, b := .v 1, c := .int 9 }, (queue1 0 2), (⟨1, 0, 0, 0, 0, 2, 0⟩ : QueueReg), by decide +kernel⟩,
   ⟨{ f3z with d := .s 4, a := .int 0 }, (queue1 1 2), (⟨1, 0, 0, 1, 0, 2, 0⟩ : QueueReg), by decide +kernel⟩⟩

theorem witness_Deques :
    (∃ (f : F3) (s : State) (d : Deque), ((unlogged s = true) ∧ (noDequeWaiters s = true) ∧ let kid := (s.teamOf s.cur).kid; let c := coreNow s;
        (readyOnce f.h 8 noDst [(f.b, 2)] s = true) ∧ ((s.core c).deque = some d) ∧ (d.kid = kid) ∧ (d.entries.length < 256) ∧
        (s.releaseReady s.cur .gang = true) ∧ True))
    ∧ (∃ (f : F3) (s : State) (d : Deque), ((unlogged s = true) ∧ (noDequeWaiters s = true) ∧ let kid := (s.teamOf s.cur).kid; let c := coreNow s;
        (readyOnce f.h 8 noDst [(f.b, 2)] s = true) ∧ ((s.core c).deque = some d) ∧ (d.kid = kid) ∧ (256 ≤ d.entries.length) ∧ True))
    ∧ (∃ (f : F3) (s : State) (d : Deque), ((unlogged s = true) ∧ (noDequeWaiters s = true) ∧ let kid := (s.teamOf s.cur).kid; let c := coreNow s;
        (readyOnce f.h 8 (f.d, 2) [(f.c, 1)] s = true) ∧ ((s.core c).deque = some d) ∧ (d.kid = kid) ∧ ∃ e, ((d.entries.getLast? = some e) ∧ True)))
    ∧ (∃ (f : F3) (s : State) (d : Deque), ((unlogged s = true) ∧ (noDequeWaiters s = true) ∧ let kid := (s.teamOf s.cur).kid; let c := coreNow s;
        (readyOnce f.h 8 (f.d, 2) [(f.c, 1)] s = true) ∧ ((s.core c).deque = some d) ∧ (d.kid = kid) ∧ (d.entries = []) ∧ (arg f.h 8 s f.c 1 = 0) ∧
        True))
    ∧ (∃ (f : F3) (s : State) (d : Deque), ((unlogged s = true) ∧ (noDequeWaiters s = true) ∧ let kid := (s.teamOf s.cur).kid; let c := coreNow s;
        (readyOnce f.h 8 (f.d, 2) [(f.c, 1)] s = true) ∧ ((s.core c).deque = some d) ∧ (d.kid = kid) ∧ (d.entries = []) ∧ (arg f.h 8 s f.c 1 ≠ 0) ∧
        True))
    ∧ (∃ (f : F3) (s : State) (d : Deque), ((unlogged s = true) ∧ (noDequeWaiters s = true) ∧ let kid := (s.teamOf s.cur).kid; let c := coreNow s;
        (readyOnce f.h 8 (f.d, 2) [(f.a, 1)] s = true) ∧ (((s.core c).deque.map (·.kid)) = some kid) ∧ let rank := arg f.h 8 s f.a 1;
        let from_ := (s.team ((s.gang (s.teamOf s.cur).gang).members.getD rank 0)).core; (rank < (s.launchOf s.cur).r.gang) ∧
        ((s.core from_).deque = some d) ∧ (d.kid = kid) ∧ ∃ e es, ((d.entries = e :: es) ∧ True)))
    ∧ (∃ (f : F3) (s : State) (d : Deque), ((unlogged s = true) ∧ (noDequeWaiters s = true) ∧ let kid := (s.teamOf s.cur).kid; let c := coreNow s;
        (readyOnce f.h 8 (f.d, 2) [(f.a, 1)] s = true) ∧ (((s.core c).deque.map (·.kid)) = some kid) ∧ let rank := arg f.h 8 s f.a 1;
        let from_ := (s.team ((s.gang (s.teamOf s.cur).gang).members.getD rank 0)).core; (rank < (s.launchOf s.cur).r.gang) ∧
        ((s.core from_).deque = some d) ∧ (d.kid = kid) ∧ (d.entries = []) ∧ True))
    ∧ (∃ (f : F3) (s : State) (d : Deque), ((unlogged s = true) ∧ (noDequeWaiters s = true) ∧ let c := coreNow s; (readyOnce f.h 8 noDst [(f.b,
        2)] s = true) ∧ ((s.core c).deque = none) ∧ True)) :=
  ⟨⟨{ f3z with d := .v 1, b := .s 2 }, (deque1 [(5, false)]), ⟨(w0.teamOf 2).kid, [(5, false)]⟩, by decide +kernel⟩,
   ⟨{ f3z with d := .v 1, b := .s 2 }, (deque1 (List.replicate 256 (5, false))), ⟨(w0.teamOf 2).kid, (List.replicate 256 (5, false))⟩,
       by decide +kernel⟩,
   ⟨{ f3z with d := .s 4, b := .v 1 }, (deque1 [(5, false)]), ⟨(w0.teamOf 2).kid, [(5, false)]⟩, four (by decide +kernel) ⟨by decide +kernel, (5,
       false), by decide +kernel, trivial⟩⟩,
   ⟨{ f3z with d := .s 4, b := .v 1 }, (deque1 []), ⟨(w0.teamOf 2).kid, []⟩, by decide +kernel⟩,
   ⟨{ f3z with d := .s 4, b := .v 1, c := .int 9 }, (deque1 []), ⟨(w0.teamOf 2).kid, []⟩, by decide +kernel⟩,
   ⟨{ f3z with d := .s 4, b := .v 1, a := .int 0 }, (deque1 [(5, false), (6, false)]), ⟨(w0.teamOf 2).kid, [(5, false), (6, false)]⟩,
       four (by decide +kernel) ⟨by decide +kernel, by decide +kernel, by decide +kernel, (5, false), [(6, false)], by decide +kernel, trivial⟩⟩,
   ⟨{ f3z with d := .s 4, b := .v 1, a := .int 0 }, (deque1 []), ⟨(w0.teamOf 2).kid, []⟩, by decide +kernel⟩,
   ⟨{ f3z with d := .v 1, b := .s 2 }, w0, ⟨0, []⟩, by decide +kernel⟩⟩

theorem witness_Convergence :
    (∃ (f : F3) (s : State), ((readyOnce f.h 8 noDst [(f.b, 1)] s = true) ∧ let n := constVal .w f.a; let tk := (s.group s.cur).team;
        let q := s.quadOfGroup s.cur; ((∀ c, kvGet (s.quad q).conv n = some c → c.owner = tk ∧ c.signed = [])) ∧ True))
    ∧ (∃ (f : F3) (s : State), ((ready f.h 8 s = true) ∧ let n := constVal .w f.a; let q := s.quadOfGroup s.cur; let ex := (s.issue f.h 8).ex; ∃ c,
        ((kvGet (s.quad q).conv n = some c) ∧ (c.owner = (s.group s.cur).team) ∧ (c.members.testBit (s.group s.cur).gid = true) ∧
        (ex.all (fun t => !c.signed.contains (s.cur, t)) = true) ∧ (s.releaseReady s.cur .team = true) ∧ (c.op = none) ∧
        (c.signed.length + ex.length < c.expect) ∧ True)))
    ∧ (∃ (f : F3) (s : State), ((ready f.h 8 s = true) ∧ let n := constVal .w f.a; let q := s.quadOfGroup s.cur; let ex := (s.issue f.h 8).ex; ∃ c,
        ((kvGet (s.quad q).conv n = some c) ∧ (c.owner = (s.group s.cur).team) ∧ (c.members.testBit (s.group s.cur).gid = true) ∧
        (ex.all (fun t => !c.signed.contains (s.cur, t)) = true) ∧ (s.releaseReady s.cur .team = true) ∧ (c.op = none) ∧
        (c.signed.length + ex.length = c.expect) ∧ True)))
    ∧ (∃ (f : F3) (s : State), ((ready f.h 8 s = true) ∧ let n := constVal .w f.a; let q := s.quadOfGroup s.cur; (kvGet (s.quad q).conv n = none) ∧
        True)) :=
  ⟨⟨{ f3z with a := .int 0, b := .int 1 }, w0, by decide +kernel, none_all (by decide +kernel), trivial⟩,
   ⟨{ f3z with a := .int 0 }, (wq w0 (fun q => { q with conv := [(0, ⟨1, 1, 4, 0, [], none⟩)] })), by decide +kernel, (⟨1, 1, 4, 0, [],
       none⟩ : ConvReg), by decide +kernel⟩,
   ⟨{ f3z with a := .int 0 }, (wq w0 (fun q => { q with conv := [(0, ⟨1, 1, 2, 0, [], none⟩)] })), by decide +kernel, (⟨1, 1, 2, 0, [],
       none⟩ : ConvReg), by decide +kernel⟩,
   ⟨{ f3z with a := .int 0 }, w0, by decide +kernel⟩⟩

theorem witness_CopiesIssue :
    (∃ (i : Instr) (f : F3) (fx : DWord) (k : CpyKind) (s : State) (bs : List Byte) (tm : Team), ((copyOf i = some (f, fx, k)) ∧
        (unlogged s = true) ∧ (descBytes f fx s = some bs) ∧ (kvGet s.teams (s.group s.cur).team = some tm) ∧ (tm.kind = .original) ∧
        let u := begun f.h 16 s; let tk := (s.group s.cur).team; (u.descFails tk k bs = true) ∧ True))
    ∧ (∃ (i : Instr) (f : F3) (fx : DWord) (k : CpyKind) (s : State) (bs : List Byte) (tm : Team), ((copyOf i = some (f, fx, k)) ∧
        (unlogged s = true) ∧ (descBytes f fx s = some bs) ∧ (kvGet s.teams (s.group s.cur).team = some tm) ∧ (tm.kind = .original) ∧
        let u := begun f.h 16 s; let d := descOf k bs; let c := coreNow s; let tk := (s.group s.cur).team; (u.descFails tk k bs = false) ∧
        ((s.core c).moves.length < 256) ∧ ((d.total ≠ 0 ∨ d.digest ≠ none)) ∧ True))
    ∧ (∃ (i : Instr) (f : F3) (fx : DWord) (k : CpyKind) (s : State) (bs : List Byte) (tm : Team), ((copyOf i = some (f, fx, k)) ∧
        (unlogged s = true) ∧ (descBytes f fx s = some bs) ∧ (kvGet s.teams (s.group s.cur).team = some tm) ∧ (tm.kind = .original) ∧
        let u := begun f.h 16 s; let d := descOf k bs; let c := coreNow s; let tk := (s.group s.cur).team; (u.descFails tk k bs = false) ∧
        ((s.core c).moves.length < 256) ∧ (d.total = 0) ∧ (d.digest = none) ∧ True))
    ∧ (∃ (i : Instr) (f : F3) (fx : DWord) (k : CpyKind) (s : State) (bs : List Byte) (tm : Team), ((copyOf i = some (f, fx, k)) ∧
        (unlogged s = true) ∧ (descBytes f fx s = some bs) ∧ (kvGet s.teams (s.group s.cur).team = some tm) ∧ (tm.kind = .original) ∧
        let u := begun f.h 16 s; let c := coreNow s; let tk := (s.group s.cur).team; (u.descFails tk k bs = false) ∧
        (256 ≤ (s.core c).moves.length) ∧ True))
    ∧ (∃ (i : Instr) (f : F3) (fx : DWord) (k : CpyKind) (s : State), ((copyOf i = some (f, fx, k)) ∧ (fx.getLsbD 0 = true) ∧ (readyOnce f.h 16 (f.d,
        1) [(f.a, 1)] s = true) ∧ let a := arg f.h 16 s f.a 1; let tm := s.teamOf s.cur; (tm.scratchSize < a % 2 ^ 24 + 64) ∧ True))
    ∧ (∃ (i : Instr) (f : F3) (fx : DWord) (k : CpyKind) (s : State), ((copyOf i = some (f, fx, k)) ∧ (fx.getLsbD 0 = true) ∧ (readyOnce f.h 16 (f.d,
        1) [(f.a, 1)] s = true) ∧ let a := arg f.h 16 s f.a 1; let tm := s.teamOf s.cur; (a % 2 ^ 24 + 64 ≤ tm.scratchSize) ∧ (a % 64 ≠ 0) ∧ True))
    ∧ (∃ (i : Instr) (f : F3) (fx : DWord) (k : CpyKind) (s : State), ((copyOf i = some (f, fx, k)) ∧ (fx.getLsbD 0 = true) ∧ (readyOnce f.h 16 (f.d,
        1) [(f.a, 1)] s = true) ∧ let a := arg f.h 16 s f.a 1; let tm := s.teamOf s.cur; let rank := a % 2 ^ 32 / 2 ^ 24;
        let own := rank = 0xFF ∨ rank = tm.grank; (a % 2 ^ 24 + 64 ≤ tm.scratchSize) ∧ (¬own) ∧ True)) :=
  ⟨⟨(.cpy { f3z with d := .s 20, a := .s 0 } 0), { f3z with d := .s 20, a := .s 0 }, 0, .box, (wss w0 (box 8 16)),
      ((descBytes { f3z with d := .s 20, a := .s 0 } 0 (wss w0 (box 8 16))).getD []), ((wss w0 (box 8 16)).team 1), rfl, by decide +kernel⟩,
   ⟨(.cpy { f3z with d := .s 20, a := .s 0 } 0), { f3z with d := .s 20, a := .s 0 }, 0, .box, (wss w0 (box 0x8000 16)),
       ((descBytes { f3z with d := .s 20, a := .s 0 } 0 (wss w0 (box 0x8000 16))).getD []), ((wss w0 (box 0x8000 16)).team 1), rfl,
       by decide +kernel⟩,
   ⟨(.cpy { f3z with d := .s 20, a := .s 0 } 0), { f3z with d := .s 20, a := .s 0 }, 0, .box, (wss w0 (box 0x8000 0)),
       ((descBytes { f3z with d := .s 20, a := .s 0 } 0 (wss w0 (box 0x8000 0))).getD []), ((wss w0 (box 0x8000 0)).team 1), rfl, by decide +kernel⟩,
   ⟨(.cpy { f3z with d := .s 20, a := .s 0 } 0), { f3z with d := .s 20, a := .s 0 }, 0, .box,
       (wss (wc w0 (fun k => { k with moves := List.replicate 256 (move1 0 16 .queued 0) })) (box 0x8000 16)),
       ((descBytes { f3z with d := .s 20, a := .s 0 } 0 (wss (wc w0 (fun k => { k with moves := List.replicate 256 (move1 0 16 .queued 0) })) (box 0x8000 16))).getD []),
       ((wss (wc w0 (fun k => { k with moves := List.replicate 256 (move1 0 16 .queued 0) })) (box 0x8000 16)).team 1), rfl, by decide +kernel⟩,
   ⟨(.cpyg { f3z with d := .s 20, a := .s 1 } 1), { f3z with d := .s 20, a := .s 1 }, 1, .gather, (ws w0 1 0xFF00FFC1), rfl, by decide +kernel⟩,
   ⟨(.cpyg { f3z with d := .s 20, a := .s 1 } 1), { f3z with d := .s 20, a := .s 1 }, 1, .gather, (ws w0 1 0xFF000020), rfl, by decide +kernel⟩,
   ⟨(.cpyg { f3z with d := .s 20, a := .s 1 } 1), { f3z with d := .s 20, a := .s 1 }, 1, .gather, (ws w0 1 0x01000000), rfl, by decide +kernel⟩⟩

theorem witness_CopyWaits :
    (∃ (f : F3) (s : State), ((readyOnce f.h 8 noDst [(f.b, 1)] s = true) ∧ let b := arg f.h 8 s f.b 1; (256 < b) ∧ True))
    ∧ (∃ (f : F3) (s : State), ((readyOnce f.h 8 noDst [(f.b, 1)] s = true) ∧ let b := arg f.h 8 s f.b 1; let n := (s.movesOf s.cur).length;
        let g := s.group s.cur; (b ≤ 256) ∧ (n ≤ b) ∧ (g.copyAborts = []) ∧ True))
    ∧ (∃ (f : F3) (s : State), ((readyOnce f.h 8 noDst [(f.b, 1)] s = true) ∧ let b := arg f.h 8 s f.b 1; let n := (s.movesOf s.cur).length;
        let g := s.group s.cur; (b ≤ 256) ∧ (n ≤ b) ∧ (g.copyAborts ≠ []) ∧ True))
    ∧ (∃ (f : F3) (s : State), ((readyOnce f.h 8 noDst [(f.b, 1)] s = true) ∧ let b := arg f.h 8 s f.b 1; let n := (s.movesOf s.cur).length;
        (b ≤ 256) ∧ (b < n) ∧ True))
    ∧ (∃ (f : F3) (s : State), ((readyOnce f.h 8 (f.d, 1) [] s = true) ∧ (unlogged s = true) ∧ (constVal .w f.b = 0) ∧ True))
    ∧ (∃ (f : F3) (s : State), ((readyOnce f.h 8 (f.d, 1) [] s = true) ∧ (unlogged s = true) ∧ (constVal .w f.b = 1) ∧ True))
    ∧ (∃ (f : F3) (s : State), ((readyOnce f.h 8 (f.d, 1) [] s = true) ∧ (unlogged s = true) ∧ (constVal .w f.b = 2) ∧ True))
    ∧ (∃ (f : F3) (s : State), ((readyOnce f.h 8 (f.d, 1) [] s = true) ∧ (unlogged s = true) ∧ (constVal .w f.b = 3) ∧ True)) :=
  ⟨⟨{ f3z with b := .s 1 }, (ws w0 1 257), by decide +kernel⟩,
   ⟨{ f3z with b := .int 1 }, (moving (move1 0 16 .queued 0)), by decide +kernel⟩,
   ⟨{ f3z with b := .int 1 }, (wg w0 (fun g => { g with copyAborts := [true, false] })), by decide +kernel⟩,
   ⟨f3z, (moving (move1 0 16 .queued 0)), by decide +kernel⟩,
   ⟨{ f3z with d := .s 3, b := .int 0 }, (moving (move1 0 16 .queued 0)), by decide +kernel⟩,
   ⟨{ f3z with d := .s 3, b := .int 1 }, (moving (move1 0 16 .queued 0)), by decide +kernel⟩,
   ⟨{ f3z with d := .s 3, b := .int 2 }, (moving (move1 0 16 .queued 0)), by decide +kernel⟩,
   ⟨{ f3z with d := .s 3, b := .int 3 }, (moving (move1 0 16 .queued 0)), by decide +kernel⟩⟩

theorem witness_XcpyQueues :
    (∃ (f : F3) (fx : DWord) (s : State), ((readyOnce f.h 16 noDst [(f.a, 2)] s = true) ∧ let a := arg f.h 16 s f.a 2; (a % 64 ≠ 0) ∧ True))
    ∧ (∃ (f : F3) (fx : DWord) (s : State), ((readyOnce f.h 16 noDst [(f.a, 2)] s = true) ∧ let a := arg f.h 16 s f.a 2; (a % 64 = 0) ∧
        ∃ v v₁ v₂ v₃ : State, (∃ ps ws, ((sourceCheck s.cur 1 (sourceParts a 64) (begun f.h 16 s) = (.ok ps, v)) ∧ (v.sourceRead s.cur ps = some (ws,
        v₁)) ∧ let bs := ws.flatMap (fun w => Word.toBytes 4 w.val.toNat); let g := fun i => descField bs 0 8 i; let len := g 2;
        let bad := g 3 % 8 ≠ 0 ∨ g 5 % 16 ≠ 0 ∨ 2 ^ 40 < len ∨ (bs.drop 48).any (· ≠ 0) = true; (bad) ∧ True))))
    ∧ (∃ (f : F3) (fx : DWord) (s : State), ((readyOnce f.h 16 noDst [(f.a, 2)] s = true) ∧ let a := arg f.h 16 s f.a 2;
        let eng := Word.bits fx.toNat 5 0; (a % 64 = 0) ∧ ∃ v v₁ v₂ v₃ : State, (∃ ps ws,
        ((sourceCheck s.cur 1 (sourceParts a 64) (begun f.h 16 s) = (.ok ps, v)) ∧ (v.sourceRead s.cur ps = some (ws, v₁)) ∧
        let bs := ws.flatMap (fun w => Word.toBytes 4 w.val.toNat); let g := fun i => descField bs 0 8 i; let len := g 2;
        let bad := g 3 % 8 ≠ 0 ∨ g 5 % 16 ≠ 0 ∨ 2 ^ 40 < len ∨ (bs.drop 48).any (· ≠ 0) = true; (¬bad) ∧ (rangeCheck s.cur ⟨true, false, false,
        false⟩ (g 0 + len) (len / 4096 + 2) (g 0) v₁ = (none, v₂)) ∧ (rangeCheck s.cur ⟨false, true, false,
        false⟩ (g 1 + len) (len / 4096 + 2) (g 1) v₂ = (none, v₃)) ∧ ((v₃.teamOf s.cur).kind = .original) ∧ (0 < len) ∧ (eng < 32) ∧
        ((v₃.engine eng).ring.length < 64) ∧ True))))
    ∧ (∃ (f : F3) (fx : DWord) (s : State), ((readyOnce f.h 16 noDst [(f.a, 2)] s = true) ∧ let a := arg f.h 16 s f.a 2;
        let eng := Word.bits fx.toNat 5 0; (a % 64 = 0) ∧ ∃ v v₁ v₂ v₃ : State, (∃ ps ws,
        ((sourceCheck s.cur 1 (sourceParts a 64) (begun f.h 16 s) = (.ok ps, v)) ∧ (v.sourceRead s.cur ps = some (ws, v₁)) ∧
        let bs := ws.flatMap (fun w => Word.toBytes 4 w.val.toNat); let g := fun i => descField bs 0 8 i; let len := g 2;
        let bad := g 3 % 8 ≠ 0 ∨ g 5 % 16 ≠ 0 ∨ 2 ^ 40 < len ∨ (bs.drop 48).any (· ≠ 0) = true; (¬bad) ∧ (rangeCheck s.cur ⟨true, false, false,
        false⟩ (g 0 + len) (len / 4096 + 2) (g 0) v₁ = (none, v₂)) ∧ (rangeCheck s.cur ⟨false, true, false,
        false⟩ (g 1 + len) (len / 4096 + 2) (g 1) v₂ = (none, v₃)) ∧ ((v₃.teamOf s.cur).kind = .original) ∧ (0 < len) ∧ (eng < 32) ∧
        (64 ≤ (v₃.engine eng).ring.length) ∧ True)))) :=
  ⟨⟨{ f3z with a := .s 2 }, 0, (ws w0 2 4), by decide +kernel⟩,
   ⟨{ f3z with a := .s 2 }, 0, (wm (ws w0 2 0x8000) 0x8018 (Word.toBytes 8 4)), by decide +kernel, by decide +kernel,
       (sourceCheck 2 1 (sourceParts 0x8000 64) (begun hd 16 (wm (ws w0 2 0x8000) 0x8018 (Word.toBytes 8 4)))).2,
       ((State.sourceRead (sourceCheck 2 1 (sourceParts 0x8000 64) (begun hd 16 (wm (ws w0 2 0x8000) 0x8018 (Word.toBytes 8 4)))).2 2 (eVal [] (sourceCheck 2 1 (sourceParts 0x8000 64) (begun hd 16 (wm (ws w0 2 0x8000) 0x8018 (Word.toBytes 8 4)))))).getD ([],
       w0)).2, (rangeCheck 2 ⟨true, false, false,
       false⟩ 16 2 0 ((State.sourceRead (sourceCheck 2 1 (sourceParts 0x8000 64) (begun hd 16 (wm (ws w0 2 0x8000) 0x8018 (Word.toBytes 8 4)))).2 2 (eVal [] (sourceCheck 2 1 (sourceParts 0x8000 64) (begun hd 16 (wm (ws w0 2 0x8000) 0x8018 (Word.toBytes 8 4)))))).getD ([],
       w0)).2).2, (rangeCheck 2 ⟨false, true, false, false⟩ 16 2 0 (rangeCheck 2 ⟨true, false, false,
       false⟩ 16 2 0 ((State.sourceRead (sourceCheck 2 1 (sourceParts 0x8000 64) (begun hd 16 (wm (ws w0 2 0x8000) 0x8018 (Word.toBytes 8 4)))).2 2 (eVal [] (sourceCheck 2 1 (sourceParts 0x8000 64) (begun hd 16 (wm (ws w0 2 0x8000) 0x8018 (Word.toBytes 8 4)))))).getD ([],
       w0)).2).2).2, (eVal [] (sourceCheck 2 1 (sourceParts 0x8000 64) (begun hd 16 (wm (ws w0 2 0x8000) 0x8018 (Word.toBytes 8 4))))),
       ((State.sourceRead (sourceCheck 2 1 (sourceParts 0x8000 64) (begun hd 16 (wm (ws w0 2 0x8000) 0x8018 (Word.toBytes 8 4)))).2 2 (eVal [] (sourceCheck 2 1 (sourceParts 0x8000 64) (begun hd 16 (wm (ws w0 2 0x8000) 0x8018 (Word.toBytes 8 4)))))).getD ([],
       w0)).1, pair_ok (by decide +kernel), by decide +kernel⟩,
   ⟨{ f3z with a := .s 2 }, 0, (wm (ws w0 2 0x8000) 0x8010 (Word.toBytes 8 16)), by decide +kernel, by decide +kernel,
       (sourceCheck 2 1 (sourceParts 0x8000 64) (begun hd 16 (wm (ws w0 2 0x8000) 0x8010 (Word.toBytes 8 16)))).2,
       ((State.sourceRead (sourceCheck 2 1 (sourceParts 0x8000 64) (begun hd 16 (wm (ws w0 2 0x8000) 0x8010 (Word.toBytes 8 16)))).2 2 (eVal [] (sourceCheck 2 1 (sourceParts 0x8000 64) (begun hd 16 (wm (ws w0 2 0x8000) 0x8010 (Word.toBytes 8 16)))))).getD ([],
       w0)).2, (rangeCheck 2 ⟨true, false, false,
       false⟩ 16 2 0 ((State.sourceRead (sourceCheck 2 1 (sourceParts 0x8000 64) (begun hd 16 (wm (ws w0 2 0x8000) 0x8010 (Word.toBytes 8 16)))).2 2 (eVal [] (sourceCheck 2 1 (sourceParts 0x8000 64) (begun hd 16 (wm (ws w0 2 0x8000) 0x8010 (Word.toBytes 8 16)))))).getD ([],
       w0)).2).2, (rangeCheck 2 ⟨false, true, false, false⟩ 16 2 0 (rangeCheck 2 ⟨true, false, false,
       false⟩ 16 2 0 ((State.sourceRead (sourceCheck 2 1 (sourceParts 0x8000 64) (begun hd 16 (wm (ws w0 2 0x8000) 0x8010 (Word.toBytes 8 16)))).2 2 (eVal [] (sourceCheck 2 1 (sourceParts 0x8000 64) (begun hd 16 (wm (ws w0 2 0x8000) 0x8010 (Word.toBytes 8 16)))))).getD ([],
       w0)).2).2).2, (eVal [] (sourceCheck 2 1 (sourceParts 0x8000 64) (begun hd 16 (wm (ws w0 2 0x8000) 0x8010 (Word.toBytes 8 16))))),
       ((State.sourceRead (sourceCheck 2 1 (sourceParts 0x8000 64) (begun hd 16 (wm (ws w0 2 0x8000) 0x8010 (Word.toBytes 8 16)))).2 2 (eVal [] (sourceCheck 2 1 (sourceParts 0x8000 64) (begun hd 16 (wm (ws w0 2 0x8000) 0x8010 (Word.toBytes 8 16)))))).getD ([],
       w0)).1, pair_ok (by decide +kernel), by decide +kernel⟩,
   ⟨{ f3z with a := .s 2 }, 0,
       (({ (wm (ws w0 2 0x8000) 0x8010 (Word.toBytes 8 16)) with engines := [(0, ⟨List.replicate 64 cmd1, none⟩)] }) : State), by decide +kernel,
       by decide +kernel, (sourceCheck 2 1 (sourceParts 0x8000 64) (begun hd 16 (({ (wm (ws w0 2 0x8000) 0x8010 (Word.toBytes 8 16)) with engines := [(0, ⟨List.replicate 64 cmd1, none⟩)] }) : State))).2,
       ((State.sourceRead (sourceCheck 2 1 (sourceParts 0x8000 64) (begun hd 16 (({ (wm (ws w0 2 0x8000) 0x8010 (Word.toBytes 8 16)) with engines := [(0, ⟨List.replicate 64 cmd1, none⟩)] }) : State))).2 2 (eVal [] (sourceCheck 2 1 (sourceParts 0x8000 64) (begun hd 16 (({ (wm (ws w0 2 0x8000) 0x8010 (Word.toBytes 8 16)) with engines := [(0, ⟨List.replicate 64 cmd1, none⟩)] }) : State))))).getD ([],
       w0)).2, (rangeCheck 2 ⟨true, false, false,
       false⟩ 16 2 0 ((State.sourceRead (sourceCheck 2 1 (sourceParts 0x8000 64) (begun hd 16 (({ (wm (ws w0 2 0x8000) 0x8010 (Word.toBytes 8 16)) with engines := [(0, ⟨List.replicate 64 cmd1, none⟩)] }) : State))).2 2 (eVal [] (sourceCheck 2 1 (sourceParts 0x8000 64) (begun hd 16 (({ (wm (ws w0 2 0x8000) 0x8010 (Word.toBytes 8 16)) with engines := [(0, ⟨List.replicate 64 cmd1, none⟩)] }) : State))))).getD ([],
       w0)).2).2, (rangeCheck 2 ⟨false, true, false, false⟩ 16 2 0 (rangeCheck 2 ⟨true, false, false,
       false⟩ 16 2 0 ((State.sourceRead (sourceCheck 2 1 (sourceParts 0x8000 64) (begun hd 16 (({ (wm (ws w0 2 0x8000) 0x8010 (Word.toBytes 8 16)) with engines := [(0, ⟨List.replicate 64 cmd1, none⟩)] }) : State))).2 2 (eVal [] (sourceCheck 2 1 (sourceParts 0x8000 64) (begun hd 16 (({ (wm (ws w0 2 0x8000) 0x8010 (Word.toBytes 8 16)) with engines := [(0, ⟨List.replicate 64 cmd1, none⟩)] }) : State))))).getD ([],
       w0)).2).2).2, (eVal [] (sourceCheck 2 1 (sourceParts 0x8000 64) (begun hd 16 (({ (wm (ws w0 2 0x8000) 0x8010 (Word.toBytes 8 16)) with engines := [(0, ⟨List.replicate 64 cmd1, none⟩)] }) : State)))),
       ((State.sourceRead (sourceCheck 2 1 (sourceParts 0x8000 64) (begun hd 16 (({ (wm (ws w0 2 0x8000) 0x8010 (Word.toBytes 8 16)) with engines := [(0, ⟨List.replicate 64 cmd1, none⟩)] }) : State))).2 2 (eVal [] (sourceCheck 2 1 (sourceParts 0x8000 64) (begun hd 16 (({ (wm (ws w0 2 0x8000) 0x8010 (Word.toBytes 8 16)) with engines := [(0, ⟨List.replicate 64 cmd1, none⟩)] }) : State))))).getD ([],
       w0)).1, pair_ok (by decide +kernel), by decide +kernel⟩⟩

theorem witness_MoverSteps :
    (∃ (c : Nat) (s : State) (m : Move), (((s.core c).moves.find? (fun m => m.st == .queued && s.moverOn m.team) = some m) ∧
        (((s.core c).moves.filter (fun m => m.st == .working)).length < 8) ∧ (s.writesDone m.after = true) ∧ True))
    ∧ (∃ (c id : Nat) (s : State) (m : Move), ((s.move c id = some m) ∧ (m.st = .working) ∧ (s.moverOn m.team = true) ∧ let p := pieceAt m;
        (m.pos < m.d.total) ∧ (m.d.rows = none) ∧ ∃ cells u v, ((s.pieceRead m p.1 p.2.1 p.2.2 = .ok cells u) ∧
        (u.pieceWrite m p.1 p.2.1 cells = .ok () v) ∧ True)))
    ∧ (∃ (c id : Nat) (s : State) (m : Move), ((s.move c id = some m) ∧ (m.st = .working) ∧ (s.moverOn m.team = true) ∧ let p := pieceAt m;
        (m.pos < m.d.total) ∧ (m.d.rows = none) ∧ ∃ va u, ((s.pieceRead m p.1 p.2.1 p.2.2 = .fault va u) ∧ True)))
    ∧ (∃ (c id : Nat) (s : State) (m : Move), ((s.move c id = some m) ∧ (m.st = .working) ∧ (s.moverOn m.team = true) ∧ let p := pieceAt m;
        (m.pos < m.d.total) ∧ (m.d.rows = none) ∧ ∃ code va u, ((s.pieceRead m p.1 p.2.1 p.2.2 = .abort code va u) ∧ True)))
    ∧ (∃ (c id : Nat) (s : State) (m : Move), ((s.move c id = some m) ∧ (m.st = .working) ∧ (s.moverOn m.team = true) ∧ (m.d.total ≤ m.pos) ∧
        (m.d.digest = none) ∧ True)) :=
  ⟨⟨0, (moving (move1 0 16 .queued 0)), (move1 0 16 .queued 0), by decide +kernel⟩,
   ⟨0, ((move1 0x8000 16 .working 0)).id, (moving (move1 0x8000 16 .working 0)), (move1 0x8000 16 .working 0),
       four (by decide +kernel) ⟨by decide +kernel,
       (mVal [] ((((moving (move1 0x8000 16 .working 0))).pieceRead (move1 0x8000 16 .working 0) (pieceAt (move1 0x8000 16 .working 0)).1 (pieceAt (move1 0x8000 16 .working 0)).2.1 (pieceAt (move1 0x8000 16 .working 0)).2.2))),
       (mState ((((moving (move1 0x8000 16 .working 0))).pieceRead (move1 0x8000 16 .working 0) (pieceAt (move1 0x8000 16 .working 0)).1 (pieceAt (move1 0x8000 16 .working 0)).2.1 (pieceAt (move1 0x8000 16 .working 0)).2.2))),
       (mState ((mState ((((moving (move1 0x8000 16 .working 0))).pieceRead (move1 0x8000 16 .working 0) (pieceAt (move1 0x8000 16 .working 0)).1 (pieceAt (move1 0x8000 16 .working 0)).2.1 (pieceAt (move1 0x8000 16 .working 0)).2.2))).pieceWrite (move1 0x8000 16 .working 0) (pieceAt (move1 0x8000 16 .working 0)).1 (pieceAt (move1 0x8000 16 .working 0)).2.1 (mVal [] ((((moving (move1 0x8000 16 .working 0))).pieceRead (move1 0x8000 16 .working 0) (pieceAt (move1 0x8000 16 .working 0)).1 (pieceAt (move1 0x8000 16 .working 0)).2.1 (pieceAt (move1 0x8000 16 .working 0)).2.2))))),
       mres_ok (by decide +kernel), mres_ok (by decide +kernel), trivial⟩⟩,
   ⟨0, ((move1 (2 ^ 41) 16 .working 0)).id, (moving (move1 (2 ^ 41) 16 .working 0)), (move1 (2 ^ 41) 16 .working 0),
       four (by decide +kernel) ⟨by decide +kernel,
       (mVa ((((moving (move1 (2 ^ 41) 16 .working 0))).pieceRead (move1 (2 ^ 41) 16 .working 0) (pieceAt (move1 (2 ^ 41) 16 .working 0)).1 (pieceAt (move1 (2 ^ 41) 16 .working 0)).2.1 (pieceAt (move1 (2 ^ 41) 16 .working 0)).2.2))),
       (mState ((((moving (move1 (2 ^ 41) 16 .working 0))).pieceRead (move1 (2 ^ 41) 16 .working 0) (pieceAt (move1 (2 ^ 41) 16 .working 0)).1 (pieceAt (move1 (2 ^ 41) 16 .working 0)).2.1 (pieceAt (move1 (2 ^ 41) 16 .working 0)).2.2))),
       mres_fault (by decide +kernel), trivial⟩⟩,
   ⟨0, ((move1 0x8000 16 .working 0)).id,
       (({ (moving (move1 0x8000 16 .working 0)) with ctxs := [(0, { Ctx.reset with wen := true, ww := true, wlimit := 2 ^ 40 })] }) : State),
       (move1 0x8000 16 .working 0), four (by decide +kernel) ⟨by decide +kernel,
       (mCode ((((({ (moving (move1 0x8000 16 .working 0)) with ctxs := [(0, { Ctx.reset with wen := true, ww := true, wlimit := 2 ^ 40 })] }) : State)).pieceRead (move1 0x8000 16 .working 0) (pieceAt (move1 0x8000 16 .working 0)).1 (pieceAt (move1 0x8000 16 .working 0)).2.1 (pieceAt (move1 0x8000 16 .working 0)).2.2))),
       (mVa ((((({ (moving (move1 0x8000 16 .working 0)) with ctxs := [(0, { Ctx.reset with wen := true, ww := true, wlimit := 2 ^ 40 })] }) : State)).pieceRead (move1 0x8000 16 .working 0) (pieceAt (move1 0x8000 16 .working 0)).1 (pieceAt (move1 0x8000 16 .working 0)).2.1 (pieceAt (move1 0x8000 16 .working 0)).2.2))),
       (mState ((((({ (moving (move1 0x8000 16 .working 0)) with ctxs := [(0, { Ctx.reset with wen := true, ww := true, wlimit := 2 ^ 40 })] }) : State)).pieceRead (move1 0x8000 16 .working 0) (pieceAt (move1 0x8000 16 .working 0)).1 (pieceAt (move1 0x8000 16 .working 0)).2.1 (pieceAt (move1 0x8000 16 .working 0)).2.2))),
       mres_abort (by decide +kernel), trivial⟩⟩,
   ⟨0, (move1 0x8000 16 .working 16).id, (moving (move1 0x8000 16 .working 16)), (move1 0x8000 16 .working 16), by decide +kernel⟩⟩

theorem witness_CopyEngineSteps :
    (∃ (e : Nat) (s : State) (c : CopyCmd) (rest : List CopyCmd), (((s.engine e).busy = none) ∧ ((s.engine e).ring = c :: rest) ∧
        (s.writesDone c.after = true) ∧ True))
    ∧ (∃ (e : Nat) (s : State) (c : CopyCmd), (((s.engine e).busy = some c) ∧ True)) :=
  ⟨⟨0, (({ w0 with engines := [(0, ⟨[cmd1], none⟩)] }) : State), cmd1, [], by decide +kernel⟩,
   ⟨0, (({ w0 with engines := [(0, ⟨[], some cmd1⟩)] }) : State), cmd1, by decide +kernel, trivial⟩⟩

theorem witness_TileConfiguration :
    (∃ (f : F3) (s : State), ((readyMat f.h 8 noDst [(f.a, 1), (f.b, 1)] s = true) ∧ let t := constVal .w f.d;
        let taken := (quadNow s).tileTaken (teamNow s) t; (taken = true) ∧ True))
    ∧ (∃ (f : F3) (s : State), ((readyMat f.h 8 noDst [(f.a, 1), (f.b, 1)] s = true) ∧ let t := constVal .w f.d; let rows := arg f.h 8 s f.a 1;
        let bytes := arg f.h 8 s f.b 1; let taken := (quadNow s).tileTaken (teamNow s) t; (rows = 0) ∧ (bytes = 0) ∧ (taken = false) ∧
        (((quadNow s).tile t).owner = some (teamNow s)) ∧ True))
    ∧ (∃ (f : F3) (s : State), ((readyMat f.h 8 noDst [(f.a, 1), (f.b, 1)] s = true) ∧ let t := constVal .w f.d; let rows := arg f.h 8 s f.a 1;
        let bytes := arg f.h 8 s f.b 1; let taken := (quadNow s).tileTaken (teamNow s) t; (rows = 0) ∧ (bytes = 0) ∧ (taken = false) ∧
        (((quadNow s).tile t).owner ≠ some (teamNow s)) ∧ True))
    ∧ (∃ (f : F3) (s : State), ((readyMat f.h 8 noDst [(f.a, 1), (f.b, 1)] s = true) ∧ let rows := arg f.h 8 s f.a 1; let bytes := arg f.h 8 s f.b 1;
        let good := 16 ≤ rows ∧ rows ≤ 128 ∧ rows % 16 = 0 ∧ 16 ≤ bytes ∧ bytes ≤ 256 ∧ bytes % 16 = 0; (¬(rows = 0 ∧ bytes = 0)) ∧ (¬good) ∧ True))
    ∧ (∃ (f : F3) (s : State), ((readyMat f.h 8 noDst [(f.a, 1), (f.b, 1)] s = true) ∧ let t := constVal .w f.d; let rows := arg f.h 8 s f.a 1;
        let bytes := arg f.h 8 s f.b 1; let taken := (quadNow s).tileTaken (teamNow s) t;
        let good := 16 ≤ rows ∧ rows ≤ 128 ∧ rows % 16 = 0 ∧ 16 ≤ bytes ∧ bytes ≤ 256 ∧ bytes % 16 = 0; (good) ∧ (taken = false) ∧
        (canReserve (quadNow s) (teamNow s) = true) ∧ True))
    ∧ (∃ (f : F3) (s : State), ((readyMat f.h 8 noDst [(f.a, 1), (f.b, 1)] s = true) ∧ let t := constVal .w f.d; let rows := arg f.h 8 s f.a 1;
        let bytes := arg f.h 8 s f.b 1; let taken := (quadNow s).tileTaken (teamNow s) t;
        let good := 16 ≤ rows ∧ rows ≤ 128 ∧ rows % 16 = 0 ∧ 16 ≤ bytes ∧ bytes ≤ 256 ∧ bytes % 16 = 0; (good) ∧ (taken = false) ∧
        (canReserve (quadNow s) (teamNow s) = false) ∧ True))
    ∧ (∃ (f : F3) (s : State), ((readyMat f.h 8 noDst [] s = true) ∧ let t := constVal .w f.d; ((shape s t).1 ≠ 0) ∧ True))
    ∧ (∃ (f : F3) (s : State), ((readyMat f.h 8 noDst [] s = true) ∧ let t := constVal .w f.d; let a := constVal .w f.a; ((shape s t).1 ≠ 0) ∧
        (shape s t = shape s a) ∧ True))
    ∧ (∃ (f : F3) (s : State), ((readyMat f.h 8 noDst [] s = true) ∧ let t := constVal .w f.d; ((shape s t).1 = 0) ∧ True))
    ∧ (∃ (f : F3) (s : State), ((readyMat f.h 8 noDst [] s = true) ∧ let t := constVal .w f.d; let a := constVal .w f.a; (shape s t ≠ shape s a) ∧
        True))
    ∧ (∃ (f : F3) (s : State), ((readyMat f.h 8 noDst [(f.b, 1)] s = true) ∧ let t := constVal .w f.d; let sh := shape s t; (sh.1 = 0) ∧ True))
    ∧ (∃ (f : F3) (s : State), ((readyMat f.h 8 noDst [(f.b, 1)] s = true) ∧ let t := constVal .w f.d; let sh := shape s t; (sh.1 ≠ 0) ∧
        (((quadNow s).tile t).tag ≠ 0xE) ∧ True))
    ∧ (∃ (f : F3) (s : State), ((readyMat f.h 8 noDst [(f.b, 1)] s = true) ∧ let t := constVal .w f.d; let sh := shape s t; (sh.1 ≠ 0) ∧
        (((quadNow s).tile t).tag = 0xE) ∧ True)) :=
  ⟨⟨{ f3z with d := .int 0, a := .int 16, b := .int 16 }, (tiles1 [(0, tile1 9 16 16 0)]), by decide +kernel⟩,
   ⟨{ f3z with d := .int 0 }, (tiles1 [(0, tile1 1 16 16 0)]), by decide +kernel⟩,
   ⟨{ f3z with d := .int 0 }, w0, by decide +kernel⟩,
   ⟨{ f3z with d := .int 0, a := .int 1, b := .int 16 }, w0, by decide +kernel⟩,
   ⟨{ f3z with d := .int 0, a := .int 16, b := .int 16 }, w0, by decide +kernel⟩,
   ⟨{ f3z with d := .int 0, a := .int 16, b := .int 16 }, (wq w0 (fun q => { q with res := (List.range 16).map (fun i => (i, ⟨100 + i, 0, []⟩)) })),
       by decide +kernel⟩,
   ⟨{ f3z with d := .int 0, b := .int 8 }, (tiles1 [(0, tile1 1 16 16 0)]), by decide +kernel⟩,
   ⟨{ f3z with d := .int 0, a := .int 1 }, (tiles1 [(0, tile1 1 16 16 0), (1, tile1 1 16 16 8)]), by decide +kernel⟩,
   ⟨{ f3z with d := .int 0, a := .int 1 }, w0, by decide +kernel⟩,
   ⟨{ f3z with d := .int 0, a := .int 1 }, (tiles1 [(0, tile1 1 16 16 0)]), by decide +kernel⟩,
   ⟨{ f3z with d := .int 0, b := .int 1 }, w0, by decide +kernel⟩,
   ⟨{ f3z with d := .int 0, b := .int 1 }, (tiles1 [(0, tile1 1 16 16 0)]), by decide +kernel⟩,
   ⟨{ f3z with d := .int 0, b := .int 1 }, (tiles1 [(0, tile1 1 16 16 0xE)]), by decide +kernel⟩⟩

theorem witness_TileLoads :
    (∃ (f : F3) (fx : DWord) (s : State), ((readyMat f.h 16 noDst [(f.a, 1), (f.b, 1), (f.c, 1)] s = true) ∧ let pitch := arg f.h 16 s f.b 1;
        let badP := pitch = 0 ∨ pitch % 16 ≠ 0; (badP) ∧ True))
    ∧ (∃ (f : F3) (fx : DWord) (s : State), ((readyMat f.h 16 noDst [(f.a, 1), (f.b, 1), (f.c, 1)] s = true) ∧ let t := constVal .w f.d;
        let a := arg f.h 16 s f.a 1; let pitch := arg f.h 16 s f.b 1; let c := arg f.h 16 s f.c 1; let sh := shape s t;
        let badP := pitch = 0 ∨ pitch % 16 ≠ 0; let tag := Word.bits fx.toNat 3 0; let fs := tldFeet tag (fx.getLsbD 4) sh.1 sh.2 a pitch c;
        (¬badP) ∧ (feet (begun f.h 16 s) fs = true) ∧ (sh.1 = 0) ∧ True))
    ∧ (∃ (f : F3) (fx : DWord) (s : State), ((readyMat f.h 16 noDst [(f.a, 1), (f.b, 1), (f.c, 1)] s = true) ∧ let t := constVal .w f.d;
        let a := arg f.h 16 s f.a 1; let pitch := arg f.h 16 s f.b 1; let c := arg f.h 16 s f.c 1; let sh := shape s t;
        let badP := pitch = 0 ∨ pitch % 16 ≠ 0; let tag := Word.bits fx.toNat 3 0; let fs := tldFeet tag (fx.getLsbD 4) sh.1 sh.2 a pitch c;
        (¬badP) ∧ (feet (begun f.h 16 s) fs = true) ∧ (sh.1 ≠ 0) ∧ True))
    ∧ (∃ (f : F3) (fx : DWord) (s : State), ((readyMat f.h 16 noDst [(f.a, 1), (f.b, 1), (f.c, 1)] s = true) ∧ let t := constVal .w f.d;
        let pitch := arg f.h 16 s f.b 1; let pp := Word.bits fx.toNat 15 0; let sh := shape s t; let k := sh.2 / 2;
        let badP := pitch = 0 ∨ pitch % 16 ≠ 0 ∨ 8 * pp < k; (badP) ∧ True))
    ∧ (∃ (f : F3) (fx : DWord) (s : State), ((readyMat f.h 16 noDst [(f.a, 1), (f.b, 1), (f.c, 1)] s = true) ∧ let t := constVal .w f.d;
        let a := arg f.h 16 s f.a 1; let pitch := arg f.h 16 s f.b 1; let c := arg f.h 16 s f.c 1; let pp := Word.bits fx.toNat 15 0;
        let sh := shape s t; let k := sh.2 / 2; let badP := pitch = 0 ∨ pitch % 16 ≠ 0 ∨ 8 * pp < k;
        let fs := [(a, rowsFoot sh.1 pitch (k / 2), 16), (c, rowsFoot sh.1 pp (4 * ((k + 31) / 32)), 16)]; (¬badP) ∧
        (feet (begun f.h 16 s) fs = true) ∧ (sh.1 = 0) ∧ True))
    ∧ (∃ (f : F3) (fx : DWord) (s : State), ((readyMat f.h 16 noDst [(f.a, 1), (f.b, 1), (f.c, 1)] s = true) ∧ let t := constVal .w f.d;
        let a := arg f.h 16 s f.a 1; let pitch := arg f.h 16 s f.b 1; let c := arg f.h 16 s f.c 1; let pp := Word.bits fx.toNat 15 0;
        let sh := shape s t; let k := sh.2 / 2; let badP := pitch = 0 ∨ pitch % 16 ≠ 0 ∨ 8 * pp < k;
        let fs := [(a, rowsFoot sh.1 pitch (k / 2), 16), (c, rowsFoot sh.1 pp (4 * ((k + 31) / 32)), 16)]; (¬badP) ∧
        (feet (begun f.h 16 s) fs = true) ∧ (sh.1 ≠ 0) ∧ True)) :=
  ⟨⟨{ f3z with d := .int 0, a := .s 1, b := .int 8, c := .s 1 }, 8, (ws (tiles1 [(0, tile1 1 16 16 8)]) 1 0xFF000000), by decide +kernel⟩,
   ⟨{ f3z with d := .int 0, a := .s 1, b := .int 16, c := .s 1 }, 8, (ws w0 1 0xFF000000), by decide +kernel⟩,
   ⟨{ f3z with d := .int 0, a := .s 1, b := .int 16, c := .s 1 }, 8, (ws (tiles1 [(0, tile1 1 16 16 8)]) 1 0xFF000000), by decide +kernel⟩,
   ⟨{ f3z with d := .int 0, a := .s 1, b := .int 16, c := .s 1 }, 0, (ws (tiles1 [(0, tile1 1 16 16 8)]) 1 0xFF000000), by decide +kernel⟩,
   ⟨{ f3z with d := .int 0, a := .s 1, b := .int 16, c := .s 1 }, 1, (ws w0 1 0xFF000000), by decide +kernel⟩,
   ⟨{ f3z with d := .int 0, a := .s 1, b := .int 16, c := .s 1 }, 1, (ws (tiles1 [(0, tile1 1 16 16 8)]) 1 0xFF000000), by decide +kernel⟩⟩

theorem witness_MatrixMultiply :
    (∃ (f : F3) (fx : DWord) (s : State), ((readyMat f.h 16 noDst [] s = true) ∧ let ta := constVal .w f.d; let tb := constVal .w f.a;
        let reg := regionOf (Word.bits fx.toNat 7 0);
        let chk := (quadNow s).mmaOp (teamNow s) ta tb reg none (s.effClass (s.issue f.h 16) f.h.pcl .matrix); (f.b = .z) ∧ ∃ o, ((chk = .ok o) ∧
        True)))
    ∧ (∃ (f : F3) (fx : DWord) (s : State), ((readyMat f.h 16 noDst [] s = true) ∧ let ta := constVal .w f.d; let tb := constVal .w f.a;
        let reg := regionOf (Word.bits fx.toNat 7 0);
        let chk := (quadNow s).mmaOp (teamNow s) ta tb reg none (s.effClass (s.issue f.h 16) f.h.pcl .matrix); (f.b = .z) ∧ ∃ code,
        ((chk = .error code) ∧ True)))
    ∧ (∃ (f : F3) (fx : DWord) (s : State), ((readyMat f.h 16 noDst [] s = true) ∧ let ta := constVal .w f.d; let tb := constVal .w f.a;
        let reg := regionOf (Word.bits fx.toNat 7 0);
        let chk := (quadNow s).mmaOp (teamNow s) ta tb reg none (s.effClass (s.issue f.h 16) f.h.pcl .matrix); (f.b ≠ .z) ∧ ∃ o c, ((chk = .ok o) ∧
        (kvGet (quadNow s).conv (constVal .w f.b) = some c) ∧ (c.owner = teamNow s) ∧ (c.members.testBit (s.group s.cur).gid = true) ∧
        (c.signed = []) ∧ (c.op = none) ∧ (s.releaseReady s.cur .team = true) ∧ ((s.issue f.h 16).ex.length < c.expect) ∧ True)))
    ∧ (∃ (f : F3) (fx : DWord) (s : State), ((f.b = .z) ∧ (readyMat f.h 16 noDst [(f.c, 1)] s = true) ∧ let ta := constVal .w f.d;
        let tb := constVal .w f.a; let reg := regionOf (Word.bits fx.toNat 7 0); let a := arg f.h 16 s f.c 1;
        let n := if (shape s ta).1 = 0 then 0 else reg.m * (2 * tagK ((quadNow s).tile ta).tag (shape s ta).2 / 8);
        let md := ((begun f.h 16 s).scrCells (teamNow s) (a % 2 ^ 24) n).map (fun c => (c.b, c.pois));
        let chk := (quadNow s).mmaOp (teamNow s) ta tb reg (some md) (s.effClass (s.issue f.h 16) f.h.pcl .matrix); (feet (begun f.h 16 s) [(a, n,
        16)] = true) ∧ ∃ o, ((chk = .ok o) ∧ (metaBad (md.map (·.1)) = false) ∧ True)))
    ∧ (∃ (f : F3) (fx : DWord) (s : State), ((f.b = .z) ∧ (readyMat f.h 16 noDst [(f.c, 1)] s = true) ∧ let ta := constVal .w f.d;
        let tb := constVal .w f.a; let reg := regionOf (Word.bits fx.toNat 7 0); let a := arg f.h 16 s f.c 1;
        let n := if (shape s ta).1 = 0 then 0 else reg.m * (2 * tagK ((quadNow s).tile ta).tag (shape s ta).2 / 8);
        let md := ((begun f.h 16 s).scrCells (teamNow s) (a % 2 ^ 24) n).map (fun c => (c.b, c.pois));
        let chk := (quadNow s).mmaOp (teamNow s) ta tb reg (some md) (s.effClass (s.issue f.h 16) f.h.pcl .matrix); (feet (begun f.h 16 s) [(a, n,
        16)] = true) ∧ ∃ o, ((chk = .ok o) ∧ (metaBad (md.map (·.1)) = true) ∧ True)))
    ∧ (∃ (f : F3) (fx : DWord) (s : State), ((f.b = .z) ∧ (readyMat f.h 16 noDst [(f.c, 1)] s = true) ∧ let ta := constVal .w f.d;
        let tb := constVal .w f.a; let reg := regionOf (Word.bits fx.toNat 7 0); let a := arg f.h 16 s f.c 1;
        let n := if (shape s ta).1 = 0 then 0 else reg.m * (2 * tagK ((quadNow s).tile ta).tag (shape s ta).2 / 8);
        let md := ((begun f.h 16 s).scrCells (teamNow s) (a % 2 ^ 24) n).map (fun c => (c.b, c.pois));
        let chk := (quadNow s).mmaOp (teamNow s) ta tb reg (some md) (s.effClass (s.issue f.h 16) f.h.pcl .matrix); (feet (begun f.h 16 s) [(a, n,
        16)] = true) ∧ ∃ code, ((chk = .error code) ∧ True)))
    ∧ (∃ (f : F3) (fx : DWord) (s : State) (c : Nat) (cs : List Nat), ((ready f.h 16 s = true) ∧ ((s.group s.cur).deferred = c :: cs) ∧ True)) :=
  ⟨⟨{ f3z with d := .int 0, a := .int 1 }, 0, (wq w0 (fun _ => (quad1 8 64 64 []))), by decide +kernel, by decide +kernel,
      (match ((wq w0 (fun _ => (quad1 8 64 64 []))).quad (w0.quadOfGroup 2)).mmaOp 1 0 1 (regionOf 0) none ((wq w0 (fun _ => (quad1 8 64 64 []))).effClass ((wq w0 (fun _ => (quad1 8 64 64 []))).issue hd 16) .inherit .matrix) with | .ok o => o | _ => mma1),
      ok_of (by decide +kernel), trivial⟩,
   ⟨{ f3z with d := .int 0, a := .int 1 }, 0, w0, by decide +kernel, by decide +kernel, 0x42, error_of (by decide +kernel), trivial⟩,
   ⟨{ f3z with d := .int 0, a := .int 1, b := .int 0 }, 0, (wq w0 (fun _ => { quad1 8 64 64 [] with conv := [(0, ⟨1, 1, 64, 0, [], none⟩)] })),
       by decide +kernel, by decide +kernel,
       (match ((wq w0 (fun _ => { quad1 8 64 64 [] with conv := [(0, ⟨1, 1, 64, 0, [], none⟩)] })).quad (w0.quadOfGroup 2)).mmaOp 1 0 1 (regionOf 0) none ((wq w0 (fun _ => { quad1 8 64 64 [] with conv := [(0, ⟨1, 1, 64, 0, [], none⟩)] })).effClass ((wq w0 (fun _ => { quad1 8 64 64 [] with conv := [(0, ⟨1, 1, 64, 0, [], none⟩)] })).issue hd 16) .inherit .matrix) with | .ok o => o | _ => mma1),
       (⟨1, 1, 64, 0, [], none⟩ : ConvReg), ok_of (by decide +kernel), by decide +kernel⟩,
   ⟨{ f3z with d := .int 0, a := .int 1, c := .s 1 }, 0,
       (wt (ws (wq w0 (fun _ => quad1 0xA 32 64 [])) 1 0xFF000000) (fun tm => { tm with scratch := fileWrite [] 0 (List.replicate 256 0x44) false })),
       by decide +kernel, by decide +kernel, by decide +kernel,
       (match ((wt (ws (wq w0 (fun _ => quad1 0xA 32 64 [])) 1 0xFF000000) (fun tm => { tm with scratch := fileWrite [] 0 (List.replicate 256 0x44) false })).quad (w0.quadOfGroup 2)).mmaOp 1 0 1 (regionOf 0) (some (List.replicate 256 (0x44,
       false))) ((wt (ws (wq w0 (fun _ => quad1 0xA 32 64 [])) 1 0xFF000000) (fun tm => { tm with scratch := fileWrite [] 0 (List.replicate 256 0x44) false })).effClass ((wt (ws (wq w0 (fun _ => quad1 0xA 32 64 [])) 1 0xFF000000) (fun tm => { tm with scratch := fileWrite [] 0 (List.replicate 256 0x44) false })).issue hd 16) .inherit .matrix) with | .ok o => o | _ => mma1),
       ok_of (by decide +kernel), by decide +kernel, trivial⟩,
   ⟨{ f3z with d := .int 0, a := .int 1, c := .s 1 }, 0,
       (wt (ws (wq w0 (fun _ => quad1 0xA 32 64 [])) 1 0xFF000000) (fun tm => { tm with scratch := fileWrite [] 0 (List.replicate 256 0) false })),
       by decide +kernel, by decide +kernel, by decide +kernel,
       (match ((wt (ws (wq w0 (fun _ => quad1 0xA 32 64 [])) 1 0xFF000000) (fun tm => { tm with scratch := fileWrite [] 0 (List.replicate 256 0) false })).quad (w0.quadOfGroup 2)).mmaOp 1 0 1 (regionOf 0) (some (List.replicate 256 (0,
       false))) ((wt (ws (wq w0 (fun _ => quad1 0xA 32 64 [])) 1 0xFF000000) (fun tm => { tm with scratch := fileWrite [] 0 (List.replicate 256 0) false })).effClass ((wt (ws (wq w0 (fun _ => quad1 0xA 32 64 [])) 1 0xFF000000) (fun tm => { tm with scratch := fileWrite [] 0 (List.replicate 256 0) false })).issue hd 16) .inherit .matrix) with | .ok o => o | _ => mma1),
       ok_of (by decide +kernel), by decide +kernel, trivial⟩,
   ⟨{ f3z with d := .int 0, a := .int 1, c := .s 1 }, 0, (ws w0 1 0xFF000000), by decide +kernel, by decide +kernel, by decide +kernel, 0x42,
       error_of (by decide +kernel), trivial⟩,
   ⟨{ f3z with d := .int 0, a := .int 1 }, 0, (wg w0 (fun g => { g with deferred := [0x42] })), 0x42, [], by decide +kernel⟩⟩

theorem witness_AccumulatorOperations :
    (∃ (f : F3) (s : State), ((readyMat f.h 8 noDst [(f.a, 1), (f.b, 1)] s = true) ∧ let row := arg f.h 8 s f.a 1; let n := arg f.h 8 s f.b 1;
        let rbs := (List.range (n / 64)).map (· + row / 64); let bad := row % 64 ≠ 0 ∨ n % 64 ≠ 0 ∨ n < 64 ∨ 512 < row + n; let tk := teamNow s;
        ((bad ∨ rbs.any ((quadNow s).rbTaken tk) = true)) ∧ True))
    ∧ (∃ (f : F3) (s : State), ((readyMat f.h 8 noDst [(f.a, 1), (f.b, 1)] s = true) ∧ let row := arg f.h 8 s f.a 1; let n := arg f.h 8 s f.b 1;
        let rbs := (List.range (n / 64)).map (· + row / 64); let bad := row % 64 ≠ 0 ∨ n % 64 ≠ 0 ∨ n < 64 ∨ 512 < row + n; let tk := teamNow s;
        (¬bad) ∧ (rbs.any ((quadNow s).rbTaken tk) = false) ∧ (canReserve (quadNow s) tk = true) ∧ True))
    ∧ (∃ (f : F3) (s : State), ((readyMat f.h 8 noDst [(f.a, 1), (f.b, 1)] s = true) ∧ let row := arg f.h 8 s f.a 1; let n := arg f.h 8 s f.b 1;
        let bad := row % 64 ≠ 0 ∨ n % 64 ≠ 0 ∨ n < 64 ∨ 512 < row + n; (bad) ∧ True))
    ∧ (∃ (f : F3) (s : State), ((readyMat f.h 8 noDst [(f.a, 1), (f.b, 1)] s = true) ∧ let row := arg f.h 8 s f.a 1; let n := arg f.h 8 s f.b 1;
        let rbs := (List.range (n / 64)).map (· + row / 64); let bad := row % 64 ≠ 0 ∨ n % 64 ≠ 0 ∨ n < 64 ∨ 512 < row + n; let tk := teamNow s;
        let own := rbs.filter (fun rb => kvGet (quadNow s).rbs rb = some tk); (¬bad) ∧ (own ≠ []) ∧ True))
    ∧ (∃ (f : F3) (s : State), ((readyMat f.h 8 noDst [(f.a, 1), (f.b, 1)] s = true) ∧ let row := arg f.h 8 s f.a 1; let n := arg f.h 8 s f.b 1;
        let rbs := (List.range (n / 64)).map (· + row / 64); let bad := row % 64 ≠ 0 ∨ n % 64 ≠ 0 ∨ n < 64 ∨ 512 < row + n; let tk := teamNow s;
        let own := rbs.filter (fun rb => kvGet (quadNow s).rbs rb = some tk); (¬bad) ∧ (own = []) ∧ True))
    ∧ (∃ (f : F3) (fx : DWord) (s : State), ((readyMat f.h 16 noDst [(f.a, 1), (f.b, 1)] s = true) ∧ let pitch := arg f.h 16 s f.b 1;
        let badP := pitch = 0 ∨ pitch % 16 ≠ 0; (badP) ∧ True))
    ∧ (∃ (f : F3) (fx : DWord) (s : State), ((readyMat f.h 16 noDst [(f.a, 1), (f.b, 1)] s = true) ∧ let reg := regionOf (Word.bits fx.toNat 7 0);
        let a := arg f.h 16 s f.a 1; let pitch := arg f.h 16 s f.b 1; let tk := teamNow s; let badP := pitch = 0 ∨ pitch % 16 ≠ 0;
        let taken := reg.inside = false ∨ reg.rbs.any ((quadNow s).rbTaken tk) = true; (¬badP) ∧ (feet (begun f.h 16 s) [(a,
        rowsFoot reg.m pitch (4 * reg.n), 16)] = true) ∧ (taken) ∧ True))
    ∧ (∃ (f : F3) (fx : DWord) (s : State), ((readyMat f.h 16 noDst [(f.a, 1), (f.b, 1)] s = true) ∧ let reg := regionOf (Word.bits fx.toNat 7 0);
        let a := arg f.h 16 s f.a 1; let pitch := arg f.h 16 s f.b 1; let tk := teamNow s; let badP := pitch = 0 ∨ pitch % 16 ≠ 0;
        let taken := reg.inside = false ∨ reg.rbs.any ((quadNow s).rbTaken tk) = true; (¬badP) ∧ (feet (begun f.h 16 s) [(a,
        rowsFoot reg.m pitch (4 * reg.n), 16)] = true) ∧ (¬taken) ∧ (canReserve (quadNow s) tk = true) ∧ True))
    ∧ (∃ (f : F3) (fx : DWord) (s : State), ((readyMat f.h 16 noDst [(f.a, 1)] s = true) ∧ let dst := regionOf (Word.bits fx.toNat 7 0);
        let src := regionOf (Word.bits fx.toNat 15 8); let a := arg f.h 16 s f.a 1; let q := quadNow s;
        let own := q.ownsRows (teamNow s) dst = true ∧ q.ownsRows (teamNow s) src = true ∧ dst.m = src.m ∧ dst.n = src.n;
        (feet (begun f.h 16 s) (if f.a ≠ .z then [(a, 4 * dst.m, 16)] else []) = true) ∧ (¬own) ∧ True))
    ∧ (∃ (f : F3) (fx : DWord) (s : State), ((readyMat f.h 16 noDst [(f.a, 1)] s = true) ∧ let dst := regionOf (Word.bits fx.toNat 7 0);
        let src := regionOf (Word.bits fx.toNat 15 8); let a := arg f.h 16 s f.a 1; let q := quadNow s;
        let own := q.ownsRows (teamNow s) dst = true ∧ q.ownsRows (teamNow s) src = true ∧ dst.m = src.m ∧ dst.n = src.n;
        let f32 := src.blocks.all (fun b => q.etag b == 8) = true; (feet (begun f.h 16 s) (if f.a ≠ .z then [(a, 4 * dst.m, 16)] else []) = true) ∧
        (own) ∧ (f.a ≠ .z) ∧ (¬f32) ∧ True))
    ∧ (∃ (f : F3) (fx : DWord) (s : State), ((readyMat f.h 16 noDst [(f.a, 1)] s = true) ∧ let dst := regionOf (Word.bits fx.toNat 7 0);
        let src := regionOf (Word.bits fx.toNat 15 8); let a := arg f.h 16 s f.a 1; let q := quadNow s;
        let own := q.ownsRows (teamNow s) dst = true ∧ q.ownsRows (teamNow s) src = true ∧ dst.m = src.m ∧ dst.n = src.n;
        let f32 := src.blocks.all (fun b => q.etag b == 8) = true; (feet (begun f.h 16 s) (if f.a ≠ .z then [(a, 4 * dst.m, 16)] else []) = true) ∧
        (own) ∧ ((f.a = .z ∨ f32)) ∧ True))
    ∧ (∃ (f : F3) (fx : DWord) (s : State), (((f.c = .z ∨ fx.getLsbD 12 = false)) ∧ (readyMat f.h 16 noDst [(f.d, 1), (f.a, 1), (f.b, 1), (f.c,
        if fx.getLsbD 12 then 2 else 1)] s = true) ∧ let x := fx.toNat; let reg := regionOf (Word.bits x 7 0); let fmt := Word.bits x 10 8;
        let pitch := Word.bits x 31 16; let bar := arg f.h 16 s f.d 1; let a := arg f.h 16 s f.a 1; let c := arg f.h 16 s f.c 1;
        (feet (begun f.h 16 s) ((a, drainFoot fmt reg pitch, 16) :: ((if f.d ≠ .z then [(bar, 16, 16)] else []) ++ (if f.c ≠ .z then [(c, 4,
        4)] else []))) = true) ∧ ((quadNow s).ownsRows (teamNow s) reg = false) ∧ True))
    ∧ (∃ (f : F3) (fx : DWord) (s : State), (((f.c = .z ∨ fx.getLsbD 12 = false)) ∧ (readyMat f.h 16 noDst [(f.d, 1), (f.a, 1), (f.b, 1), (f.c,
        if fx.getLsbD 12 then 2 else 1)] s = true) ∧ let x := fx.toNat; let reg := regionOf (Word.bits x 7 0); let fmt := Word.bits x 10 8;
        let pitch := Word.bits x 31 16; let bar := arg f.h 16 s f.d 1; let a := arg f.h 16 s f.a 1; let c := arg f.h 16 s f.c 1;
        (feet (begun f.h 16 s) ((a, drainFoot fmt reg pitch, 16) :: ((if f.d ≠ .z then [(bar, 16, 16)] else []) ++ (if f.c ≠ .z then [(c, 4,
        4)] else []))) = true) ∧ ((quadNow s).ownsRows (teamNow s) reg = true) ∧ True)) :=
  ⟨⟨{ f3z with a := .int 1 }, w0, by decide +kernel⟩,
   ⟨{ f3z with b := .s 1, c := .int 8 }, (ws w0 1 64), by decide +kernel⟩,
   ⟨{ f3z with a := .int 1 }, w0, by decide +kernel⟩,
   ⟨{ f3z with b := .s 1 }, (ws (wq w0 (fun _ => quad1 8 64 64 [])) 1 64), by decide +kernel⟩,
   ⟨{ f3z with b := .s 1 }, (ws w0 1 64), by decide +kernel⟩,
   ⟨{ f3z with a := .s 1 }, 0, (ws w0 1 0xFF000000), by decide +kernel⟩,
   ⟨{ f3z with a := .s 1, b := .s 2 }, 0, (ws (ws (wq w0 (fun q => { q with rbs := [(0, 9)] })) 1 0xFF000000) 2 256), by decide +kernel⟩,
   ⟨{ f3z with a := .s 1, b := .s 2 }, 0x800, (ws (ws w0 1 0xFF000000) 2 256), by decide +kernel⟩,
   ⟨f3z, 0, w0, by decide +kernel⟩,
   ⟨{ f3z with a := .s 1 }, 0, (ws (wq w0 (fun _ => { quad1 8 64 64 [] with etags := [] })) 1 0xFF000000), by decide +kernel⟩,
   ⟨{ f3z with a := .s 1 }, 0, (ws (wq w0 (fun _ => quad1 8 64 64 [])) 1 0xFF000000), by decide +kernel⟩,
   ⟨{ f3z with a := .s 1 }, 0x1000000, (ws w0 1 0xFF000000), by decide +kernel⟩,
   ⟨{ f3z with a := .s 1 }, 0x1000000, (ws (wq w0 (fun _ => quad1 8 64 64 [])) 1 0xFF000000), by decide +kernel⟩⟩

theorem witness_MatrixStatus :
    (∃ (f : F3) (s : State), ((readyMat f.h 8 (f.d, 1) [] s = true) ∧ (unlogged s = true) ∧ (constVal .w f.a = 0) ∧ True))
    ∧ (∃ (f : F3) (s : State), ((readyMat f.h 8 (f.d, 1) [] s = true) ∧ (unlogged s = true) ∧ (constVal .w f.a = 1) ∧ True))
    ∧ (∃ (f : F3) (s : State), ((readyMat f.h 8 (f.d, 1) [] s = true) ∧ (unlogged s = true) ∧ (constVal .w f.a = 2) ∧ True)) :=
  ⟨⟨{ f3z with d := .s 3, a := .int 0 }, (tiles1 [(0, tile1 1 16 16 0)]), by decide +kernel⟩,
   ⟨{ f3z with d := .s 3, a := .int 1 }, (tiles1 [(0, tile1 1 16 16 0)]), by decide +kernel⟩,
   ⟨{ f3z with d := .s 3, a := .int 2 }, (tiles1 [(0, tile1 1 16 16 0)]), by decide +kernel⟩⟩

theorem witness_EngineSteps :
    (∃ (q id : Nat) (s : State) (r : Reservation) (o : MatOp), (((s.quad q).matOp id = some (r, o)) ∧ (o.begun = false) ∧ (o.passes = []) ∧
        (r.clear id o.kind.touch = true) ∧ (s.writesDone o.after = true) ∧ True))
    ∧ (∃ (q id : Nat) (s : State) (r : Reservation) (o : MatOp), (((s.quad q).matOp id = some (r, o)) ∧ (o.begun = true) ∧ (o.amax = none) ∧ True))
    ∧ (∃ (q id : Nat) (s : State) (r : Reservation) (o : MatOp), (((s.quad q).matOp id = some (r, o)) ∧ ∃ off bar m p,
        (((match o.kind with | .adrn _ _ _ _ _ _ _ _ (.scratch x) b _ => some (x, b) | _ => none) = some (off, bar)) ∧ (o.amax = some (m, p)) ∧
        True)))
    ∧ (∃ (q : Nat) (s : State) (b : Offer), ((b ∈ (s.quad q).res.filterMap (fun e => s.offer e.1 e.2)) ∧
        ((∀ x ∈ (s.quad q).res.filterMap (fun e => s.offer e.1 e.2), x ≠ b → b.beats x = true)) ∧
        ((((s.quad q).res.filterMap (fun e => s.offer e.1 e.2)).map (·.index)).Nodup) ∧ True))
    ∧ (∃ (q id p : Nat) (s : State) (r : Reservation) (o : MatOp) (m : MmaOp), (((s.quad q).matOp id = some (r, o)) ∧ (o.kind = .mma m) ∧
        (o.inArray.contains p = true) ∧ (s.env.votes = []) ∧ True)) :=
  ⟨⟨(w0.quadOfGroup 2), 5, (wq w0 (fun _ => quad1 8 64 64 [(op1 (.tzr 0) false)])), ⟨1, 0, [(op1 (.tzr 0) false)]⟩, (op1 (.tzr 0) false),
      by decide +kernel⟩,
   ⟨(w0.quadOfGroup 2), 5, (wq w0 (fun _ => quad1 8 64 64 [(op1 (.tzr 0) true)])), ⟨1, 0, [(op1 (.tzr 0) true)]⟩, (op1 (.tzr 0) true),
       by decide +kernel⟩,
   ⟨(w0.quadOfGroup 2), 5,
       (wq w0 (fun _ => quad1 8 64 64 [({ op1 (.adrn ⟨0, 0, 64, 64⟩ [8] 0 false false 0 256 0 (.scratch 64) none .inherit) true with amax := some (7, false) } : MatOp)])),
       ⟨1, 0, [({ op1 (.adrn ⟨0, 0, 64, 64⟩ [8] 0 false false 0 256 0 (.scratch 64) none .inherit) true with amax := some (7, false) } : MatOp)]⟩,
       ({ op1 (.adrn ⟨0, 0, 64, 64⟩ [8] 0 false false 0 256 0 (.scratch 64) none .inherit) true with amax := some (7, false) } : MatOp),
       by decide +kernel, 64, none, 7, false, by decide +kernel⟩,
   ⟨(w0.quadOfGroup 2), (wq w0 (fun _ => quad1 8 64 64 [op1 (.mma mma1) false])),
       ((((wq w0 (fun _ => quad1 8 64 64 [op1 (.mma mma1) false])).quad (w0.quadOfGroup 2)).res.filterMap (fun e => (wq w0 (fun _ => quad1 8 64 64 [op1 (.mma mma1) false])).offer e.1 e.2)).headD ⟨0,
       0, 0, 0⟩), by decide +kernel⟩,
   ⟨(w0.quadOfGroup 2), 5, 0, (wq w0 (fun _ => quad1 8 64 64 [({ op1 (.mma mma1) true with inArray := [0], granted := 1 } : MatOp)])), ⟨1, 0,
       [({ op1 (.mma mma1) true with inArray := [0], granted := 1 } : MatOp)]⟩, ({ op1 (.mma mma1) true with inArray := [0], granted := 1 } : MatOp),
       mma1, by decide +kernel⟩⟩

theorem witness_EngineData :
    (∃ (q id : Nat) (s : State) (r : Reservation) (o : MatOp), (((s.quad q).matOp id = some (r, o)) ∧ (o.begun = true) ∧ (o.amax = none) ∧
        (s.env.votes = []) ∧ True))
    ∧ (∃ (q id : Nat) (s : State) (r : Reservation) (o : MatOp), (((s.quad q).matOp id = some (r, o)) ∧ (o.begun = true) ∧ (o.amax = none) ∧
        (s.env.votes = []) ∧ True))
    ∧ (∃ (q id : Nat) (s : State) (r : Reservation) (o : MatOp), (((s.quad q).matOp id = some (r, o)) ∧ (o.begun = true) ∧ (o.amax = none) ∧
        (s.env.votes = []) ∧ True))
    ∧ (∃ (q id : Nat) (s : State) (r : Reservation) (o : MatOp), (((s.quad q).matOp id = some (r, o)) ∧ (o.begun = true) ∧ (o.amax = none) ∧
        (s.env.votes = []) ∧ True)) :=
  ⟨⟨(w0.quadOfGroup 2), 5, (wq w0 (fun _ => quad1 8 64 64 [(op1 (.tzr 0) true)])), ⟨1, 0, [(op1 (.tzr 0) true)]⟩, (op1 (.tzr 0) true),
      by decide +kernel⟩,
   ⟨(w0.quadOfGroup 2), 5, (wq w0 (fun _ => quad1 8 64 64 [(op1 (.tmov 0 1) true)])), ⟨1, 0, [(op1 (.tmov 0 1) true)]⟩, (op1 (.tmov 0 1) true),
       by decide +kernel⟩,
   ⟨(w0.quadOfGroup 2), 5, (wq w0 (fun _ => quad1 8 64 64 [(op1 (.azr 0 1) true)])), ⟨1, 0, [(op1 (.azr 0 1) true)]⟩, (op1 (.azr 0 1) true),
       by decide +kernel⟩,
   ⟨(w0.quadOfGroup 2), 5, (wq w0 (fun _ => quad1 8 64 64 [(op1 (.amov ⟨0, 0, 64, 64⟩ ⟨0, 0, 64, 64⟩ none .inherit) true)])), ⟨1, 0, [(op1 (.amov ⟨0,
       0, 64, 64⟩ ⟨0, 0, 64, 64⟩ none .inherit) true)]⟩, (op1 (.amov ⟨0, 0, 64, 64⟩ ⟨0, 0, 64, 64⟩ none .inherit) true), by decide +kernel⟩⟩

theorem witness_CoreEvents :
    (∃ (gk tok : Nat) (s : State) (g : Group) (p : Pending), ((kvGet s.groups gk = some g) ∧ (g.pend.find? (fun p => p.tok == tok) = some p) ∧
        (p.ready = true) ∧ (p.due = false) ∧ (p.t ≤ 32) ∧ (s.onCore g.team = true) ∧ ((p.words.map (·.1)).Nodup) ∧ True))
    ∧ (∃ (gk c : Nat) (s : State), (((s.group gk).run = .bank c) ∧ (c ≤ s.cycle) ∧ True))
    ∧ (∃ (gk c : Nat) (s : State), (((s.group gk).run = .bank c) ∧ (s.cycle < c) ∧ True))
    ∧ (∃ (gk d : Nat) (s : State), (((s.group gk).run = .sleep d) ∧ (d ≤ s.cycle) ∧ True))
    ∧ (∃ (gk d : Nat) (s : State), (((s.group gk).run = .sleep d) ∧ (s.cycle < d) ∧ True))
    ∧ (∃ (gk : Nat) (s : State) (g : Group) (w : WaitInfo), ((kvGet s.groups gk = some g) ∧ ((s.team g.team).resid = .placed) ∧
        (plainRun s gk = true) ∧ (g.run.info = some w) ∧ ((match g.run with | .barrier _ _ _ _ _ l => l | _ => false) = false) ∧
        (s.pushFits gk = false) ∧ (w.deadline ≠ 0) ∧ (w.deadline ≤ s.cycle) ∧ (g.live ≠ []) ∧ (w.ex.Nodup) ∧ True))
    ∧ (∃ (gk : Nat) (s : State) (g : Group) (w : WaitInfo), ((kvGet s.groups gk = some g) ∧ ((s.team g.team).resid = .placed) ∧
        (plainRun s gk = true) ∧ (g.run.info = some w) ∧ ((match g.run with | .barrier _ _ _ _ _ l => l | _ => false) = false) ∧
        (s.pushFits gk = false) ∧ (s.cycle < w.deadline) ∧ True))
    ∧ (∃ (core i t : Nat) (s : State), (((s.core core).sweeps.find? (fun e => e.1 == i) = some (i, t)) ∧ (t ≤ s.cycle) ∧
        (s.groups.all (fun e => e.2.run ≠ .acquire i) = true) ∧ True))
    ∧ (∃ (gang k t : Nat) (ts : List Nat) (s : State), (((s.colour gang k).flips = t :: ts) ∧ (t ≤ s.cycle) ∧ (k < (s.gang gang).colours.length) ∧
        True))
    ∧ (∃ (fn gk tag : Nat) (s : State), (((s.group gk).run = .halted tag) ∧ (s.hostOpen = true) ∧ ((fn = 0 ∨ s.tenantOf gk = fn)) ∧ True))
    ∧ (∃ (s : State) (g : Group), ((kvGet s.groups s.cur = some g) ∧ (g.issuing ≠ []) ∧
        ((List.range 4).all (fun i => !(g.loops.getD i LoopReg.idle).active) = true) ∧ (g.loops.length = 4) ∧
        let is := s.issue ⟨false, .inherit, false, 7⟩ 8; ∃ b v, ((fetchBlock g.bufWord s (s.coreOf s.cur) (s.tenantOf s.cur) is.blk = (.ok b, v)) ∧
        True)))
    ∧ (∃ (s : State) (g : Group), ((kvGet s.groups s.cur = some g) ∧ (g.issuing ≠ []) ∧
        ((List.range 4).all (fun i => !(g.loops.getD i LoopReg.idle).active) = true) ∧ (g.loops.length = 4) ∧
        let is := s.issue ⟨false, .inherit, false, 7⟩ 8; ∃ e v, ((fetchBlock g.bufWord s (s.coreOf s.cur) (s.tenantOf s.cur) is.blk = (.error e,
        v)) ∧ True)))
    ∧ (∃ (gk : Nat) (s : State), (((kvGet s.groups gk).isSome = true) ∧ (s.onCore (s.group gk).team = true) ∧ True))
    ∧ (∃ (core t va tk : Nat) (tm : Team) (s : State), ((va < 2 ^ 57) ∧ ((tk, tm) ∈ s.teams) ∧ (tm.core = core) ∧ (tm.resid.onCore = true) ∧
        (s.tenantOfTeam tk = t) ∧ True)) :=
  ⟨⟨2, 7, (wg w0 (fun g => { g with pend := [⟨7, 0, true, none, none, false, [(.vreg 0 3, ⟨5, false⟩), (.sreg 2, ⟨6, false⟩)]⟩] })),
      ((wg w0 (fun g => { g with pend := [⟨7, 0, true, none, none, false, [(.vreg 0 3, ⟨5, false⟩), (.sreg 2, ⟨6, false⟩)]⟩] })).group 2), (⟨7, 0,
      true, none, none, false, [(.vreg 0 3, ⟨5, false⟩), (.sreg 2, ⟨6, false⟩)]⟩ : Pending), by decide +kernel⟩,
   ⟨2, 100, (wg w0 (fun g => { g with run := .bank 100 })), by decide +kernel⟩,
   ⟨2, 101, (wg w0 (fun g => { g with run := .bank 101 })), by decide +kernel⟩,
   ⟨2, 100, (wg w0 (fun g => { g with run := .sleep 100 })), by decide +kernel⟩,
   ⟨2, 101, (wg w0 (fun g => { g with run := .sleep 101 })), by decide +kernel⟩,
   ⟨2, (wg w0 (fun g => { g with run := .event 1 [0, 1] 100 })), ((wg w0 (fun g => { g with run := .event 1 [0, 1] 100 })).group 2), ⟨1, [0, 1],
       100⟩, by decide +kernel⟩,
   ⟨2, (wg w0 (fun g => { g with run := .event 1 [0, 1] 101 })), ((wg w0 (fun g => { g with run := .event 1 [0, 1] 101 })).group 2), ⟨1, [0, 1],
       101⟩, by decide +kernel⟩,
   ⟨0, 0, 100, (wc w0 (fun k => { k with sweeps := [(0, 100)] })), by decide +kernel⟩,
   ⟨(w0.teamOf 2).gang, 0, 100, [],
       (({ (wl w0 (fun r => { r with colours := 1 })) with gangs := [((w0.teamOf 2).gang, { w0.gang (w0.teamOf 2).gang with colours := [⟨true, true, 2, 2, false, [100]⟩] })] }) : State),
       by decide +kernel⟩,
   ⟨0, 2, 5, (wg w0 (fun g => { g with run := .halted 5 })), by decide +kernel⟩,
   ⟨(wm w0 0x1000 (block [nopW])), ((wm w0 0x1000 (block [nopW])).group 2),
       four (by decide +kernel) ⟨(eVal (fetchBlockOf 0) (fetchBlock ((wm w0 0x1000 (block [nopW])).group 2).bufWord (wm w0 0x1000 (block [nopW])) ((wm w0 0x1000 (block [nopW])).coreOf (wm w0 0x1000 (block [nopW])).cur) ((wm w0 0x1000 (block [nopW])).tenantOf (wm w0 0x1000 (block [nopW])).cur) ((wm w0 0x1000 (block [nopW])).issue hd 8).blk)),
       (fetchBlock ((wm w0 0x1000 (block [nopW])).group 2).bufWord (wm w0 0x1000 (block [nopW])) ((wm w0 0x1000 (block [nopW])).coreOf (wm w0 0x1000 (block [nopW])).cur) ((wm w0 0x1000 (block [nopW])).tenantOf (wm w0 0x1000 (block [nopW])).cur) ((wm w0 0x1000 (block [nopW])).issue hd 8).blk).2,
       pair_ok (by decide +kernel), trivial⟩⟩,
   ⟨w0, (w0.group 2), four (by decide +kernel) ⟨(eErr ⟨0, 0, 0,
       false⟩ (fetchBlock (w0.group 2).bufWord w0 (w0.coreOf w0.cur) (w0.tenantOf w0.cur) (w0.issue hd 8).blk)),
       (fetchBlock (w0.group 2).bufWord w0 (w0.coreOf w0.cur) (w0.tenantOf w0.cur) (w0.issue hd 8).blk).2, pair_error (by decide +kernel), trivial⟩⟩,
   ⟨2, w0, by decide +kernel⟩,
   ⟨0, 0, 0x8000, 1, (w0.team 1), w0, by decide +kernel⟩⟩

theorem witness_ProtocolMessages :
    (∃ (i : Instr) (s : State) (dst : Node) (line : Nat) (p : MsgBody → Bool), ((messageOf i = some (dst, line, p)) ∧ ∃ pre m post,
        ((s.net = pre ++ m :: post) ∧ (firstOf dst line p pre m = true) ∧ (s.takes m = true) ∧ True)))
    ∧ (∃ (i : Instr) (s : State) (dst : Node) (line : Nat) (p : MsgBody → Bool), ((messageOf i = some (dst, line, p)) ∧
        (s.net.all (fun m => !(m.dst == dst && m.line == line && p m.body)) = true) ∧ True))
    ∧ (∃ (s : State) (line : Nat) (vc : List Nat), ((s.homeQ = []) ∧ ∃ (c : Nat) (a : HomeAcc), ((kvGet s.homes line = none) ∧ True)))
    ∧ (∃ (s : State) (line : Nat) (vc : List Nat), ((s.homeQ = []) ∧ ∃ h, ((kvGet s.homes line = some h) ∧ (h.st = .u) ∧ (h.spilled = false) ∧
        ∃ (cl : Nat) (tag : RedTag), ((h.op = tag) ∧ True))))
    ∧ (∃ (s : State) (line : Nat) (vc : List Nat), ((s.homeQ = []) ∧ ∃ h, ((kvGet s.homes line = some h) ∧ (h.st = .u) ∧ (h.spilled = false) ∧
        ∃ (cl : Nat) (tag : RedTag) (slots : Slots) (dereg : Bool), ((h.op = tag) ∧ True))))
    ∧ (∃ (s : State) (line : Nat) (vc : List Nat), ((s.homeQ = []) ∧ ∃ h, ((kvGet s.homes line = some h) ∧ (h.st = .u) ∧ (h.spilled = false) ∧
        ∃ (c : Nat) (a : HomeAcc), ((h.cv ≠ []) ∧ True))))
    ∧ (∃ (s : State) (line : Nat) (vc : List Nat), ((s.homeQ = []) ∧ ∃ h, ((kvGet s.homes line = some h) ∧ (h.queue = []) ∧ (h.st = .iu) ∧ True)))
    ∧ (∃ (s : State) (line : Nat) (vc : List Nat), ((s.homeQ = []) ∧ ∃ h, ((kvGet s.homes line = some h) ∧ (h.queue = []) ∧ (h.st = .mu) ∧ True)))
    ∧ (∃ (s : State) (c line mn : Nat) (tag : RedTag) (vc : List Nat), (((s.cluster (Config.clusterOf c)).fenced = none) ∧ True)) :=
  ⟨⟨(.homeReg 5), (({ (homed .u [3]) with net := [⟨.unit 0, .home, 5, .reg ⟨0, .n32⟩, []⟩] }) : State), .home, 5, _, rfl, [], ⟨.unit 0, .home, 5,
      .reg ⟨0, .n32⟩, []⟩, [], by decide +kernel⟩,
   ⟨(.homeReg 5), w0, .home, 5, _, rfl, by decide +kernel, trivial⟩,
   ⟨w0, 5, [], by decide +kernel, 0, readAcc, by decide +kernel, trivial⟩,
   ⟨(homed .u [3]), 5, [], by decide +kernel, (line1 .u [3]), by decide +kernel, by decide +kernel, by decide +kernel, 0, ⟨0, .n32⟩,
       by decide +kernel, trivial⟩,
   ⟨(homed .u [0]), 5, [], by decide +kernel, (line1 .u [0]), by decide +kernel, by decide +kernel, by decide +kernel, 0, ⟨0, .n32⟩, [], true,
       by decide +kernel, trivial⟩,
   ⟨(homed .u [0, 3]), 5, [], by decide +kernel, (line1 .u [0, 3]), by decide +kernel, by decide +kernel, by decide +kernel, 0, readAcc,
       by decide +kernel, trivial⟩,
   ⟨(homed .iu [0]), 5, [], by decide +kernel, (line1 .iu [0]), by decide +kernel⟩,
   ⟨(homed .mu [0]), 5, [], by decide +kernel, (line1 .mu [0]), by decide +kernel⟩,
   ⟨w0, 0, 5, 1, ⟨0, .n32⟩, [], by decide +kernel, trivial⟩⟩

theorem witness_LaunchSubmits :
    (∃ (f : F2) (s v v₂ : State) (ps : List (Xlat × Nat × Nat)) (ws : List RegWord), ((readyOnce f.h 8 (f.d, 1) [(f.a, 2)] s = true) ∧
        let a := arg f.h 8 s f.a 2; (sourceCheck s.cur 64 (sourceParts a 128) (begun f.h 8 s) = (.ok ps, v)) ∧ (plainRun v s.cur = true) ∧
        (v.releaseReady s.cur .device = true) ∧ ((v.release s.cur .device).sourceRead s.cur ps = some (ws, v₂)) ∧ True))
    ∧ (∃ (f : F2) (s v : State) (e : Nat × Nat), ((readyOnce f.h 8 (f.d, 1) [(f.a, 2)] s = true) ∧
        (sourceCheck s.cur 64 (sourceParts (arg f.h 8 s f.a 2) 128) (begun f.h 8 s) = (.error e, v)) ∧ True))
    ∧ (∃ (s : State) (bs : List Byte) (pois : Option Nat) (tenant : Nat) (src : RecSrc) (hb : Option Nat),
        ((s.recordCheck bs pois tenant (match src with | .team _ => true | _ => false) = none) ∧ True))
    ∧ (∃ (s : State) (bs : List Byte) (pois : Option Nat) (tenant : Nat) (src : RecSrc) (hb : Option Nat), (let r := s.submit bs pois tenant src hb;
        (s.recordCheck bs pois tenant (match src with | .team _ => true | _ => false) = none) ∧ ∃ k, ((k ≠ r.1) ∧ True)))
    ∧ (∃ (s : State) (bs : List Byte) (pois : Option Nat) (tenant : Nat) (src : RecSrc) (hb : Option Nat),
        (((s.recordCheck bs pois tenant (match src with | .team _ => true | _ => false)).isSome = true) ∧ True)) :=
  ⟨⟨{ f2z with d := .s 4, a := .s 2 }, (wm (ws w0 2 0x8000) 0x8000 rec1),
      (sourceCheck 2 64 (sourceParts 0x8000 128) (begun hd 8 (wm (ws w0 2 0x8000) 0x8000 rec1))).2,
      ((State.sourceRead (State.release (sourceCheck 2 64 (sourceParts 0x8000 128) (begun hd 8 (wm (ws w0 2 0x8000) 0x8000 rec1))).2 2 .device) 2 (eVal [] (sourceCheck 2 64 (sourceParts 0x8000 128) (begun hd 8 (wm (ws w0 2 0x8000) 0x8000 rec1))))).getD ([],
      w0)).2, (eVal [] (sourceCheck 2 64 (sourceParts 0x8000 128) (begun hd 8 (wm (ws w0 2 0x8000) 0x8000 rec1)))),
      ((State.sourceRead (State.release (sourceCheck 2 64 (sourceParts 0x8000 128) (begun hd 8 (wm (ws w0 2 0x8000) 0x8000 rec1))).2 2 .device) 2 (eVal [] (sourceCheck 2 64 (sourceParts 0x8000 128) (begun hd 8 (wm (ws w0 2 0x8000) 0x8000 rec1))))).getD ([],
      w0)).1, by decide +kernel, pair_ok (by decide +kernel), by decide +kernel⟩,
   ⟨{ f2z with d := .s 4, a := .s 2 }, (ws w0 2 4), (sourceCheck 2 64 (sourceParts 4 128) (begun hd 8 (ws w0 2 4))).2, (eErr (0,
       0) (sourceCheck 2 64 (sourceParts 4 128) (begun hd 8 (ws w0 2 4)))), by decide +kernel, pair_error (by decide +kernel), trivial⟩,
   ⟨w0, rec1, none, 0, (.ring 0 0), none, by decide +kernel, trivial⟩,
   ⟨w0, rec1, none, 0, (.ring 0 0), none, by decide +kernel, 0, by decide +kernel, trivial⟩,
   ⟨w0, (List.replicate 128 0), none, 0, (.ring 0 0), none, by decide +kernel, trivial⟩⟩

theorem witness_DispatcherEvents :
    (∃ (fn r val : Nat) (s : State), ((s.hostOpen = true) ∧ (r < 64) ∧ ((fn = 0 ∨ (s.ring r).tenant = fn)) ∧ let x := s.ring r;
        let y := { x with tail := val % 65536 }; (y.waiting ≤ x.size) ∧ True))
    ∧ (∃ (fn r val : Nat) (s : State), ((s.hostOpen = true) ∧ (r < 64) ∧ ((fn = 0 ∨ (s.ring r).tenant = fn)) ∧ let x := s.ring r;
        let y := { x with tail := val % 65536 }; (x.size < y.waiting) ∧ True))
    ∧ (∃ (fn r val : Nat) (s : State), ((s.hostOpen = true) ∧ (r < 64) ∧ ((fn = 0 ∨ (s.ring r).tenant = fn)) ∧ True))
    ∧ (∃ (fn r val : Nat) (s : State), ((s.hostOpen = true) ∧ (r < 64) ∧ (fn ≤ 16) ∧ ((fn = 0 ∨ (s.ring r).tenant = fn)) ∧ True))
    ∧ (∃ (r : Nat) (s v w : State) (m : Xlat) (e : Nat) (cells : EBytes), ((s.ready = true) ∧ (r < 64) ∧ (s.launches.length < 1024) ∧
        let x := s.ring r; let va := (x.base + 128 * (x.head % x.size)) % 2 ^ 57; (x.en = true) ∧ (x.tenant ≤ 16) ∧ (0 < x.waiting) ∧
        (x.waiting ≤ x.size) ∧ (translateUnit s x.tenant va = (.ok m e, v)) ∧ (m.r = true) ∧ (m.attr ≠ .prot) ∧
        (physCells m.host (m.phys va) (grains 16 (m.phys va) 128) v = (cells, w)) ∧ True))
    ∧ (∃ (s : State), ((s.ready = true) ∧ ∃ kid places, ((s.nextUnit = some (.place (.gang kid) places)) ∧ True)))
    ∧ (∃ (s : State), ((s.ready = true) ∧ ∃ tks, ((s.nextUnit = some (.evict tks)) ∧ True)))
    ∧ (∃ (s : State), ((s.ready = true) ∧ ∃ e p ps, ((s.nextUnit = some (.place (.run e .replay) (p :: ps))) ∧ True)))
    ∧ (∃ (s : State), ((s.ready = true) ∧ ∃ e p ps, ((s.nextUnit = some (.place (.run e .auth) (p :: ps))) ∧ True)))
    ∧ (∃ (kid : Nat) (s : State), ((s.complete_ kid = true) ∧ True))
    ∧ (∃ (fn kid : Nat) (s : State), ((s.hostOpen = true) ∧ (s.mayName fn kid = true) ∧ True))
    ∧ (∃ (fn kid : Nat) (s : State), ((s.hostOpen = true) ∧ (s.mayName fn kid = true) ∧ (s.teams.any (fun e => e.2.kid == kid && e.2.held) = true) ∧
        True))
    ∧ (∃ (kid lim : Nat) (s : State) (l : Launch), ((kvGet s.launches kid = some l) ∧ (s.wallLimit l = some lim) ∧ (lim < l.wallUsed) ∧
        (s.teams.any (fun e => e.2.kid == kid && e.2.resid.onCore) = true) ∧ True))
    ∧ (∃ (tk : Nat) (s : State) (tm : Team), ((kvGet s.teams tk = some tm) ∧ ((s.launch tm.kid).r.persist = true) ∧ (tm.resid = .placed) ∧
        (s.bkptHalted tk = false) ∧ (tm.beatAt + 1000 * (s.launch tm.kid).r.beat ≤ s.clk.toNat) ∧ True))
    ∧ (∃ (core off val : Nat) (s : State), ((s.hostOpen = true) ∧ (core < 1200) ∧ True))
    ∧ (∃ (core off val : Nat) (s : State), ((s.hostOpen = true) ∧ (core < 1200) ∧ (off < 0x40) ∧ (off % 8 = 0) ∧ ((s.core core).slots.length = 64) ∧
        True))
    ∧ (∃ (core : Nat) (s : State), ((s.cycle % 64 = 0) ∧ (s.teams.all (fun e => e.2.core ≠ core) = true) ∧
        (((s.core core).slots ≠ (s.core core).slotsOn ∨ (s.core core).lend ≠ (s.core core).lendOn)) ∧ True))
    ∧ (∃ (gang : Nat) (s : State), (let ms := (s.gangTeams gang).filter (fun tk => (s.team tk).resid == .preempting);
        (ms.all (fun tk => !s.passesRun tk) = true) ∧ True))
    ∧ (∃ (gang : Nat) (s : State), (let ms := (s.gangTeams gang).filter (fun tk => (s.team tk).resid == .preempting);
        (ms.all (fun tk => !s.passesRun tk) = true) ∧ ((s.gangTeams gang).Nodup) ∧ ((∀ tk ∈ ms, ∀ m ∈ (s.core (s.team tk).core).moves,
        m.st ≠ .working ∨ m.pos % 64 = 0 ∨ m.d.total ≤ m.pos)) ∧ True))
    ∧ (∃ (tk : Nat) (s : State) (tm : Team), ((kvGet s.teams tk = some tm) ∧ (tm.resid = .halted) ∧ (s.maySave tk = true) ∧
        ((s.core tm.core).moves.all (fun m => m.team ≠ tk) = true) ∧
        (tm.groups.all (fun gk => match (s.group gk).run with | .event _ _ _ => false | _ => true) = true) ∧ True))
    ∧ (∃ (gang cl : Nat) (s v : State), ((s.mayRestore gang = true) ∧ (cl < Config.clusters) ∧ let g := s.gang gang; ((∀ c,
        c < cl → restoreGo [] g.members (coresOfCluster c) s = none)) ∧ (restoreGo [] g.members (coresOfCluster cl) s = some v) ∧
        ((s.launch g.kid).fired = false) ∧ (8 < s.coloursUsed cl [] + g.colours.length) ∧ True))
    ∧ (∃ (gang cl : Nat) (s v : State), ((s.mayRestore gang = true) ∧ (cl < Config.clusters) ∧ let g := s.gang gang; ((∀ c,
        c < cl → restoreGo [] g.members (coresOfCluster c) s = none)) ∧ (restoreGo [] g.members (coresOfCluster cl) s = some v) ∧
        ((s.launch g.kid).fired = false) ∧ (s.coloursUsed cl [] + g.colours.length ≤ 8) ∧ True)) :=
  ⟨⟨0, 63, 16, w0, by decide +kernel⟩,
   ⟨0, 63, 17, w0, by decide +kernel⟩,
   ⟨0, 63, 0x80400000, w0, by decide +kernel⟩,
   ⟨0, 63, 0x8000, w0, by decide +kernel⟩,
   ⟨3, (({ (wm w0 0x8000 rec1) with rings := [(3, ⟨0x8000, true, 4, 0, 1, 0, none⟩)] }) : State),
       (translateUnit (({ (wm w0 0x8000 rec1) with rings := [(3, ⟨0x8000, true, 4, 0, 1, 0, none⟩)] }) : State) 0 0x8000).2,
       (physCells (match (translateUnit (({ (wm w0 0x8000 rec1) with rings := [(3, ⟨0x8000, true, 4, 0, 1, 0, none⟩)] }) : State) 0 0x8000).1 with | .ok x _ => x | _ => ⟨0,
       0, 0, false, .wb, false, false,
       false⟩).host ((match (translateUnit (({ (wm w0 0x8000 rec1) with rings := [(3, ⟨0x8000, true, 4, 0, 1, 0, none⟩)] }) : State) 0 0x8000).1 with | .ok x _ => x | _ => ⟨0,
       0, 0, false, .wb, false, false,
       false⟩).phys 0x8000) (grains 16 ((match (translateUnit (({ (wm w0 0x8000 rec1) with rings := [(3, ⟨0x8000, true, 4, 0, 1, 0, none⟩)] }) : State) 0 0x8000).1 with | .ok x _ => x | _ => ⟨0,
       0, 0, false, .wb, false, false,
       false⟩).phys 0x8000) 128) (translateUnit (({ (wm w0 0x8000 rec1) with rings := [(3, ⟨0x8000, true, 4, 0, 1, 0, none⟩)] }) : State) 0 0x8000).2).2,
       (match (translateUnit (({ (wm w0 0x8000 rec1) with rings := [(3, ⟨0x8000, true, 4, 0, 1, 0, none⟩)] }) : State) 0 0x8000).1 with | .ok x _ => x | _ => ⟨0,
       0, 0, false, .wb, false, false, false⟩),
       (match (translateUnit (({ (wm w0 0x8000 rec1) with rings := [(3, ⟨0x8000, true, 4, 0, 1, 0, none⟩)] }) : State) 0 0x8000).1 with | .ok _ e => e | _ => 0),
       (physCells (match (translateUnit (({ (wm w0 0x8000 rec1) with rings := [(3, ⟨0x8000, true, 4, 0, 1, 0, none⟩)] }) : State) 0 0x8000).1 with | .ok x _ => x | _ => ⟨0,
       0, 0, false, .wb, false, false,
       false⟩).host ((match (translateUnit (({ (wm w0 0x8000 rec1) with rings := [(3, ⟨0x8000, true, 4, 0, 1, 0, none⟩)] }) : State) 0 0x8000).1 with | .ok x _ => x | _ => ⟨0,
       0, 0, false, .wb, false, false,
       false⟩).phys 0x8000) (grains 16 ((match (translateUnit (({ (wm w0 0x8000 rec1) with rings := [(3, ⟨0x8000, true, 4, 0, 1, 0, none⟩)] }) : State) 0 0x8000).1 with | .ok x _ => x | _ => ⟨0,
       0, 0, false, .wb, false, false,
       false⟩).phys 0x8000) 128) (translateUnit (({ (wm w0 0x8000 rec1) with rings := [(3, ⟨0x8000, true, 4, 0, 1, 0, none⟩)] }) : State) 0 0x8000).2).1,
       by decide +kernel⟩,
   ⟨w0, by decide +kernel, kid1, (placesOf w0.nextUnit), by decide +kernel, trivial⟩,
   ⟨crowded, by decide +kernel, [1], by decide +kernel, trivial⟩,
   ⟨(slept (some .replay)), by decide +kernel, 9, ((placesOf (slept (some .replay)).nextUnit).headD (0, [])), ([] : List (Nat × List Nat)),
       by decide +kernel, trivial⟩,
   ⟨(slept (some .auth)), by decide +kernel, 9, ((placesOf (slept (some .auth)).nextUnit).headD (0, [])), ([] : List (Nat × List Nat)),
       by decide +kernel, trivial⟩,
   ⟨kid1, (w0.modLaunch kid1 (fun l => { l with next := 1, ended := 1 })), by decide +kernel, trivial⟩,
   ⟨0, kid1, w0, by decide +kernel⟩,
   ⟨0, kid1, (wt w0 (fun tm => { tm with held := true })), by decide +kernel⟩,
   ⟨kid1, 1000000, (w0.modLaunch kid1 (fun l => { l with r := { l.r with wall := 1 }, wallUsed := 1000001 })),
       ((w0.modLaunch kid1 (fun l => { l with r := { l.r with wall := 1 }, wallUsed := 1000001 })).launch kid1), by decide +kernel⟩,
   ⟨1, (w0.modLaunch kid1 (fun l => { l with r := { l.r with persist := true } })),
       ((w0.modLaunch kid1 (fun l => { l with r := { l.r with persist := true } })).team 1), by decide +kernel⟩,
   ⟨1199, 0, 1, w0, by decide +kernel⟩,
   ⟨0, 0x38, 0x8180, w0, by decide +kernel⟩,
   ⟨5, (({ (w0.modCore 5 (fun k => { k with lend := true })) with cycle := 128 }) : State), by decide +kernel⟩,
   ⟨(w0.teamOf 2).gang, (wt w0 (fun tm => { tm with resid := .preempting })), by decide +kernel, trivial⟩,
   ⟨(w0.teamOf 2).gang, (wt w0 (fun tm => { tm with resid := .preempting })), by decide +kernel⟩,
   ⟨1, haltedTeam, (haltedTeam.team 1), by decide +kernel⟩,
   ⟨(w0.teamOf 2).gang, 0,
       (({ savedTeam with gangs := kvSet (savedTeam.gangs.map (fun e => (e.1, { e.2 with colours := [Colour.reset] }))) 99 ⟨kid1, [77], 0, List.replicate 8 Colour.reset⟩, teams := kvSet savedTeam.teams 77 { w0.team 1 with groups := [], core := 99 } }) : State),
       ((restoreGo [] ((({ savedTeam with gangs := kvSet (savedTeam.gangs.map (fun e => (e.1, { e.2 with colours := [Colour.reset] }))) 99 ⟨kid1, [77], 0, List.replicate 8 Colour.reset⟩, teams := kvSet savedTeam.teams 77 { w0.team 1 with groups := [], core := 99 } }) : State).gang (w0.teamOf 2).gang).members (coresOfCluster 0) (({ savedTeam with gangs := kvSet (savedTeam.gangs.map (fun e => (e.1, { e.2 with colours := [Colour.reset] }))) 99 ⟨kid1, [77], 0, List.replicate 8 Colour.reset⟩, teams := kvSet savedTeam.teams 77 { w0.team 1 with groups := [], core := 99 } }) : State)).getD w0),
       by decide +kernel, by decide +kernel, by decide +kernel, some_getD (by decide +kernel), by decide +kernel⟩,
   ⟨(w0.teamOf 2).gang, 0, savedTeam, ((restoreGo [] (savedTeam.gang (w0.teamOf 2).gang).members (coresOfCluster 0) savedTeam).getD w0),
       by decide +kernel, by decide +kernel, by decide +kernel, some_getD (by decide +kernel), by decide +kernel⟩⟩

theorem witness_CheckEvents :
    (∃ (tk : Nat) (s : State) (tm : Team), ((kvGet s.teams tk = some tm) ∧ (tm.kind = .original) ∧ (tm.ended = none) ∧ (s.canEnd tk = true) ∧
        ((s.launch tm.kid).checked = false) ∧ (kvGet s.sleeve tk = none) ∧ ((s.core tm.core).slog = []) ∧ True))
    ∧ (∃ (tk : Nat) (s : State) (tm : Team) (e : SleeveEntry), ((kvGet s.teams tk = some tm) ∧ (tm.kind = .replay) ∧ (tm.ended = none) ∧
        (s.canEnd tk = true) ∧ ((s.core tm.core).slog = []) ∧ (kvGet s.sleeve tm.sameAs = some e) ∧ (e.run = some tk) ∧ True))
    ∧ (∃ (line : Nat) (s : State) (v : Version), ((s.chainHead line = some v) ∧ (v.rel = false) ∧ (s.apron.count v = 1) ∧
        (s.resolved v.entry = true) ∧ ((s.team v.owner).chk.producers.all s.resolved = true) ∧ True))
    ∧ (∃ (line : Nat) (s : State) (v : Version), ((s.chainHead line = some v) ∧ (s.mayCommit v = false) ∧ True))
    ∧ (∃ (line : Nat) (s : State) (v : Version), ((s.chainHead line = some v) ∧ ∃ w, ((v.rel = true) ∧ (w ∈ s.apron) ∧ (w.based = true) ∧
        ((w.owner = v.owner ∨ (s.team v.owner).chk.producers.contains w.entry = true)) ∧ (s.mayCommit w = false) ∧ True)))
    ∧ (∃ (slice t : Nat) (s : State) (v : Version), ((kvGet s.fullAt slice = some t) ∧ (t + 100000 ≤ s.clk.toNat) ∧
        (s.groups.any (fun e => e.2.run == .room && (s.launchOf e.1).checked) = true) ∧
        (s.apron.find? (fun v => !isOutLine v.line && homeSlice (64 * v.line) = slice && v.based) = some v) ∧ True))
    ∧ (∃ (line entry : Nat) (s : State) (v : Version), (let l := s.launch (s.team entry).kid; (l.r.release = .after) ∧
        ((s.team entry).resid = .gone) ∧ ((s.team entry).endClk + 1000 * l.r.relTime ≤ s.clk.toNat) ∧
        (s.apron.find? (fun v => v.line == line && v.entry == entry && v.based) = some v) ∧ True))
    ∧ (∃ (s : State), ((s.decayed < s.clk.toNat / (2 ^ 20 * 1000)) ∧ True))
    ∧ (∃ (val : Nat) (s : State), ((s.hostOpen = true) ∧ (s.locked = false) ∧ True)) :=
  ⟨⟨1, (wg w0 (fun g => { g with run := .ended })), ((wg w0 (fun g => { g with run := .ended })).team 1), by decide +kernel⟩,
   ⟨1, (({ (wt (wg w0 (fun g => { g with run := .ended })) (fun tm => { tm with kind := .replay, sameAs := 9 })) with sleeve := [(9, sleeve1 none (some 1))] }) : State),
       ((({ (wt (wg w0 (fun g => { g with run := .ended })) (fun tm => { tm with kind := .replay, sameAs := 9 })) with sleeve := [(9, sleeve1 none (some 1))] }) : State).team 1),
       (sleeve1 none (some 1)), by decide +kernel⟩,
   ⟨5, (({ w0 with apron := [ver1 9] }) : State), (ver1 9), by decide +kernel⟩,
   ⟨5, (({ w0 with apron := [ver1 1], sleeve := [(1, sleeve1 none none)] }) : State), (ver1 1), by decide +kernel⟩,
   ⟨5, (({ w0 with apron := [{ ver1 9 with rel := true }, { ver1 1 with line := 6 }], sleeve := [(1, sleeve1 none none)] }) : State),
       { ver1 9 with rel := true }, by decide +kernel, { ver1 1 with line := 6 }, by decide +kernel⟩,
   ⟨(homeSlice 320), 0,
       (({ (wl (wg w0 (fun g => { g with run := .room })) (fun r => { r with level := .full })) with apron := [ver1 9], fullAt := [(homeSlice 320, 0)], clk := 100000 }) : State),
       (ver1 9), by decide +kernel⟩,
   ⟨5, 1, (({ (wt (wl w0 (fun r => { r with release := .after })) (fun tm => { tm with resid := .gone, endClk := 500 })) with apron := [ver1 1] }) : State),
       (ver1 1), by decide +kernel⟩,
   ⟨(({ w0 with clk := 1048576000 }) : State), by decide +kernel, trivial⟩,
   ⟨0, w0, by decide +kernel⟩⟩

theorem witness_SoftwareEvents :
    (∃ (t kid : Nat) (s : State), ((commands s 0 t kid = true) ∧ True))
    ∧ (∃ (fn t kid gk : Nat) (s : State) (g : Group), ((commands s fn t kid = true) ∧ (s.stoppedGroup kid (s.ctx t).tcarg = some gk) ∧
        (kvGet s.groups gk = some g) ∧ (g.live ≠ []) ∧ (g.inHandler = true) ∧ (g.stopAt ≠ none) ∧ True))
    ∧ (∃ (fn t kid gk : Nat) (s : State) (g : Group), ((commands s fn t kid = true) ∧ (s.stoppedGroup kid (s.ctx t).tcarg = some gk) ∧
        (kvGet s.groups gk = some g) ∧ (g.live ≠ []) ∧ True))
    ∧ (∃ (fn t kid gk : Nat) (s : State) (g : Group), ((commands s fn t kid = true) ∧ (s.stoppedGroup kid (s.ctx t).tcarg = some gk) ∧
        (kvGet s.groups gk = some g) ∧ (g.live ≠ []) ∧ ∃ st, ((g.inHandler = true) ∧ (g.stopAt = some st) ∧ (st.ex.Nodup) ∧ True)))
    ∧ (∃ (fn t kid tk : Nat) (rest : List Nat) (s : State) (tm : Team), ((commands s fn t kid = true) ∧
        (s.runsOf kid ((s.ctx t).tcarg % 2 ^ 32) = tk :: rest) ∧ (kvGet s.teams tk = some tm) ∧ (tm.ended = none) ∧ True))
    ∧ (∃ (t val n : Nat) (s : State), ((s.hostOpen = true) ∧ (t ≤ 16) ∧ (val.testBit 0 = true) ∧ ((s.ctx t).idone = true) ∧
        (isizeBytes (val / 2 ^ 8 % 16) = some n) ∧ True))
    ∧ (∃ (t val n : Nat) (s : State), ((s.hostOpen = true) ∧ (t ≤ 16) ∧ (val.testBit 0 = true) ∧ ((s.ctx t).idone = true) ∧
        (isizeBytes (val / 2 ^ 8 % 16) = some n) ∧ ((s.ctx t).shadow = 0) ∧ True))
    ∧ (∃ (t : Nat) (s : State), (((s.ctx t).idone = false) ∧
        (s.groups.all (fun e => s.tenantOf e.1 ≠ t || (e.2.unapplied.isEmpty && e.2.pend.all (fun p => p.ready || 32 < p.t))) = true) ∧ True))
    ∧ (∃ (t val n : Nat) (s : State), ((s.hostOpen = true) ∧ (t ≤ 16) ∧ (val.testBit 0 = true) ∧ ((s.ctx t).mdone = true) ∧
        (msizeBytes (val / 2 ^ 8 % 16) = some n) ∧ let base := val / 2 ^ 12 % 2 ^ 45 * 2 ^ 12;
        let held := s.apron.any (fun v => decide (base / n * n ≤ 64 * v.line ∧ 64 * v.line < base / n * n + n)); (held = true) ∧ True))
    ∧ (∃ (t val n : Nat) (s : State), ((s.hostOpen = true) ∧ (t ≤ 16) ∧ (val.testBit 0 = true) ∧ ((s.ctx t).mdone = true) ∧
        (msizeBytes (val / 2 ^ 8 % 16) = some n) ∧ let base := val / 2 ^ 12 % 2 ^ 45 * 2 ^ 12;
        let held := s.apron.any (fun v => decide (base / n * n ≤ 64 * v.line ∧ 64 * v.line < base / n * n + n)); (held = false) ∧ True))
    ∧ (∃ (t n : Nat) (s : State), (((s.ctx t).mdone = false) ∧ (msizeBytes (s.ctx t).msize = some n) ∧ True))
    ∧ (∃ (e src dst len : Nat) (s : State), ((s.ready = true) ∧ (e < 32) ∧ ((s.engine e).ring.length < 64) ∧ True))
    ∧ (∃ (fn t val : Nat) (s : State), ((s.hostOpen = true) ∧ (t ≤ 16) ∧ ((fn = 0 ∨ fn = t)) ∧ True))
    ∧ (∃ (fn t o val : Nat) (s : State), ((s.hostOpen = true) ∧ (t ≤ 16) ∧ ((fn = 0 ∨ fn = t)) ∧ (o < 0x100) ∧ (o ≠ 0x50) ∧ True))
    ∧ (∃ (unit die : Nat) (s : State), ((s.ready = true) ∧ True))
    ∧ (∃ (cl : Nat) (s : State), ((s.ready = true) ∧ (cl < Config.clusters) ∧ ((s.cluster cl).fenced = none) ∧ True))
    ∧ (∃ (cl : Nat) (s : State), (((s.cluster cl).fenced.isSome = true) ∧
        (s.teams.all (fun e => !e.2.resid.onCore || Config.clusterOf e.2.core ≠ cl) = true) ∧ (s.net.all (fun m => m.body ≠ .lost cl) = true) ∧
        True)) :=
  ⟨⟨0, kid1, w0, by decide +kernel, trivial⟩,
   ⟨0, 0, kid1, 2, stoppedGroup1, (stoppedGroup1.group 2), by decide +kernel⟩,
   ⟨0, 0, kid1, 2, stoppedGroup1, (stoppedGroup1.group 2), by decide +kernel⟩,
   ⟨0, 0, kid1, 2, stoppedGroup1, (stoppedGroup1.group 2), four (by decide +kernel) ⟨(⟨[0, 1], 0⟩ : StopAt), by decide +kernel⟩⟩,
   ⟨0, 0, kid1, 1, [], w0, (w0.team 1), by decide +kernel⟩,
   ⟨0, 1, 4096, w0, by decide +kernel⟩,
   ⟨0, 1, 4096, w0, by decide +kernel⟩,
   ⟨3, (w0.modCtx 3 (fun c => { c with idone := false })), by decide +kernel⟩,
   ⟨0, 0x101, 65536, (({ w0 with apron := [ver1 9] }) : State), by decide +kernel⟩,
   ⟨0, 0x101, 65536, w0, by decide +kernel⟩,
   ⟨3, 65536, (w0.modCtx 3 (fun c => { c with mdone := false, msize := 1 })), by decide +kernel⟩,
   ⟨31, 0, 0x9000, 16, w0, by decide +kernel⟩,
   ⟨16, 16, 0x80600000, w0, by decide +kernel⟩,
   ⟨0, 16, 0xF8, 5, w0, by decide +kernel⟩,
   ⟨1, 0, w0, by decide +kernel, trivial⟩,
   ⟨11, w0, by decide +kernel⟩,
   ⟨1, (({ w0 with clusters := [(1, { Cluster.reset 1 with fenced := some 0 })] }) : State), by decide +kernel⟩⟩

theorem witness_FabricEvents :
    (∃ (port : Nat) (f : Flit) (s : State), (((s.port port).live = true) ∧ ((s.port port).replay = []) ∧ (f.data.length = 32) ∧ (f.vc < 6) ∧
        ((s.chan port f.vc).credits ≠ 0) ∧ ((s.chan port f.vc).bad = false) ∧ ((64 ≤ port / 2 ∨ s.pausedTo ≤ s.clk.toNat)) ∧ (flitSound f = true) ∧
        True))
    ∧ (∃ (port : Nat) (f : Flit) (s : State), (((s.port port).live = true) ∧ ((s.port port).replay = []) ∧ (f.data.length = 32) ∧ (f.vc < 6) ∧
        ((s.chan port f.vc).credits ≠ 0) ∧ ((s.chan port f.vc).bad = false) ∧ ((64 ≤ port / 2 ∨ s.pausedTo ≤ s.clk.toNat)) ∧ (flitSound f = false) ∧
        ((s.port port).fails < 15) ∧ True))
    ∧ (∃ (port : Nat) (f r : Flit) (rest : List Flit) (s : State), (((s.port port).live = true) ∧ ((s.port port).replay = r :: rest) ∧
        (f.data.length = 32) ∧ (f.vc < 6) ∧ (f = r) ∧ (flitSound f = true) ∧ True))
    ∧ (∃ (leaf dst vc n : Nat) (s : State) (p : Pin), ((kvGet s.pins (pinKey leaf dst vc) = some p) ∧ (1 ≤ n) ∧ (n ≤ 8) ∧ (n ≤ p.count) ∧ True))
    ∧ (∃ (leaf dst vc n : Nat) (s : State) (p : Pin), ((kvGet s.pins (pinKey leaf dst vc) = some p) ∧ (1 ≤ n) ∧ (n ≤ 8) ∧ (n ≤ p.count) ∧ True))
    ∧ (∃ (port vc : Nat) (s : State), ((vc < 6) ∧ ((s.port port).audits = []) ∧ True))
    ∧ (∃ (port : Nat) (a : Audit) (rest : List Audit) (s : State), (((s.port port).audits = a :: rest) ∧
        let s' := s.setPort port { s.port port with audits := rest }; let c := s'.chan port a.vc; (c.bad = true) ∧ True))
    ∧ (∃ (port : Nat) (a : Audit) (rest : List Audit) (s : State), (((s.port port).audits = a :: rest) ∧
        let s' := s.setPort port { s.port port with audits := rest }; let c := s'.chan port a.vc; let out := (c.sent + 65536 - a.a) % 65536;
        (c.bad = false) ∧ (c.credits + out = a.f) ∧ True))
    ∧ (∃ (port : Nat) (a : Audit) (rest : List Audit) (s : State), (((s.port port).audits = a :: rest) ∧
        let s' := s.setPort port { s.port port with audits := rest }; let c := s'.chan port a.vc; let out := (c.sent + 65536 - a.a) % 65536;
        (c.bad = false) ∧ (c.credits + out ≠ a.f) ∧ (out ≤ a.f) ∧ True))
    ∧ (∃ (port vc : Nat) (s : State), ((vc < 6) ∧ ((s.chan port vc).bad = false) ∧ True))
    ∧ (∃ (port vc : Nat) (rest : List Nat) (s : State), (((s.port port).asked = vc :: rest) ∧ ((s.port port).audits = []) ∧ True))
    ∧ (∃ (port : Nat) (s : State), (let k := canonLink (port / 2); (port / 2 < 64) ∧ (k < 64) ∧ ((s.port (2 * k)).live = true) ∧
        ((s.bundleLive k 0).any (fun l => l ≠ k) = true) ∧ ((s.port (2 * k)).replay = []) ∧ ((s.port (2 * k + 1)).replay = []) ∧ True))
    ∧ (∃ (a b : Nat) (s : State), ((a < 4) ∧ (b < 4) ∧ (a ≠ b) ∧ (s.pausedTo ≤ s.clk.toNat) ∧
        ((rowFirst a b).any (fun k => (s.bundleLive k 0).isEmpty) = true) ∧ (s.colFirst.contains (a, b) = false) ∧ True))
    ∧ (∃ (link peer : Nat) (s : State), ((s.ready = true) ∧ (link < 16) ∧ True))
    ∧ (∃ (link : Nat) (s : State), ((link < 16) ∧ ((s.fabric.link link).up = true) ∧ True))
    ∧ (∃ (link : Nat) (p : Packet) (s : State), ((s.ready = true) ∧ (link < 16) ∧ ((s.fabric.link link).up = true) ∧ (s.fabric.node ≠ 0xFFF) ∧ ∃ l,
        ((p.ddev ≠ s.fabric.node) ∧ (p.hops + 1 < 8) ∧ (s.fabric.linkTo p.ddev = some l) ∧ True)))
    ∧ (∃ (link : Nat) (p : Packet) (s : State), ((s.ready = true) ∧ (link < 16) ∧ ((s.fabric.link link).up = true) ∧ (s.fabric.node ≠ 0xFFF) ∧
        (p.ddev ≠ s.fabric.node) ∧ (8 ≤ p.hops + 1) ∧ True))
    ∧ (∃ (link : Nat) (p : Packet) (s : State), ((s.ready = true) ∧ (link < 16) ∧ ((s.fabric.link link).up = true) ∧ (s.fabric.node ≠ 0xFFF) ∧ ∃ v,
        ((p.ddev = s.fabric.node) ∧ (isRequest p.body = true) ∧ (s.isMember p.group p.sdev = (true, v)) ∧ ((s.fabric.comm p.group).valid = true) ∧
        ((s.fabric.comm p.group).gen = p.gen) ∧ True)))
    ∧ (∃ (link : Nat) (p : Packet) (s : State), ((s.ready = true) ∧ (link < 16) ∧ ((s.fabric.link link).up = true) ∧ (s.fabric.node ≠ 0xFFF) ∧
        (p.ddev = s.fabric.node) ∧ (isRequest p.body = true) ∧ (((s.fabric.comm p.group).valid = false ∨ (s.fabric.comm p.group).gen ≠ p.gen)) ∧
        True))
    ∧ (∃ (s v : State) (img : List Byte), ((s.hostOpen = true) ∧ (s.fabricImage = (img, v)) ∧ True))
    ∧ (∃ (s : State), ((s.hostOpen = true) ∧ ((s.launches ≠ [] ∨ s.rings.any (fun r => r.2.en) = true)) ∧ True))
    ∧ (∃ (s : State), ((s.hostOpen = true) ∧ True))
    ∧ (∃ (off n : Nat) (bs : List Byte) (s : State), ((s.hostOpen = true) ∧ (off + n ≤ 2 ^ 36) ∧ True))
    ∧ (∃ (off n : Nat) (bs : List Byte) (s : State), ((s.hostOpen = true) ∧ (off + n ≤ 2 ^ 36) ∧ ∃ rd v,
        ((homeRead s (s.fabric.apbase + off) n = (rd, v)) ∧ (rd.pois = false) ∧ True)))
    ∧ (∃ (off n : Nat) (bs : List Byte) (s : State), ((s.hostOpen = true) ∧ (off + n ≤ 2 ^ 36) ∧ ∃ rd v,
        ((homeRead s (s.fabric.apbase + off) n = (rd, v)) ∧ (rd.pois = true) ∧ True)))
    ∧ (∃ (d val : Nat) (s : State), ((s.hostOpen = true) ∧ True))
    ∧ (∃ (d val : Nat) (s : State), ((s.hostOpen = true) ∧ (d < 4096) ∧ True))
    ∧ (∃ (stream : Nat) (key : List Byte) (s : State), ((stream ≤ 8) ∧ True))
    ∧ (∃ (fn : Nat) (s : State), ((1 ≤ fn) ∧ (fn ≤ 16) ∧ True)) :=
  ⟨⟨0, flit1, w0, by decide +kernel⟩,
   ⟨0, flit0, (port0 { Port.reset with fails := 14 }), by decide +kernel⟩,
   ⟨0, flit1, flit1, [], (port0 { Port.reset with replay := [flit1], fails := 14 }), by decide +kernel⟩,
   ⟨1, 2, 3, 8, (({ w0 with pins := [(pinKey 1 2 3, ⟨0, 8⟩)] }) : State), ⟨0, 8⟩, by decide +kernel⟩,
   ⟨1, 2, 3, 1, (({ w0 with pins := [(pinKey 1 2 3, ⟨0, 8⟩)] }) : State), (⟨0, 8⟩ : Pin), by decide +kernel⟩,
   ⟨0, 5, w0, by decide +kernel⟩,
   ⟨0, (⟨0, 0, 5⟩ : Audit), [], (port0 { Port.reset with audits := [⟨0, 0, 5⟩], vcs := chan0 (fun c => { c with bad := true }) }), by decide +kernel⟩,
   ⟨0, (⟨0, 0, (w0.chan 0 0).credits⟩ : Audit), [], (port0 { Port.reset with audits := [⟨0, 0, (w0.chan 0 0).credits⟩] }), by decide +kernel⟩,
   ⟨0, (⟨0, 0, 5⟩ : Audit), [], (port0 { Port.reset with audits := [⟨0, 0, 5⟩] }), by decide +kernel⟩,
   ⟨0, 5, w0, by decide +kernel⟩,
   ⟨0, 5, ([] : List Nat), (port0 { Port.reset with asked := [5] }), by decide +kernel⟩,
   ⟨0, w0, by decide +kernel⟩,
   ⟨0, 1, (({ w0 with ports := [(0, { Port.reset with live := false }), (2, { Port.reset with live := false }), (4, { Port.reset with live := false }), (6, { Port.reset with live := false })] }) : State),
       by decide +kernel⟩,
   ⟨15, 4095, w0, by decide +kernel⟩,
   ⟨0, linked, by decide +kernel⟩,
   ⟨0, (packet1 2 6 4), linked, four (by decide +kernel) ⟨0, by decide +kernel⟩⟩,
   ⟨0, (packet1 2 7 4), linked, by decide +kernel⟩,
   ⟨0, (packet1 1 0 4), linked, four (by decide +kernel) ⟨(linked.isMember 3 2).2, by decide +kernel⟩⟩,
   ⟨0, (packet1 1 0 5), linked, by decide +kernel⟩,
   ⟨w0, w0.fabricImage.2, w0.fabricImage.1, by decide +kernel, rfl, trivial⟩,
   ⟨w0, by decide +kernel⟩,
   ⟨w0, by decide +kernel, trivial⟩,
   ⟨(2 ^ 36 - 16), 16, [1], w0, by decide +kernel⟩,
   ⟨0, 16, ([] : List Byte), w0, by decide +kernel, by decide +kernel, (homeRead w0 0 16).1, (homeRead w0 0 16).2, by decide +kernel⟩,
   ⟨0, 16, ([] : List Byte), (({ w0 with mpois := [0] }) : State), by decide +kernel, by decide +kernel,
       (homeRead ({ w0 with mpois := [0] } : State) 0 16).1, (homeRead ({ w0 with mpois := [0] } : State) 0 16).2, by decide +kernel⟩,
   ⟨0, 5, w0, by decide +kernel, trivial⟩,
   ⟨4095, 0x8003, w0, by decide +kernel⟩,
   ⟨8, ([] : List Byte), w0, by decide +kernel, trivial⟩,
   ⟨16, w0, by decide +kernel⟩⟩

theorem witness_BringUpEvents :
    (∃ (s : State), ((s.phase = 0) ∧ (s.ready = false) ∧ (s.fail = false) ∧ True))
    ∧ (∃ (val : Nat) (s : State), ((s.linkOpen = true) ∧ (val.testBit 0 = true) ∧ (val / 2 ^ 48 % 65536 = 0x5C3A) ∧ True))
    ∧ (∃ (val : Nat) (s : State), ((s.linkOpen = true) ∧ ((val.testBit 0 = false ∨ val / 2 ^ 48 % 65536 ≠ 0x5C3A)) ∧ True))
    ∧ (∃ (s : State), ((s.ready = false) ∧ (s.fail = false) ∧ (s.phase = 2) ∧ (s.store.any (·.sound) = true) ∧ True))
    ∧ (∃ (s : State), ((s.ready = false) ∧ (s.fail = false) ∧ (s.phase = 2) ∧ (s.store.all (fun b => !b.sound) = true) ∧ True))
    ∧ (∃ (s : State), ((s.ready = false) ∧ (s.fail = false) ∧ (s.phase = 3) ∧ True))
    ∧ (∃ (s : State), ((s.ready = false) ∧ (s.fail = false) ∧ (s.phase = 4) ∧ True))
    ∧ (∃ (s : State), ((s.ready = false) ∧ (s.fail = false) ∧ (s.phase = 5) ∧ True))
    ∧ (∃ (s : State), ((s.ready = false) ∧ (s.fail = false) ∧ (s.phase = 6) ∧ True))
    ∧ (∃ (s : State), ((s.ready = false) ∧ (s.fail = false) ∧ ∃ n : Nat, ((s.phase = 1) ∧ True)))
    ∧ (∃ (s : State), ((s.ready = false) ∧ (s.fail = false) ∧ ∃ n : Nat, ((s.phase = 2) ∧ True)))
    ∧ (∃ (s : State), ((s.ready = false) ∧ (s.fail = false) ∧ ∃ n : Nat, ((s.phase = 3) ∧ True)))
    ∧ (∃ (s : State), ((s.ready = false) ∧ (s.fail = false) ∧ ∃ n : Nat, ((s.phase = 4 ∨ s.phase = 5) ∧ True)))
    ∧ (∃ (image : List Byte) (version : Nat) (sig : List Byte) (s : State), ((s.fail = true) ∧ (s.phase = 1) ∧ ((s.fcode = 1 ∨ s.fcode = 2)) ∧ True))
    ∧ (∃ (r : StoreRec) (sig : List Byte) (s : State), ((s.phase ≠ 0) ∧ let b := (s.store.getD (newestBank s.store) (Bank.shipped 0)).update r sig;
        (b = none) ∧ True))
    ∧ (∃ (val : Nat) (s : State), ((s.hostOpen = true) ∧ True))
    ∧ (∃ (die n : Nat) (s : State), ((s.ready = true) ∧ (die < 4) ∧ (n ≤ 18) ∧ ((s.stepOf die).1 ≠ n) ∧
        ((kvGet s.steps die = none ∨ (s.stepOf die).2 + 100000 ≤ s.clk.toNat)) ∧ True))
    ∧ (∃ (q : Nat) (s : State), ((q < Config.quads) ∧ True))
    ∧ (∃ (temp : Nat) (s : State), ((105 ≤ temp) ∧ (s.fail = false) ∧ (s.phase ≠ 0) ∧ True))
    ∧ (∃ (s : State), ((s.fail = false) ∧ (s.phase ≠ 0) ∧ True)) :=
  ⟨⟨(phase1 0), by decide +kernel⟩,
   ⟨0x5C3A000000000001, w0, by decide +kernel⟩,
   ⟨0x100, w0, by decide +kernel⟩,
   ⟨(phase1 2), by decide +kernel⟩,
   ⟨(({ phase1 2 with store := [] }) : State), by decide +kernel⟩,
   ⟨(phase1 3), by decide +kernel⟩,
   ⟨(phase1 4), by decide +kernel⟩,
   ⟨(phase1 5), by decide +kernel⟩,
   ⟨(phase1 6), by decide +kernel⟩,
   ⟨(phase1 1), by decide +kernel, by decide +kernel, 0, by decide +kernel, trivial⟩,
   ⟨(phase1 2), by decide +kernel, by decide +kernel, 0, by decide +kernel, trivial⟩,
   ⟨(phase1 3), by decide +kernel, by decide +kernel, 0, by decide +kernel, trivial⟩,
   ⟨(phase1 5), by decide +kernel, by decide +kernel, 0, by decide +kernel, trivial⟩,
   ⟨([] : List Byte), 1, ([] : List Byte), (({ phase1 1 with fail := true, fcode := 2 }) : State), by decide +kernel⟩,
   ⟨(.minFw 0 false), ([] : List Byte), (({ phase1 1 with store := [{ Bank.shipped 0 with minFw := 1 }] }) : State), by decide +kernel⟩,
   ⟨2, w0, by decide +kernel, trivial⟩,
   ⟨3, 18, w0, by decide +kernel⟩,
   ⟨0, w0, by decide +kernel, trivial⟩,
   ⟨105, w0, by decide +kernel⟩,
   ⟨w0, by decide +kernel⟩⟩

theorem witness_AttestationEvents :
    (∃ (fn : Nat) (req : List Byte) (s : State), ((s.phase ≠ 0) ∧ (fn ≤ 16) ∧ True))
    ∧ (∃ (fn : Nat) (req : List Byte) (s : State), ((s.phase ≠ 0) ∧ (fn ≤ 16) ∧ ((s.session fn).opened = true) ∧ True))
    ∧ (∃ (t : Nat) (payload : List Byte) (s : State), ((s.phase ≠ 0) ∧ (t ≤ 16) ∧ (payload.length = 96) ∧ ((s.session t).secured = true) ∧
        (s.launches.all (fun e => e.2.r.tenant ≠ t) = true) ∧ True))
    ∧ (∃ (t : Nat) (payload : List Byte) (s : State), ((s.phase ≠ 0) ∧ (t ≤ 16) ∧ ((payload.length ≠ 96 ∨ (s.session t).secured = false)) ∧ True))
    ∧ (∃ (fn : Nat) (payload : List Byte) (s : State), ((s.phase ≠ 0) ∧ (fn ≤ 16) ∧ (payload.length = 80) ∧ ((s.session fn).secured = true) ∧ True))
    ∧ (∃ (fn : Nat) (payload : List Byte) (s : State), ((s.phase ≠ 0) ∧ (fn ≤ 16) ∧ (payload.length = 80) ∧ ((s.session fn).secured = false) ∧ True))
    ∧ (∃ (nonce : List Byte) (s : State), ((s.phase ≠ 0) ∧ (nonce.length = 32) ∧ True)) :=
  ⟨⟨16, ([] : List Byte), w0, by decide +kernel⟩,
   ⟨3, ([] : List Byte), (({ w0 with sessions := [(3, ⟨[], true, false⟩)] }) : State), by decide +kernel⟩,
   ⟨16, (List.replicate 96 0), (({ w0 with sessions := [(16, ⟨[], true, true⟩)] }) : State), by decide +kernel⟩,
   ⟨16, [], w0, by decide +kernel⟩,
   ⟨0, (List.replicate 80 0), (({ w0 with sessions := [(0, ⟨[], true, true⟩)] }) : State), by decide +kernel⟩,
   ⟨0, (List.replicate 80 0), w0, by decide +kernel⟩,
   ⟨(List.replicate 32 0), w0, by decide +kernel⟩⟩

theorem witness_DecodeEncode :
    (∃ (i : Instr) (w fx : DWord) (ws : List DWord), ((i.wellFormed = true) ∧ (encode i = w :: ws) ∧ True))
    ∧ (∃ (i : Instr) (w fx : DWord), ((decode w fx = .ok i) ∧ True)) :=
  ⟨⟨(.nop f2z), 0x0E20FFFFF0FFC000, 5, [], by decide +kernel⟩,
   ⟨(.nop f2z), 0x0E20FFFFF0FFC000, 5, rfl, trivial⟩⟩

theorem witness_StepRunsDecodedInstruction :
    (∃ (s : State) (t : Turn) (ts : List Turn) (gk : Nat) (i : Instr) (w fx : DWord), ((s.agenda = t :: ts) ∧ (t.act = .issue gk) ∧
        ((turned s t ts).mayIssue gk = true) ∧ ((turned s t ts).entered gk = true) ∧ (nextWord (turned s t ts) gk w fx) ∧ (decode w fx = .ok i) ∧
        True))
    ∧ (∃ (s : State) (t : Turn) (ts : List Turn) (gk : Nat), ((s.agenda = t :: ts) ∧ (t.act = .issue gk) ∧ ((turned s t ts).mayIssue gk = true) ∧
        ((turned s t ts).entered gk = false) ∧ True))
    ∧ (∃ (s : State) (t : Turn) (ts : List Turn) (i : Instr), ((s.agenda = t :: ts) ∧ (t.act = .event i) ∧ (encode i = []) ∧ (i ≠ .blockFetch) ∧
        True)) :=
  ⟨⟨(({ w0 with agenda := [({ Turn.own (.issue 2) with dCycles := 0, dClk := 0 } : Turn)] }) : State),
      ({ Turn.own (.issue 2) with dCycles := 0, dClk := 0 } : Turn), [], 2, (.nop f2z), 0x0E20FFFFF0FFC000, 0, by decide +kernel, rfl,
      by decide +kernel, by decide +kernel, ⟨⟨2, 128, 32, .inherit⟩, by decide +kernel, by decide +kernel, by decide +kernel, by decide +kernel⟩,
      rfl, trivial⟩,
   ⟨(({ (wg w0 (fun g => { g with threads := g.threads.map (fun th => { th with ent := none }) })) with agenda := [({ Turn.own (.issue 2) with dCycles := 0, dClk := 0 } : Turn)] }) : State),
       ({ Turn.own (.issue 2) with dCycles := 0, dClk := 0 } : Turn), [], 2, by decide +kernel, rfl, by decide +kernel⟩,
   ⟨(({ w0 with agenda := [Turn.own (.event (.patrolScrub 0))] }) : State), (Turn.own (.event (.patrolScrub 0))), [], (.patrolScrub 0),
       by decide +kernel, rfl, rfl, nofun, trivial⟩⟩

theorem witness_EmptyExec :
    (∃ (i : Instr) (w : DWord) (ws : List DWord) (s : State), ((i.wellFormed = true) ∧ (encode i = w :: ws) ∧ let h := hdrOf w.toNat;
        let size := 8 * (ws.length + 1); ((kvGet s.groups s.cur).isSome = true) ∧ ((s.issue h size).ex = []) ∧ ((s.issue h size).issuing ≠ []) ∧
        True))
    ∧ (∃ (h : Hdr) (size : Nat) (s : State), (((kvGet s.groups s.cur).isSome = true) ∧ ((s.issue h size).ex = []) ∧ ((s.issue h size).issuing ≠ []) ∧
        True))
    ∧ (∃ (h : Hdr) (size : Nat) (s : State), (((kvGet s.groups s.cur).isSome = true) ∧ ((s.issue h size).ex ≠ []) ∧ True))
    ∧ (∃ (h : Hdr) (op : Fin 512) (low : BitVec 48) (s : State), (((kvGet s.groups s.cur).isSome = true) ∧ ((s.issue h 8).ex ≠ []) ∧ True))
    ∧ (∃ (s u v : State) (e : FetchErr), (((kvGet s.groups s.cur).isSome = true) ∧ ((s.group s.cur).issuing ≠ []) ∧
        let is := s.issue ⟨false, .inherit, false, 7⟩ 8; (reloadSpans s.cur (s.coreOf s.cur) (s.tenantOf s.cur) [0, 1, 2, 3] s = (.ok (), u)) ∧
        ((u.group s.cur).loopAt is.blk = none) ∧ (fetchBlock (u.group s.cur).bufWord u (s.coreOf s.cur) (s.tenantOf s.cur) is.blk = (.error e, v)) ∧
        True)) :=
  ⟨⟨(.nop { f2z with h := ⟨false, .inherit, true, 7⟩ }), ((encode (.nop { f2z with h := ⟨false, .inherit, true, 7⟩ })).headD 0), [], w0,
      by decide +kernel⟩,
   ⟨⟨false, .inherit, true, 7⟩, 8, w0, by decide +kernel⟩,
   ⟨hd, 8, w0, by decide +kernel⟩,
   ⟨hd, 0x1FE, 0, w0, by decide +kernel⟩,
   ⟨w0, (reloadSpans 2 (w0.coreOf 2) (w0.tenantOf 2) [0, 1, 2, 3] w0).2, (fetchBlock (((reloadSpans 2 (w0.coreOf 2) (w0.tenantOf 2) [0, 1, 2,
       3] w0).2).group 2).bufWord (reloadSpans 2 (w0.coreOf 2) (w0.tenantOf 2) [0, 1, 2,
       3] w0).2 (w0.coreOf 2) (w0.tenantOf 2) (w0.issue hd 8).blk).2, (eErr ⟨0, 0, 0,
       false⟩ (fetchBlock (((reloadSpans 2 (w0.coreOf 2) (w0.tenantOf 2) [0, 1, 2,
       3] w0).2).group 2).bufWord (reloadSpans 2 (w0.coreOf 2) (w0.tenantOf 2) [0, 1, 2,
       3] w0).2 (w0.coreOf 2) (w0.tenantOf 2) (w0.issue hd 8).blk)), by decide +kernel, by decide +kernel, pair_ok (by decide +kernel),
       by decide +kernel, pair_error (by decide +kernel), trivial⟩⟩

theorem witness_LaneOperandTraps :
    (∃ (i : Instr) (h : Hdr) (size : Nat) (sp : LaneSpec) (s : State), ((laneOf i = some (h, size, sp)) ∧ (ready h size s = true) ∧
        let bad6 := sp.dst.isUniform && (sp.noUniform || sp.srcs.any SrcSpec.varies); (bad6 = true) ∧ True))
    ∧ (∃ (i : Instr) (h : Hdr) (size : Nat) (sp : LaneSpec) (s : State), ((laneOf i = some (h, size, sp)) ∧ (ready h size s = true) ∧
        let bad6 := sp.dst.isUniform && (sp.noUniform || sp.srcs.any SrcSpec.varies); let bad7 := sp.srcs.any (permOverlap sp.dst); (bad6 = false) ∧
        (bad7 = true) ∧ True))
    ∧ (∃ (i : Instr) (h : Hdr) (size : Nat) (sp : LaneSpec) (s : State), ((laneOf i = some (h, size, sp)) ∧ (ready h size s = true) ∧
        let r := s.roleOf s.cur; let bad6 := sp.dst.isUniform && (sp.noUniform || sp.srcs.any SrcSpec.varies);
        let bad7 := sp.srcs.any (permOverlap sp.dst);
        let bad8 := (match sp.dst with | .reg o n => regOut r.vregs r.sregs o n | _ => false) || sp.srcs.any (fun x => match x with | .reg o _ n _ => regOut r.vregs r.sregs o n | _ => false);
        (bad6 = false) ∧ (bad7 = false) ∧ (bad8 = true) ∧ True))
    ∧ (∃ (i : Instr) (h : Hdr) (size : Nat) (sp : LaneSpec) (s : State), ((laneOf i = some (h, size, sp)) ∧ (ready h size s = true) ∧
        let is := s.issue h size; let r := s.roleOf s.cur; let bad6 := sp.dst.isUniform && (sp.noUniform || sp.srcs.any SrcSpec.varies);
        let bad7 := sp.srcs.any (permOverlap sp.dst);
        let bad8 := (match sp.dst with | .reg o n => regOut r.vregs r.sregs o n | _ => false) || sp.srcs.any (fun x => match x with | .reg o _ n _ => regOut r.vregs r.sregs o n | _ => false);
        (bad6 = false) ∧ (bad7 = false) ∧ (bad8 = false) ∧ (sp.dst.isUniform = false) ∧
        (indexBound r.vregs ((s.group s.cur).thread is.lowest) sp.dst sp.srcs = true) ∧ True)) :=
  ⟨⟨(.iadd { f2z with d := .s 3, a := .v 1 }), hd, 8, _, w0, rfl, by decide +kernel⟩,
   ⟨(.iadd { f2z with d := .v 1, a := .v 1, pa := 1 }), hd, 8, _, w0, rfl, by decide +kernel⟩,
   ⟨(.iadd { f2z with d := .v 3, a := .v 128 }), hd, 8, _, w0, rfl, by decide +kernel⟩,
   ⟨(.iadd { f2z with d := .v 3, a := .x 0 }), hd, 8, _, (w0.modThread 2 0 (fun th => { th with x := [(0, 128)] })), rfl, by decide +kernel⟩⟩

theorem witness_PredicateSeven :
    (∃ (f : F2) (s : State), ((f.d = .v 7) ∧ (ready f.h 8 s = true) ∧ (laneClear (specIcmp f) s (s.issue f.h 8) (s.issue f.h 8).ex = true) ∧ True))
    ∧ (∃ (h : Hdr) (size : Nat) (s : State), ((h.gp = 7) ∧ (h.gn = true) ∧ ((s.group s.cur).resuming = []) ∧ True)) :=
  ⟨⟨{ f2z with d := .v 7 }, w0, by decide +kernel⟩,
   ⟨⟨false, .inherit, true, 7⟩, 8, w0, by decide +kernel⟩⟩

theorem witness_IntegerValues :
    (∃ (f : F2), (((Instr.bfx f).wellFormed = true) ∧ True))
    ∧ (∃ (f : F2), (((Instr.lea f).wellFormed = true) ∧ True))
    ∧ (∃ (f : F2), (((Instr.sel f).wellFormed = true) ∧ True)) :=
  ⟨⟨{ f2z with d := .v 3 }, by decide +kernel, trivial⟩,
   ⟨{ f2z with d := .v 4 }, by decide +kernel, trivial⟩,
   ⟨{ f2z with d := .v 3, ty := .b32 }, by decide +kernel, trivial⟩⟩

theorem witness_ResetState :
    (∃ t, ((t ≤ 16) ∧ ∃ off, ((off < 0x100) ∧ True)))
    ∧ (∃ l, ((l < 16) ∧ True))
    ∧ (∃ d, ((d < 4096) ∧ True))
    ∧ (∃ g, ((g < 256) ∧ True))
    ∧ (∃ p, ((p < 4096) ∧ True))
    ∧ (∃ c, ((c < 1200) ∧ True)) :=
  ⟨⟨16, by decide +kernel, 0xFF, by decide +kernel, trivial⟩,
   ⟨15, by decide +kernel, trivial⟩,
   ⟨4095, by decide +kernel, trivial⟩,
   ⟨255, by decide +kernel, trivial⟩,
   ⟨4095, by decide +kernel, trivial⟩,
   ⟨1199, by decide +kernel, trivial⟩⟩

theorem witness_StepKeepsMemoryWf : (∃ (s t : State), ((s.memoryWf) ∧ (step s = .next t) ∧ True)) :=
  ⟨(({ w0 with agenda := [({ Turn.own (.issue 2) with dCycles := 0, dClk := 0 } : Turn)] }) : State),
      (match step (({ w0 with agenda := [({ Turn.own (.issue 2) with dCycles := 0, dClk := 0 } : Turn)] }) : State) with | .next u => u | _ => w0),
      ⟨by decide +kernel, by decide +kernel⟩, next_of (by decide +kernel), trivial⟩

/-- The two outcomes of the firmware check, the first under the premise that the signature verifies, and an accepted record: the
verification is a free function of Config, so that no state decides it. -/
theorem witness_BringUpEvents_firmware :
    (∃ (s : State), s.ready = false ∧ s.fail = false ∧ s.phase = 1 ∧ ∃ n, s.firmwareBad = some n)
    ∧ (Config.ecdsaVerify Config.keyFirmware (Config.sha384 (phase1 1).fw) (phase1 1).fwSig = true →
        ∃ (s : State), s.ready = false ∧ s.fail = false ∧ s.phase = 1 ∧ s.firmwareBad = none)
    ∧ (byTvedley (.repair [] [] []) [] = true →
        ∃ (r : StoreRec) (sig : List Byte) (s : State) (b' : Bank), s.phase ≠ 0
          ∧ (s.store.getD (newestBank s.store) (Bank.shipped 0)).update r sig = some b') := by
  refine ⟨⟨{ phase1 1 with store := [{ Bank.shipped 0 with minFw := 2 ^ 64 }] }, rfl, rfl, rfl, ?_⟩,
    fun h => ⟨phase1 1, rfl, rfl, rfl, ?_⟩, fun h => ⟨.repair [] [] [], [], phase1 1, ?_⟩⟩
  · unfold State.firmwareBad
    split
    · exact ⟨1, rfl⟩
    · exact ⟨2, if_pos (by decide +kernel)⟩
  · unfold State.firmwareBad
    rw [if_neg (by rw [h]; decide), if_neg (by decide +kernel)]
  · exact ⟨_, by decide, if_pos h⟩

/-- A fabric image of zeros, with its digest, and a manifest of no entries that names it. -/
def image0 : List Byte := List.replicate 157696 0
def manifest0 : List Byte := Word.toBytes 8 0x100000 ++ Word.toBytes 4 0 ++ Word.toBytes 2 1 ++ Word.toBytes 2 0
def restorable : State :=
  { State.reset with ready := true, fabric := { Fabric.reset with fabarg := 0 }
                     mem := cellsWrite (cellsWrite [] 0 manifest0) (0x100000 + 157696) (digestOf image0) }

theorem digestOf_length (bs : List Byte) : (digestOf bs).length = 16 := rfl

theorem two_writes (ds : List Byte) (h : ds.length = 16) (a j : Nat) : kvGetD memDefault (cellsWrite (cellsWrite [] 0 manifest0) a ds) j =
    if a ≤ j ∧ j < a + 16 then ds.getD (j - a) 0 else if j < 16 then manifest0.getD j 0 else 0 := by
  rw [cellsWrite_read, cellsWrite_read, h, show manifest0.length = 16 from rfl]
  simp only [Nat.zero_le, true_and, Nat.zero_add, Nat.sub_zero]
  rfl

theorem restorable_mem : restorable.mem = cellsWrite (cellsWrite [] 0 manifest0) (0x100000 + 157696) (digestOf image0) := by
  unfold restorable
  with_reducible rfl

theorem restorable_memByte (j : Nat) : restorable.memByte j =
    if 0x100000 + 157696 ≤ j ∧ j < 0x100000 + 157696 + 16 then (digestOf image0).getD (j - (0x100000 + 157696)) 0
    else if j < 16 then manifest0.getD j 0 else 0 := by
  unfold State.memByte
  rw [restorable_mem, two_writes _ (digestOf_length image0)]

theorem restorable_image : restorable.memRead 0x100000 157712 = image0 ++ digestOf image0 := by
  have h₁ : restorable.memRead 0x100000 157696 = image0 := by
    refine List.ext_getElem (by rw [State.memRead_length]; exact (List.length_replicate).symm) (fun i h₁ _ => ?_)
    rw [State.memRead_length] at h₁
    simp only [State.memRead, List.getElem_map, List.getElem_range, restorable_memByte]
    rw [if_neg (by omega), if_neg (by omega)]
    exact (List.getElem_replicate ..).symm
  have h₂ : restorable.memRead (0x100000 + 157696) 16 = digestOf image0 := by
    have hd : (digestOf image0).length = 16 := digestOf_length image0
    refine List.ext_getElem (by simp [hd]) (fun i h₁ h₂ => ?_)
    simp only [State.memRead, List.getElem_map, List.getElem_range, restorable_memByte]
    rw [State.memRead_length] at h₁
    rw [if_pos (by omega), Nat.add_sub_cancel_left, List.getD_eq_getElem?_getD, List.getElem?_eq_getElem h₂, Option.getD_some]
  exact (State.memRead_add restorable 0x100000 157696 16).trans (by rw [h₁, h₂])

theorem restorable_manifest : restorable.memRead 0 16 = manifest0 := by
  refine List.ext_getElem (by rw [State.memRead_length]; rfl) (fun i h₁ h₂ => ?_)
  rw [State.memRead_length] at h₁
  simp only [State.memRead, List.getElem_map, List.getElem_range, restorable_memByte]
  rw [if_neg (by omega), if_pos (by omega), Nat.zero_add, List.getD_eq_getElem?_getD, List.getElem?_eq_getElem h₂, Option.getD_some]

/-- A restore whose manifest and image check (17 R486, R487). -/
theorem witness_FabricEvents_restore : ∃ (s : State) (hd bd im : MemRd) (v₁ v₂ v₃ v₄ : State),
    s.ready = true ∧ s.launches = [] ∧ s.rings.all (fun r => !r.2.en) = true ∧ homeRead s s.fabric.fabarg 16 = (hd, v₁) ∧
    (let w := Word.ofBytes hd.bytes
     let n := w / 2 ^ 64 % 2 ^ 32
     hd.pois = false ∧ n ≤ 65535 ∧ w / 2 ^ 96 % 65536 ≠ 0 ∧ w / 2 ^ 112 % 65536 = 0 ∧ homeRead v₁ (s.fabric.fabarg + 16) (48 * n) = (bd, v₂)
      ∧ bd.pois = false ∧
      (let es := (List.range n).map (fun i => manEntry ((bd.bytes.drop (48 * i)).take 48))
       es.all (fun e => e.len ≤ 2 ^ 40 && e.zero = 0) = true ∧ restoreEntries 0 es v₂ = (none, v₃)
        ∧ homeRead v₃ (w % 2 ^ 64) 157712 = (im, v₄) ∧ im.pois = false ∧ digestOf (im.bytes.take 157696) = im.bytes.drop 157696)) := by
  have q : ∀ pa n, restorable.inMap pa = true → homeRead restorable pa n = (⟨restorable.memRead pa n, restorable.memPois pa n⟩, restorable) :=
    fun pa n h => homeRead_quiet rfl rfl rfl rfl h n
  have p : ∀ pa n, restorable.memPois pa n = false := fun pa n => by simp [State.memPois, restorable, State.reset]
  have l : image0.length = 157696 := List.length_replicate
  refine ⟨restorable, ⟨manifest0, false⟩, ⟨[], false⟩, ⟨image0 ++ digestOf image0, false⟩, restorable, restorable, restorable, restorable,
    rfl, rfl, rfl, ?_, rfl, by decide +kernel, by decide +kernel, by decide +kernel, ?_, rfl, by decide +kernel, ?_, ?_, rfl, ?_⟩
  · rw [show restorable.fabric.fabarg = 0 from rfl, q 0 16 (by decide +kernel), restorable_manifest, p]
  · rw [show 48 * (Word.ofBytes manifest0 / 2 ^ 64 % 2 ^ 32) = 0 by decide +kernel, show restorable.fabric.fabarg + 16 = 16 from rfl,
      q 16 0 (by decide +kernel), p]; rfl
  · rw [show Word.ofBytes manifest0 / 2 ^ 64 % 2 ^ 32 = 0 by decide +kernel]; rfl
  · rw [show Word.ofBytes manifest0 % 2 ^ 64 = 0x100000 by decide +kernel, q _ _ (by decide +kernel), restorable_image, p]
  · show digestOf ((image0 ++ digestOf image0).take 157696) = (image0 ++ digestOf image0).drop 157696
    rw [← l, List.take_left, List.drop_left]

/-- BFX, LEA and SEL in a state that meets the hypotheses of what they deliver: the field of 32 bits from bit 31 up, a negative index
scaled by 2^3, and both choices. -/
theorem witness_IntegerValues_gives :
    (∃ (f : F2) (h : Hdr) (size : Nat) (sp : LaneSpec) (s : State) (n : Fin 256), laneOf (.bfx f) = some (h, size, sp)
      ∧ (Instr.bfx f).wellFormed = true ∧ ready h size s = true ∧ f.d = .v n ∧ laneClear sp s (s.issue h size) (s.issue h size).ex = true)
    ∧ (∃ (f : F2) (h : Hdr) (size : Nat) (sp : LaneSpec) (s : State) (n : Fin 256), laneOf (.lea f) = some (h, size, sp)
      ∧ (Instr.lea f).wellFormed = true ∧ ready h size s = true ∧ f.d = .v n ∧ laneClear sp s (s.issue h size) (s.issue h size).ex = true)
    ∧ (∃ (f : F2) (h : Hdr) (size : Nat) (sp : LaneSpec) (s : State) (n : Fin 256), laneOf (.sel f) = some (h, size, sp)
      ∧ (Instr.sel f).wellFormed = true ∧ ready h size s = true ∧ f.d = .v n ∧ laneClear sp s (s.issue h size) (s.issue h size).ex = true) :=
  ⟨⟨{ f2z with d := .v 3, a := .v 1, b := .v 2 }, hd, 8, _, wv (wv w0 0 1 0xF0F0F0F0) 0 2 (31 + 256 * 32), 3, rfl, by decide +kernel,
      by decide +kernel, rfl, by decide +kernel⟩,
   ⟨{ f2z with d := .v 4, a := .s 2, b := .v 2, sub := 3 }, hd, 8, _, wv w0 0 2 0xFFFFFFFF, 4, rfl, by decide +kernel, by decide +kernel, rfl,
      by decide +kernel⟩,
   ⟨{ f2z with d := .v 3, a := .v 1, b := .int 5, ty := .b32, sub := 1 }, hd, 8, _, w0, 3, rfl, by decide +kernel, by decide +kernel, rfl,
      by decide +kernel⟩⟩

end Sys2Proof.Tests
end

section
/-!
SUPPORT. What a turn runs (log 1; 03 R114).
-/
namespace Sys2Proof.Machine
open Sys2Proof Sys2Proof.Claims

/-- A group reads the instruction that its next words decode to. -/
theorem readInstr_of_nextWord {s : State} {gk : Nat} {w fx : DWord} {i : Instr} (hw : nextWord s gk w fx) (hd : decode w fx = .ok i) :
    s.readInstr gk = .run i := by
  obtain ⟨e, hent, hword, hfx, hfit⟩ := hw
  have hin : ¬ ((wordSize w.toNat = 16 && decide (((s.group gk).thread ((s.group gk).issuing.headD 0)).blk.toNat + 8 + 8 * e.len
      < ((s.group gk).thread ((s.group gk).issuing.headD 0)).pc.toNat + 16)) = true) := by
    simp only [Bool.and_eq_true, decide_eq_true_eq, not_and, Nat.not_lt]; exact hfit
  unfold State.readInstr
  simp only [hent, hword, hin, ← hfx, BitVec.ofNat_toNat, BitVec.setWidth_eq, hd]
  rfl

theorem step_of_agenda {s : State} {t : Turn} {ts : List Turn} (h : s.agenda = t :: ts) :
    step s = closeTurn (perform (turned s t ts) t.act) := by
  unfold step
  rw [h]
  rfl

theorem perform_of_run {s : State} {a : Act} {i : Instr} (h : s.chosen a = .run i) : perform s a = exec i (s.toIssue a) := by
  unfold perform
  rw [h]

/-- Settles O53: a turn runs what its act comes to, and a group's act comes to its next word. -/
theorem stepRunsDecodedInstruction : Obligations.StepRunsDecodedInstruction := by
  refine ⟨?_, ?_, ?_⟩
  · intro s t ts gk i w fx ha ht hmay hin hw hd
    rw [step_of_agenda ha, ht, perform_of_run (i := i)]
    · rfl
    · simp only [State.chosen, hmay, hin, Bool.not_true, Bool.false_eq_true, if_false]
      exact readInstr_of_nextWord hw hd
  · intro s t ts gk ha ht hmay hin
    rw [step_of_agenda ha, ht, perform_of_run (i := .blockFetch)]
    · rfl
    · simp [State.chosen, hmay, hin]
  · intro s t ts i ha ht he hne
    rw [step_of_agenda ha, ht, perform_of_run (i := i)]
    · rfl
    · simp [State.chosen, he, hne]

end Sys2Proof.Machine
end

section
/-!
SUPPORT. Rules about the current group: its threads, states that differ in it only, the issue of an instruction and its end (01 R42,
R45, R51).
-/
namespace Sys2Proof.Machine
open Sys2Proof Sys2Proof.Claims

/-! ## A state in which a group is replaced -/

/-- The state with another group under a key. -/
def State.withGroup (s : State) (k : Nat) (g : Group) : State := { s with groups := kvSet s.groups k g }

@[simp] theorem State.withGroup_group (s : State) (k : Nat) (g : Group) : (s.withGroup k g).group k = g := by
  simp [State.group, State.withGroup]

@[simp] theorem State.withGroup_modGroup (s : State) (k : Nat) (g : Group) (f : Group → Group) :
    (s.withGroup k g).modGroup k f = s.withGroup k (f g) := by
  simp [State.modGroup, State.withGroup, kvMod]

/-! ## Threads of a group -/

theorem Group.thread_modThread (g : Group) (t j : Nat) (f : Thread → Thread) :
    (g.modThread t f).thread j = if t = j ∧ j < g.threads.length then f (g.thread j) else g.thread j := by
  simp only [Group.thread, Group.modThread, List.getD_eq_getElem?_getD, List.getElem?_modify]
  by_cases hj : j < g.threads.length
  · by_cases e : t = j <;> simp [e, hj]
  · simp [hj]

@[simp] theorem Group.modThread_length (g : Group) (t : Nat) (f : Thread → Thread) :
    (g.modThread t f).threads.length = g.threads.length := by simp [Group.modThread]

theorem onThreads_length (g : Group) (ts : List Nat) (f : Nat → Thread → Thread) : (onThreads g ts f).threads.length = g.threads.length := by
  simp [onThreads]

theorem thread_onThreads (g : Group) (ts : List Nat) (f : Nat → Thread → Thread) (j : Nat) :
    (onThreads g ts f).thread j = if j ∈ ts ∧ j < g.threads.length then f j (g.thread j) else g.thread j := by
  by_cases hj : j < g.threads.length
  · simp [onThreads, Group.thread, List.getD_eq_getElem?_getD, hj]
  · simp [onThreads, Group.thread, List.getD_eq_getElem?_getD, hj]

theorem Group.threads_eq {g : Group} {l : List Thread} (hl : g.threads.length = l.length)
    (h : ∀ j, j < g.threads.length → g.thread j = l.getD j Thread.fresh) : g.threads = l := by
  refine List.ext_getElem hl (fun j h₁ h₂ => ?_)
  have := h j h₁
  simpa [Group.thread, List.getD_eq_getElem?_getD, h₁, h₂] using this

theorem onThreads_congr {g : Group} {ts us : List Nat} {f k : Nat → Thread → Thread}
    (h : ∀ j, j < g.threads.length → (if j ∈ ts then f j (g.thread j) else g.thread j) = if j ∈ us then k j (g.thread j) else g.thread j) :
    onThreads g ts f = onThreads g us k := by
  have e : (onThreads g ts f).threads = (onThreads g us k).threads :=
    List.map_congr_left (fun j hj => by simpa using h j (List.mem_range.mp hj))
  show { g with threads := (onThreads g ts f).threads } = { g with threads := (onThreads g us k).threads }
  rw [e]

theorem onThreads_nil (g : Group) (f : Nat → Thread → Thread) : onThreads g [] f = g := by
  have e : (onThreads g [] f).threads = g.threads :=
    (Group.threads_eq (onThreads_length g [] f).symm (fun j _ => ((thread_onThreads g [] f j).trans (by simp)).symm)).symm
  show { g with threads := (onThreads g [] f).threads } = g
  rw [e]

theorem onThreads_onThreads (g : Group) (ts us : List Nat) (f k : Nat → Thread → Thread) :
    onThreads (onThreads g ts f) us k = onThreads g (ts ++ us) (fun j th =>
      if j ∈ us then k j (if j ∈ ts then f j th else th) else f j th) := by
  have e : (onThreads (onThreads g ts f) us k).threads = (onThreads g (ts ++ us) (fun j th =>
      if j ∈ us then k j (if j ∈ ts then f j th else th) else f j th)).threads := by
    simp only [onThreads, List.length_map, List.length_range]
    refine List.map_congr_left (fun j hj => ?_)
    have := thread_onThreads g ts f j
    unfold onThreads at this
    rw [this]
    have hj := List.mem_range.mp hj
    by_cases a : j ∈ ts <;> by_cases b : j ∈ us <;> simp [a, b, hj]
  show { g with threads := (onThreads (onThreads g ts f) us k).threads } = _
  rw [e]
  rfl

theorem Group.modThread_eq_onThreads (g : Group) (t : Nat) (f : Thread → Thread) : g.modThread t f = onThreads g [t] (fun _ => f) := by
  have e : (g.modThread t f).threads = (onThreads g [t] (fun _ => f)).threads := by
    refine Group.threads_eq (by simp [onThreads]) (fun j hj => ?_)
    show _ = (onThreads g [t] (fun _ => f)).thread j
    rw [Group.thread_modThread, thread_onThreads]
    simp only [List.mem_singleton, eq_comm]
  show { g with threads := (g.modThread t f).threads } = _
  rw [e]
  rfl

/-- Threads changed one after another, each once, are changed together. -/
theorem foldl_modThread {ts : List Nat} (h : ts.Nodup) (f : Nat → Thread → Thread) (g : Group) :
    ts.foldl (fun g t => g.modThread t (f t)) g = onThreads g ts f := by
  induction ts generalizing g with
  | nil => exact (onThreads_nil g f).symm
  | cons t ts ih =>
    obtain ⟨ht, hts⟩ := List.nodup_cons.mp h
    rw [List.foldl_cons, ih hts, Group.modThread_eq_onThreads, onThreads_onThreads]
    refine onThreads_congr (fun j _ => ?_)
    by_cases e : j = t
    · subst e; simp [ht]
    · by_cases b : j ∈ ts <;> simp [e, b]

/-- The flags and the dead read of a turn in gstat (01 R38, R49). -/
def flagged (fl : FFlags) (dead : Bool) (w : Word) : Word := w ||| fl.zeroExtend 32 ||| (if dead then 64 else 0)
def Group.flag (g : Group) (fl : FFlags) (dead : Bool) : Group := { g with gstat := flagged fl dead g.gstat }

/-- The same where each thread also raises flags. -/
theorem foldl_modThread_flag {ts : List Nat} (h : ts.Nodup) (f : Nat → Thread → Thread) (fl : Nat → FFlags) (dead : Nat → Bool) (g : Group) :
    ts.foldl (fun g t => (g.modThread t (f t)).flag (fl t) (dead t)) g
      = { onThreads g ts f with gstat := ts.foldl (fun w t => flagged (fl t) (dead t) w) g.gstat } := by
  rw [← foldl_modThread h]
  clear h
  have hsplit : ∀ (l : List Nat) (g : Group) (w : Word), l.foldl (fun g t => (g.modThread t (f t)).flag (fl t) (dead t)) { g with gstat := w }
      = { l.foldl (fun g t => g.modThread t (f t)) g with gstat := l.foldl (fun w t => flagged (fl t) (dead t) w) w } := fun l => by
    induction l with
    | nil => intro _ _; rfl
    | cons t l ih => intro g w; exact ih (g.modThread t (f t)) (flagged (fl t) (dead t) w)
  exact hsplit ts g g.gstat

/-! ## The threads of an issue -/

theorem Group.live_nodup (g : Group) : g.live.Nodup := List.nodup_range.filter _

theorem Group.mem_live {g : Group} {t : Nat} : t ∈ g.live ↔ t < g.threads.length ∧ (g.thread t).st = .live := by
  simp [Group.live, Group.inState]

theorem Group.issuing_sublist (g : Group) : g.issuing.Sublist g.live := by
  have hr : g.resuming.Sublist g.live := by
    unfold Group.resuming
    split
    · exact List.nil_sublist _
    · exact List.filter_sublist
  unfold Group.issuing
  split
  · exact List.filter_sublist
  · exact hr

theorem State.issue_ex_sublist (s : State) (h : Hdr) (size : Nat) : (s.issue h size).ex.Sublist (s.issue h size).issuing := by
  unfold State.issue
  dsimp only
  split
  · exact List.filter_sublist
  · exact List.Sublist.refl _

theorem State.issue_issuing_nodup (s : State) (h : Hdr) (size : Nat) : (s.issue h size).issuing.Nodup :=
  (s.group s.cur).issuing_sublist.nodup (Group.live_nodup _)

theorem State.issue_ex_nodup (s : State) (h : Hdr) (size : Nat) : (s.issue h size).ex.Nodup :=
  (s.issue_ex_sublist h size).nodup (s.issue_issuing_nodup h size)

theorem State.issue_guardedOff_nodup (s : State) (h : Hdr) (size : Nat) : (s.issue h size).guardedOff.Nodup :=
  (s.issue_issuing_nodup h size).filter _

theorem State.live_of_mem_ex {s : State} {h : Hdr} {size t : Nat} (ht : t ∈ (s.issue h size).ex) : t ∈ (s.group s.cur).live :=
  (s.group s.cur).issuing_sublist.subset ((s.issue_ex_sublist h size).subset ht)

theorem Issue.mem_guardedOff {is : Issue} {t : Nat} : t ∈ is.guardedOff ↔ t ∈ is.issuing ∧ t ∉ is.ex := by
  simp [Issue.guardedOff]

/-- The guarded-off threads and then those of EXEC are the issuing set. -/
theorem Issue.mem_issuing_iff {is : Issue} (hex : is.ex.Sublist is.issuing) {t : Nat} : t ∈ is.issuing ↔ t ∈ is.guardedOff ∨ t ∈ is.ex := by
  rw [Issue.mem_guardedOff]
  by_cases ht : t ∈ is.ex
  · exact ⟨fun _ => Or.inr ht, fun _ => hex.subset ht⟩
  · exact ⟨fun hi => Or.inl ⟨hi, ht⟩, fun h => h.elim And.left (fun he => absurd he ht)⟩

/-! ## States that differ in one group only -/

/-- u is s with g as its group k, in the team and role that it was in. -/
inductive State.HoldsAt (s : State) (k : Nat) : State → Group → Prop
  | same {g : Group} (h : kvGet s.groups k = some g) : HoldsAt s k s g
  | put {g : Group} (ht : g.team = (s.group k).team) (hr : g.role = (s.group k).role) : HoldsAt s k (s.withGroup k g) g

/-- The same of the current group. -/
abbrev State.Holds (s : State) : State → Group → Prop := s.HoldsAt s.cur

namespace State.HoldsAt
variable {s u : State} {k : Nat} {g : Group}

theorem self (h : (kvGet s.groups k).isSome = true) : s.HoldsAt k s (s.group k) := by
  obtain ⟨g, hg⟩ := Option.isSome_iff_exists.mp h
  exact .same (by simp [State.group, hg])

theorem group_eq (h : s.HoldsAt k u g) : u.group k = g := by
  cases h with
  | same h => simp [State.group, h]
  | put => exact s.withGroup_group k g

theorem team_eq (h : s.HoldsAt k u g) : g.team = (s.group k).team := by
  cases h with
  | same h => simp [State.group, h]
  | put ht => exact ht

theorem role_eq (h : s.HoldsAt k u g) : g.role = (s.group k).role := by
  cases h with
  | same h => simp [State.group, h]
  | put _ hr => exact hr

/-- Nothing but the groups differs. -/
theorem frame (h : s.HoldsAt k u g) : u = { s with groups := u.groups } := by cases h <;> rfl

theorem modGroup_eq (h : s.HoldsAt k u g) (f : Group → Group) : u.modGroup k f = s.withGroup k (f g) := by
  cases h with
  | same h => simp [State.modGroup, State.withGroup, kvMod_some h]
  | put => exact s.withGroup_modGroup k g f

theorem modGroup (h : s.HoldsAt k u g) {f : Group → Group} (ht : (f g).team = g.team) (hr : (f g).role = g.role) :
    s.HoldsAt k (u.modGroup k f) (f g) := by
  rw [h.modGroup_eq]
  exact .put (ht.trans h.team_eq) (hr.trans h.role_eq)

theorem modThread (h : s.HoldsAt k u g) (t : Nat) (f : Thread → Thread) : s.HoldsAt k (u.modThread k t f) (g.modThread t f) := h.modGroup rfl rfl

theorem advanceAll (h : s.HoldsAt k u g) (size : Nat) {ts : List Nat} (hts : ts.Nodup) :
    s.HoldsAt k (u.advanceAll k size ts) (onThreads g ts (fun _ th => th.advance size)) := by
  rw [← foldl_modThread hts]
  unfold State.advanceAll
  clear hts
  induction ts generalizing u g with
  | nil => exact h
  | cons t ts ih => exact ih (h.modThread t _)

theorem teamOf_eq (h : s.HoldsAt k u g) : u.teamOf k = s.teamOf k := by
  unfold State.teamOf
  rw [h.group_eq, h.team_eq, h.frame]
  rfl

theorem launchOf_eq (h : s.HoldsAt k u g) : u.launchOf k = s.launchOf k := by
  unfold State.launchOf
  rw [h.teamOf_eq, h.frame]
  rfl

theorem coreOf_eq (h : s.HoldsAt k u g) : u.coreOf k = s.coreOf k := by
  unfold State.coreOf
  rw [h.teamOf_eq]

theorem isRerun_eq (h : s.HoldsAt k u g) : u.isRerun k = s.isRerun k := by
  unfold State.isRerun
  rw [h.teamOf_eq]

theorem roleOf_eq (h : s.HoldsAt k u g) : u.roleOf k = s.roleOf k := by
  unfold State.roleOf
  rw [h.teamOf_eq, h.group_eq, h.role_eq]

theorem outstanding_eq (h : s.HoldsAt k u g) (hp : g.pend = (s.group k).pend) : u.outstanding k = s.outstanding k := by
  unfold State.outstanding
  rw [h.group_eq, h.coreOf_eq, hp, h.frame]
  rfl

/-- The other groups stay. -/
theorem kvGet_ne (h : s.HoldsAt k u g) {j : Nat} (hj : j ≠ k) : kvGet u.groups j = kvGet s.groups j := by
  cases h with
  | same => rfl
  | put => exact kvGet_kvSet_ne _ _ hj.symm

theorem env_eq (h : s.HoldsAt k u g) : u.env = s.env := by rw [h.frame]
theorem stamp_eq (h : s.HoldsAt k u g) : u.stamp = s.stamp := by rw [h.frame]

end State.HoldsAt

/-! ## The end of an instruction -/

@[simp] theorem Group.setS_threads (g : Group) (n : Nat) (ws : List RegWord) : (g.setS n ws).threads = g.threads := rfl
@[simp] theorem Thread.setV_st (th : Thread) (n : Nat) (ws : List RegWord) : (th.setV n ws).st = th.st := rfl

/-- What has returned changes the registers only. -/
theorem foldl_setS_frame (l : List (Nat × RegWord)) (g : Group) : l.foldl (fun g e => g.setS e.1 [e.2]) g
    = { g with s := (l.foldl (fun g e => g.setS e.1 [e.2]) g).s, sw := (l.foldl (fun g e => g.setS e.1 [e.2]) g).sw
               lateS := (l.foldl (fun g e => g.setS e.1 [e.2]) g).lateS } := by
  induction l generalizing g with
  | nil => rfl
  | cons e l ih => exact ih (g.setS e.1 [e.2])

theorem Group.land_threads (g : Group) : g.land.threads = g.threads.map Thread.land := by
  unfold Group.land
  dsimp only
  rw [foldl_setS_frame]

theorem Group.land_frame (g : Group) : g.land = { g with threads := g.land.threads, s := g.land.s, sw := g.land.sw, lateS := g.land.lateS } := by
  unfold Group.land
  dsimp only
  rw [foldl_setS_frame]

theorem Thread.land_st (th : Thread) : th.land.st = th.st := by
  have hf : ∀ (l : List (Nat × RegWord)) (th : Thread), (l.foldl (fun th e => th.setV e.1 [e.2]) th).st = th.st := fun l => by
    induction l with
    | nil => intro _; rfl
    | cons e l ih => intro th; exact ih (th.setV e.1 [e.2])
  unfold Thread.land
  split
  · exact hf _ th
  · rfl

theorem landed_threads (pk : Bool) (g : Group) : (landed pk g).threads = if pk then g.threads.map Thread.land else g.threads := by
  cases pk
  · rfl
  · exact g.land_threads

/-- The live threads are told by the states of the threads. -/
theorem Group.live_congr {g g' : Group} (h : g'.threads.map Thread.st = g.threads.map Thread.st) : g'.live = g.live := by
  have hl : g'.threads.length = g.threads.length := by simpa using congrArg List.length h
  unfold Group.live Group.inState
  rw [hl]
  refine List.filter_congr (fun t ht => ?_)
  have ht := List.mem_range.mp ht
  have := congrArg (fun l => l[t]?) h
  simp only [List.getElem?_map, List.getElem?_eq_getElem ht, List.getElem?_eq_getElem (hl ▸ ht), Option.map_some, Option.some.injEq] at this
  simp [Group.thread, List.getD_eq_getElem?_getD, ht, hl ▸ ht, this]

theorem landed_live (pk : Bool) (g : Group) : (landed pk g).live = g.live := by
  refine Group.live_congr ?_
  rw [landed_threads]
  cases pk
  · rfl
  · simp only [if_true, List.map_map]
    exact List.map_congr_left (fun th _ => th.land_st)

@[simp] theorem afterGroup_group (s : State) (g : Group) : (afterGroup s g).group s.cur = g := s.withGroup_group s.cur g

/-- A group with a live thread goes on. -/
theorem State.groupLeft_of_live {s : State} {gk : Nat} (h : (s.group gk).live ≠ []) : s.groupLeft gk = s := by
  simp [State.groupLeft, h]

/-- What every completed instruction leaves of its group (01 R44, R45; 15 R410): `closed` for a group of any key. -/
def Group.close (h : Hdr) (stamp : Nat) (out : Bool) (g : Group) : Group :=
  { landed h.pk g with
    resume := none, begun := false, issued := stamp, seq := if g.inHandler then g.seq else (g.seq + 1) % 2 ^ 32, parked := h.pk && out }

theorem closed_eq (h : Hdr) (s : State) (g : Group) : closed h s g = g.close h s.stamp (s.outstanding s.cur) := rfl
@[simp] theorem Group.close_threads (h : Hdr) (stamp : Nat) (out : Bool) (g : Group) : (g.close h stamp out).threads = (landed h.pk g).threads := rfl
@[simp] theorem Group.close_live (h : Hdr) (stamp : Nat) (out : Bool) (g : Group) : (g.close h stamp out).live = g.live := landed_live h.pk g

theorem landed_frame (pk : Bool) (g : Group) :
    landed pk g = { g with threads := (landed pk g).threads, s := (landed pk g).s, sw := (landed pk g).sw, lateS := (landed pk g).lateS } := by
  cases pk
  · rfl
  · exact g.land_frame

theorem Group.close_run (h : Hdr) (stamp : Nat) (out : Bool) (g : Group) : (g.close h stamp out).run = g.run := by
  show (landed h.pk g).run = g.run
  rw [landed_frame]

/-- An instruction that completes with a live thread changes its group, and the stamp of the next issue. -/
theorem State.HoldsAt.complete_eq {s u : State} {k : Nat} {g : Group} (h : s.HoldsAt k u g) (hp : g.pend = (s.group k).pend) (hl : g.live ≠ [])
    (hd : Hdr) {is : Issue} (hk : is.key = k) :
    u.complete hd is = { s.withGroup k (g.close hd s.stamp (s.outstanding k)) with stamp := s.stamp + 1 } := by
  have hm : u.modGroup k (fun g => { landed hd.pk g with
      resume := none, begun := false, issued := u.stamp, seq := if (landed hd.pk g).inHandler then
        (landed hd.pk g).seq else ((landed hd.pk g).seq + 1) % 2 ^ 32,
      parked := hd.pk && u.outstanding k }) = s.withGroup k (g.close hd s.stamp (s.outstanding k)) := by
    have hs : (landed hd.pk g).inHandler = g.inHandler ∧ (landed hd.pk g).seq = g.seq := by rw [landed_frame]; exact ⟨rfl, rfl⟩
    rw [h.modGroup_eq, h.outstanding_eq hp, h.stamp_eq, hs.1, hs.2]
    rfl
  subst hk
  unfold State.complete
  dsimp only
  unfold landed at hm
  rw [hm]
  refine State.groupLeft_of_live ?_
  show ((s.withGroup is.key (g.close hd s.stamp (s.outstanding is.key))).group is.key).live ≠ []
  rwa [State.withGroup_group, Group.close_live]

/-! ## The frame of an instruction -/

theorem ready_iff {h : Hdr} {size : Nat} {s : State} : ready h size s = true ↔
    (kvGet s.groups s.cur).isSome = true ∧ (s.issue h size).ex ≠ [] ∧ s.env.votes = [] ∧ s.env.cut = none := by
  simp [ready, and_assoc]

section
variable {h : Hdr} {size : Nat} {s : State} {chk : State → Issue → Option (Nat × Nat)} {body : State → Issue → Ran}

/-- With its operands in order an instruction runs its body once the guarded-off threads have passed over it. -/
theorem runInstr_eq (hg : (kvGet s.groups s.cur).isSome = true) (hex : (s.issue h size).ex ≠ []) (hc : chk s (s.issue h size) = none) :
    runInstr h size chk body s = .next (((body (begun h size s) (s.issue h size)).undo s (s.issue h size)).finish h (s.issue h size)) := by
  simp only [runInstr, State.inGroup, hg, hc, List.isEmpty_eq_false_iff.mpr hex, if_true]
  rfl

/-- A breach that is found before any thread is an instruction-level trap (01 R51). -/
theorem runInstr_trap (hg : (kvGet s.groups s.cur).isSome = true) (hex : (s.issue h size).ex ≠ []) {code : Nat}
    (hc : chk s (s.issue h size) = some (code, 0)) :
    runInstr h size chk body s = .next (s.takeTrap s.cur (Trap.atInstr code (s.issue h size))) := by
  simp only [runInstr, State.inGroup, hg, hc, List.isEmpty_eq_false_iff.mpr hex, if_true]
  rfl

end

theorem State.issue_lowest_mem {s : State} {h : Hdr} {size : Nat} (hex : (s.issue h size).ex ≠ []) :
    (s.issue h size).lowest ∈ (s.issue h size).ex := by
  unfold Issue.lowest
  cases e : (s.issue h size).ex with
  | nil => exact absurd e hex
  | cons t ts => exact List.mem_cons_self

/-- The group once the guarded-off threads have passed over the instruction. -/
def Issue.past (is : Issue) (g : Group) : Group := onThreads g is.guardedOff (fun _ th => th.advance is.size)

theorem State.begun_holds {s : State} (hg : (kvGet s.groups s.cur).isSome = true) (h : Hdr) (size : Nat) :
    s.Holds (begun h size s) ((s.issue h size).past (s.group s.cur)) :=
  (State.HoldsAt.self hg).advanceAll size (s.issue_guardedOff_nodup h size)

/-- Where every turn goes on in the group, the threads of EXEC run to the end. -/
theorem runThreads_done {s : State} {is : Issue} {f : Nat → State → TOut} {F : Group → Nat → Group} {ts : List Nat}
    (hf : ∀ t ∈ ts, ∀ u g, s.Holds u g → ∃ v, f t u = .ok v ∧ s.Holds v (F g t)) {u : State} {g : Group} (hu : s.Holds u g) :
    ∃ v, runThreads is f ts none u = .done v ∧ s.Holds v (ts.foldl F g) := by
  induction ts generalizing u g with
  | nil => exact ⟨u, rfl, hu⟩
  | cons t ts ih =>
    obtain ⟨v, hv, hh⟩ := hf t List.mem_cons_self u g hu
    obtain ⟨w, hw, hh⟩ := ih (fun t ht => hf t (List.mem_cons_of_mem _ ht)) hh
    exact ⟨w, by simp [runThreads, hv, hw], hh⟩

end Sys2Proof.Machine
end

section
/-!
SUPPORT. The lane instructions (05, 06): what their threads read, their turns, and the statements about them.
-/
namespace Sys2Proof.Machine
open Sys2Proof Sys2Proof.Claims

/-! ## What a thread reads -/

/-- Another state of a group that its sources read alike: registers, states and places in the device are the same. -/
structure Group.ReadsAs (g g' : Group) : Prop where
  team : g'.team = g.team
  gid : g'.gid = g.gid
  role : g'.role = g.role
  lane : g'.lane = g.lane
  s : g'.s = g.s
  length : g'.threads.length = g.threads.length
  st : ∀ t, (g'.thread t).st = (g.thread t).st
  v : ∀ t, (g'.thread t).v = (g.thread t).v
  p : ∀ t, (g'.thread t).p = (g.thread t).p
  x : ∀ t, (g'.thread t).x = (g.thread t).x
  psp : ∀ t, (g'.thread t).psp = (g.thread t).psp

/-- A thread that passes over an instruction keeps what neither its PC nor the entry of a block changes (01 R40). -/
theorem Thread.advance_keeps {α : Type} {a : Thread → α} (hpc : ∀ th pc, a { th with pc := pc } = a th) (he : ∀ th b, a (Thread.enter th b) = a th)
    (th : Thread) (size : Nat) : a (th.advance size) = a th := by
  unfold Thread.advance
  dsimp only
  split
  · split
    · exact he th _
    · exact hpc th _
  · exact hpc th _

@[simp] theorem Thread.advance_st (th : Thread) (size : Nat) : (th.advance size).st = th.st :=
  Thread.advance_keeps (fun _ _ => rfl) (fun _ _ => rfl) th size
@[simp] theorem Thread.advance_v (th : Thread) (size : Nat) : (th.advance size).v = th.v :=
  Thread.advance_keeps (fun _ _ => rfl) (fun _ _ => rfl) th size
@[simp] theorem Thread.advance_p (th : Thread) (size : Nat) : (th.advance size).p = th.p :=
  Thread.advance_keeps (fun _ _ => rfl) (fun _ _ => rfl) th size
@[simp] theorem Thread.advance_x (th : Thread) (size : Nat) : (th.advance size).x = th.x :=
  Thread.advance_keeps (fun _ _ => rfl) (fun _ _ => rfl) th size
@[simp] theorem Thread.advance_psp (th : Thread) (size : Nat) : (th.advance size).psp = th.psp :=
  Thread.advance_keeps (fun _ _ => rfl) (fun _ _ => rfl) th size

/-- A fact about threads that passing over an instruction keeps holds of the group's threads after some have passed. -/
theorem thread_advance_congr {α : Type} {a : Thread → α} {size : Nat} (ha : ∀ th : Thread, a (th.advance size) = a th) (g : Group)
    (ts : List Nat) (t : Nat) : a ((onThreads g ts (fun _ th => th.advance size)).thread t) = a (g.thread t) := by
  rw [thread_onThreads]
  split
  · exact ha _
  · rfl

theorem Group.readsAs_advance (g : Group) (ts : List Nat) (size : Nat) : g.ReadsAs (onThreads g ts (fun _ th => th.advance size)) where
  team := rfl
  gid := rfl
  role := rfl
  lane := rfl
  s := rfl
  length := onThreads_length g ts _
  st := thread_advance_congr (a := Thread.st) (fun th => th.advance_st size) g ts
  v := thread_advance_congr (a := Thread.v) (fun th => th.advance_v size) g ts
  p := thread_advance_congr (a := Thread.p) (fun th => th.advance_p size) g ts
  x := thread_advance_congr (a := Thread.x) (fun th => th.advance_x size) g ts
  psp := thread_advance_congr (a := Thread.psp) (fun th => th.advance_psp size) g ts

section
variable {g g' : Group} (hr : g.ReadsAs g')
include hr

theorem Group.ReadsAs.inState (st : TStat) : g'.inState st = g.inState st := by
  unfold Group.inState
  rw [hr.length]
  exact List.filter_congr (fun t _ => by rw [hr.st])

theorem Group.ReadsAs.idx (t i : Nat) : (g'.thread t).idx i = (g.thread t).idx i := by
  unfold Thread.idx; rw [hr.x]

theorem Group.ReadsAs.pred (t i : Nat) : (g'.thread t).pred i = (g.thread t).pred i := by
  unfold Thread.pred; rw [hr.p]

theorem Group.ReadsAs.regWord (t : Nat) (o : Opnd) (k : Nat) : regWord g' t o k = regWord g t o k := by
  cases o <;> simp only [Machine.regWord, hr.v, hr.s, hr.idx]

theorem Group.ReadsAs.regVal (t : Nat) (o : Opnd) (n : Nat) : regVal g' t o n = regVal g t o n := by
  induction n with
  | zero => rfl
  | succ n ih => simp only [Machine.regVal, ih, hr.regWord]

theorem Group.ReadsAs.regPois (t : Nat) (o : Opnd) (n : Nat) : regPois g' t o n = regPois g t o n := by
  unfold Machine.regPois
  simp only [hr.regWord]

theorem Group.ReadsAs.idxOut (vregs t : Nat) (o : Opnd) (n : Nat) : idxOut vregs (g'.thread t) o n = idxOut vregs (g.thread t) o n := by
  cases o <;> simp only [Machine.idxOut, hr.idx]

theorem Group.ReadsAs.indexBound (vregs t : Nat) (d : DstSpec) (srcs : List SrcSpec) :
    indexBound vregs (g'.thread t) d srcs = indexBound vregs (g.thread t) d srcs := by
  unfold Machine.indexBound
  simp only [hr.idxOut]

end

section
variable {s u : State} {g : Group} (hu : s.Holds u g) (hr : (s.group s.cur).ReadsAs g) {is : Issue} (hk : is.key = s.cur)
include hu

omit hk in
theorem State.Holds.clkAt_eq (t : Nat) : u.clkAt is t = s.clkAt is t := by
  unfold State.clkAt
  rw [hu.frame]

include hr hk

theorem State.Holds.special_eq (t c : Nat) : u.special is t c = s.special is t c := by
  have ht : ∀ k, u.team k = s.team k := fun k => by rw [hu.frame]; rfl
  have hl : ∀ k, u.launch k = s.launch k := fun k => by rw [hu.frame]; rfl
  unfold State.special
  simp only [hk, hu.group_eq, hr.team, hr.gid, hr.role, hr.lane, ht, hl, hu.clkAt_eq, Group.live, hr.inState, hr.psp]

theorem State.Holds.source_eq (t : Nat) (o : Opnd) (pm : Perm) (n : Nat) (cf : CFmt) : u.source is t o pm n cf = s.source is t o pm n cf := by
  unfold State.source
  simp only [hk, hu.group_eq, hr.st, hr.regVal, hr.regPois, hu.special_eq hr hk]

theorem State.Holds.srcOf_eq (t : Nat) (x : SrcSpec) : u.srcOf is t x = s.srcOf is t x := by
  unfold State.srcOf
  simp only [hk, hu.group_eq, hr.pred, hr.p, hr.idx, hu.source_eq hr hk]

end

/-! ## %clk -/

/-- Fixing the time that a thread reads leaves what it reads. -/
theorem State.clkAt_withClk (s : State) (is : Issue) (t : Nat) : (s.withClk (s.clkAt is t)).clkAt is t = s.clkAt is t := by
  have h : s.clkAt is t < 2 ^ 64 := Nat.mod_lt _ (Nat.two_pow_pos 64)
  generalize s.clkAt is t = x at h
  simpa [State.clkAt, State.withClk] using h

theorem State.special_withClk (s : State) (is : Issue) (t c : Nat) : (s.withClk (s.clkAt is t)).special is t c = s.special is t c := by
  unfold State.special
  simp only [s.clkAt_withClk is t]
  rfl

theorem State.srcOf_withClk (s : State) (is : Issue) (t : Nat) (x : SrcSpec) : (s.withClk (s.clkAt is t)).srcOf is t x = s.srcOf is t x := by
  unfold State.srcOf State.source
  simp only [s.special_withClk is t]
  rfl

/-- A launch that is not checked keeps no replay log (15 R409). -/
theorem State.logAppend_of_unchecked {s : State} {gk : Nat} (h : (s.launchOf gk).checked = false) (kind tid value : Nat) (payload : List Byte) :
    s.logAppend gk kind tid value payload = s := by
  unfold State.logAppend
  rw [if_pos]
  show (!(s.launchOf gk).checked || _ || _ || _) = true
  simp [h]

/-! ## A thread's turn -/

/-- The group once a result is in its destination (03 Table 3.5; 01 R28 to R30). -/
def Group.put (g : Group) (t : Nat) (d : DstSpec) (x : Nat) : Group :=
  match d with
  | .reg (.s n) k => g.setS n.val (wordsOf k x)
  | d => g.modThread t (written d x)

theorem Group.modThread_id (g : Group) (t : Nat) : g.modThread t (fun th => th) = g :=
  congrArg (fun l => { g with threads := l }) (List.modify_id t g.threads)

theorem Group.put_of_thread {d : DstSpec} (hd : d.isUniform = false) (g : Group) (t x : Nat) : g.put t d x = g.modThread t (written d x) := by
  unfold Group.put
  split
  · simp [DstSpec.isUniform, opIsUniform] at hd
  · rfl

theorem State.Holds.putResult {s u : State} {g : Group} (h : s.Holds u g) (t : Nat) (d : DstSpec) (x : Nat) :
    s.Holds (u.putResult s.cur t d x) (g.put t d x) := by
  cases d with
  | reg o k =>
    cases o with
    | v n => exact h.modThread t _
    | x i => exact h.modThread t _
    | s n => exact h.modGroup (f := fun g => g.setS n.val (wordsOf k x)) rfl rfl
    | _ => exact (congrArg (s.Holds u) (g.modThread_id t)).mpr h
  | pred p => exact h.modThread t _
  | preds => exact h.modThread t _
  | idx i => exact h.modThread t _

theorem State.Holds.flags {s u : State} {g : Group} (h : s.Holds u g) (fl : FFlags) (dead : Bool) :
    s.Holds ((u.raiseFlags s.cur fl).deadRead s.cur dead) (g.flag fl dead) := by
  have h₁ : s.Holds (u.raiseFlags s.cur fl) { g with gstat := g.gstat ||| fl.zeroExtend 32 } := by
    unfold State.raiseFlags
    split
    · next e => subst e; simpa using h
    · exact h.modGroup rfl rfl
  unfold State.deadRead Group.flag flagged
  cases dead
  · simpa using h₁
  · exact h₁.modGroup rfl rfl

/-- The group after a turn that meets no trap: the result is written and the flags are raised. -/
def LaneSpec.after (sp : LaneSpec) (s : State) (is : Issue) (g : Group) (t : Nat) : Group :=
  (g.put t sp.dst (laneValue sp s is t).1).flag (laneValue sp s is t).2 (laneDead sp s is t)

/-- The reading of the clock leaves a turn's sources and keeps no record. -/
theorem State.Holds.clockRecord {s u v : State} {g g' : Group} {is : Issue} (hk : is.key = s.cur) (hu : s.Holds u g)
    (hr : (s.group s.cur).ReadsAs g) (hv : s.Holds v g') (t tid : Nat) {reads : Bool}
    (hc : reads = false ∨ (s.launchOf s.cur).checked = false ∧ s.isRerun s.cur = false) :
    ∃ w, u.clockRecord v is t tid reads = some (w, v) ∧ ∀ x, w.srcOf is t x = s.srcOf is t x := by
  unfold State.clockRecord
  cases reads with
  | false => exact ⟨u, rfl, fun x => hu.srcOf_eq hr hk t x⟩
  | true =>
    obtain ⟨hc, hn⟩ := hc.resolve_left (by simp)
    refine ⟨u.withClk (u.clkAt is t), ?_, fun x => (u.srcOf_withClk is t x).trans (hu.srcOf_eq hr hk t x)⟩
    have hl := State.logAppend_of_unchecked (hk ▸ hv.launchOf_eq ▸ hc : (v.launchOf is.key).checked = false) 0x04 tid (u.clkAt is t) []
    simp [hk ▸ hv.isRerun_eq ▸ hn, hl]

/-- What laneClear asks for. -/
theorem laneClear_iff {sp : LaneSpec} {s : State} {is : Issue} {ts : List Nat} : laneClear sp s is ts = true ↔
    sp.check s is = none ∧ (sp.readsClk = false ∨ (s.launchOf is.key).checked = false ∧ s.isRerun is.key = false)
      ∧ ∀ t ∈ ts, indexBound (s.roleOf is.key).vregs ((s.group is.key).thread t) sp.dst sp.srcs = false
        ∧ sp.srcs.any (fun x => (s.srcOf is t x).pois) = false := by
  simp [laneClear, and_assoc]

theorem LaneSpec.turn_eq {sp : LaneSpec} {s u v : State} {g g' : Group} {is : Issue} {ts : List Nat} (hk : is.key = s.cur)
    (hc : laneClear sp s is ts = true) (hvotes : s.env.votes = []) (hu : s.Holds u g) (hr : (s.group s.cur).ReadsAs g)
    (hv : s.Holds v g') {t : Nat} (ht : t ∈ ts) (c : Cls) (tid : Nat) :
    ∃ w, sp.turn c is u t tid v = .ok w ∧ s.Holds w (sp.after s is g' t) := by
  obtain ⟨-, hclk, hts⟩ := laneClear_iff.mp hc
  obtain ⟨hidx, hpois⟩ := hts t ht
  rw [hk] at hclk hidx
  obtain ⟨r, hr', hsrc⟩ := hu.clockRecord hk hr hv t tid hclk
  have hsame : v.verdict c tid = .same := by simp [State.verdict, hv.env_eq, hvotes]
  refine ⟨((v.putResult is.key t sp.dst (laneValue sp s is t).1).raiseFlags is.key (laneValue sp s is t).2).deadRead is.key (laneDead sp s is t), ?_, ?_⟩
  · unfold LaneSpec.turn
    rw [hk, hu.roleOf_eq, hu.group_eq, hr.indexBound, hidx, hr']
    simp only [Bool.false_eq_true, if_false, List.any_map, Function.comp_def, List.map_map, hsrc, hpois, hsame]
    rfl
  · rw [hk]
    exact (hv.putResult t sp.dst _).flags _ _

/-! ## Lane instructions -/

theorem Ran.finish_done {s u : State} {h : Hdr} {is : Issue} {r : Ran} (hr : r = .done u) :
    (r.undo s is).finish h is = u.complete h is := by rw [hr]; rfl

theorem exec_of_laneOf {i : Instr} {h : Hdr} {size : Nat} {sp : LaneSpec} (e : laneOf i = some (h, size, sp)) (s : State) :
    exec i s = runLane h size sp s := by
  unfold laneOf at e
  split at e <;> cases e <;> rfl

/-- The group after a lane instruction with a destination per thread, turn by turn (01 R42). -/
theorem laneGroup_eq {sp : LaneSpec} (hd : sp.dst.isUniform = false) (s : State) {is : Issue} (hnd : is.ex.Nodup) (hex : is.ex.Sublist is.issuing)
    (g : Group) :
    is.ex.foldl (fun g t => (sp.after s is g t).modThread t (fun th => th.advance is.size)) (is.past g) = laneGroup sp s is g := by
  have hstep : (fun (g : Group) t => (sp.after s is g t).modThread t (fun th => th.advance is.size))
      = fun g t => (g.modThread t (fun th => (written sp.dst (laneValue sp s is t).1 th).advance is.size)).flag
          (laneValue sp s is t).2 (laneDead sp s is t) := by
    funext g t
    unfold LaneSpec.after
    rw [Group.put_of_thread hd]
    simp [Group.modThread, Group.flag, List.modify_modify_eq, Function.comp_def]
  have hthreads : onThreads (is.past g) is.ex (fun t th => (written sp.dst (laneValue sp s is t).1 th).advance is.size)
      = { laneGroup sp s is g with gstat := g.gstat } := by
    have hlane : { laneGroup sp s is g with gstat := g.gstat } = onThreads g is.issuing (fun t th =>
        if is.ex.contains t then (written sp.dst (laneValue sp s is t).1 th).advance is.size else th.advance is.size) := by
      refine congrArg (fun l => { g with threads := l }) (List.map_congr_left (fun j _ => ?_))
      have hsub := fun h => hex.subset (a := j) h
      by_cases a : j ∈ is.ex <;> by_cases b : j ∈ is.issuing <;> simp_all
    unfold Issue.past
    rw [hlane, onThreads_onThreads]
    refine onThreads_congr (fun j _ => ?_)
    have hi := Issue.mem_issuing_iff hex (t := j)
    have ho := Issue.mem_guardedOff (is := is) (t := j)
    by_cases a : j ∈ is.ex <;> by_cases b : j ∈ is.guardedOff <;> simp_all
  rw [hstep, foldl_modThread_flag hnd, hthreads]
  rfl

/-- The guarded-off threads and then EXEC: the issuing set passes. -/
theorem passed_eq {is : Issue} (hex : is.ex.Sublist is.issuing) (g : Group) :
    onThreads (is.past g) is.ex (fun _ th => th.advance is.size) = passed is g := by
  unfold Issue.past passed
  rw [onThreads_onThreads]
  refine onThreads_congr (fun j _ => ?_)
  have hi := Issue.mem_issuing_iff hex (t := j)
  have ho := Issue.mem_guardedOff (is := is) (t := j)
  by_cases a : j ∈ is.ex <;> by_cases b : j ∈ is.guardedOff <;> simp_all

@[simp] theorem written_st (d : DstSpec) (x : Nat) (th : Thread) : (written d x th).st = th.st := by
  unfold written
  split
  · rfl
  · rfl
  · rfl
  · unfold Thread.setPred; split <;> rfl
  · rfl
  · rfl

/-- Threads that are listed with the states that they had leave the live ones as they are. -/
theorem Group.live_of_states {g g' : Group} {f : Nat → Thread} (ht : g'.threads = (List.range g.threads.length).map f)
    (hf : ∀ t, (f t).st = (g.thread t).st) : g'.live = g.live := by
  refine Group.live_congr ?_
  rw [ht, List.map_map]
  refine List.ext_getElem (by simp) (fun j h₁ h₂ => ?_)
  have hj : j < g.threads.length := by simpa using h₂
  simpa [Group.thread, List.getD_eq_getElem?_getD, hj] using hf j

theorem laneGroup_live (sp : LaneSpec) (s : State) (is : Issue) (g : Group) : (laneGroup sp s is g).live = g.live :=
  Group.live_of_states rfl (fun t => by
    split
    · rw [Thread.advance_st, written_st]
    · split
      · exact Thread.advance_st _ _
      · rfl)

theorem uniGroup_live (sp : LaneSpec) (o : Opnd) (k : Nat) (s : State) (is : Issue) (g : Group) : (uniGroup sp o k s is g).live = g.live :=
  Group.live_of_states rfl (fun t => by split <;> simp)

/-- The body of a lane instruction with a destination per thread: the threads of EXEC run one after another. -/
theorem LaneSpec.body_perThread {sp : LaneSpec} (hd : sp.dst.isUniform = false) (pcl : Cls) (s : State) (is : Issue) :
    sp.body pcl s is = runThreads is (fun t s' => (sp.turn (s.effClass is pcl sp.kind) is s t t s').thenPass is t) is.ex s.env.cut s := by
  simp [LaneSpec.body, hd]

/-- Settles O1: the turns of EXEC one after another, each reading what stood before the instruction. -/
theorem laneInstructionsComplete : Obligations.LaneInstructionsComplete := by
  intro i h size sp s hi hready hd hclear
  obtain ⟨hg, hex, hvotes, hcut⟩ := ready_iff.mp hready
  have hu := State.begun_holds hg h size
  have hr : (s.group s.cur).ReadsAs ((s.issue h size).past (s.group s.cur)) := Group.readsAs_advance _ _ _
  have hturn : ∀ t ∈ (s.issue h size).ex, ∀ v g, s.Holds v g →
      ∃ w, (sp.turn ((begun h size s).effClass (s.issue h size) h.pcl sp.kind) (s.issue h size) (begun h size s) t t v).thenPass (s.issue h size) t
          = .ok w ∧ s.Holds w ((sp.after s (s.issue h size) g t).modThread t (fun th => th.advance (s.issue h size).size)) := by
    intro t ht v g hv
    obtain ⟨w, hw, hh⟩ := LaneSpec.turn_eq rfl hclear hvotes hu hr hv ht _ t
    exact ⟨w.pass (s.issue h size) t, by rw [hw]; rfl, hh.modThread t _⟩
  obtain ⟨w, hw, hh⟩ := runThreads_done hturn hu
  rw [laneGroup_eq hd s (s.issue_ex_nodup h size) (s.issue_ex_sublist h size)] at hh
  have hlive : (laneGroup sp s (s.issue h size) (s.group s.cur)).live ≠ [] :=
    (laneGroup_live ..).symm ▸ List.ne_nil_of_mem (State.live_of_mem_ex (State.issue_lowest_mem hex))
  rw [exec_of_laneOf hi, runLane, runInstr_eq hg hex (laneClear_iff.mp hclear).1, Ran.finish_done (u := w),
    hh.complete_eq rfl hlive h rfl]
  rfl
  rw [LaneSpec.body_perThread hd, hu.env_eq, hcut]
  exact hw

/-- The group after a uniform instruction: one turn, and then EXEC passes (01 R48). -/
theorem uniGroup_eq {sp : LaneSpec} {n : Fin 512} {k : Nat} (hd : sp.dst = .reg (.s n) k) (s : State) {is : Issue}
    (hex : is.ex.Sublist is.issuing) (g : Group) :
    onThreads (sp.after s is (is.past g) is.lowest) is.ex (fun _ th => th.advance is.size) = uniGroup sp (.s n) k s is g := by
  have hp : (onThreads (is.past g) is.ex (fun _ th => th.advance is.size)).threads = (passed is g).threads := by rw [passed_eq hex]
  unfold LaneSpec.after
  rw [hd]
  show ({ g.setS n.val (wordsOf k (laneValue sp s is is.lowest).1) with
    threads := (onThreads (is.past g) is.ex (fun _ th => th.advance is.size)).threads
    gstat := flagged (laneValue sp s is is.lowest).2 (laneDead sp s is is.lowest) g.gstat } : Group) = _
  rw [hp]
  rfl

/-- The body of a uniform instruction: one turn for the group. -/
theorem LaneSpec.body_uniform {sp : LaneSpec} (hd : sp.dst.isUniform = true) {pcl : Cls} {s v : State} {is : Issue}
    (hv : sp.turn (s.effClass is pcl sp.kind) is s is.lowest 32 s = .ok v) : sp.body pcl s is = .done (v.passAll is) := by
  simp [LaneSpec.body, hd, hv]

/-- Settles O2: the single turn of the lowest thread, and then EXEC passes. -/
theorem uniformInstructionsComplete : Obligations.UniformInstructionsComplete := by
  intro i h size sp o k s hi hready hd ho hclear
  obtain ⟨hg, hex, hvotes, hcut⟩ := ready_iff.mp hready
  obtain ⟨n, rfl⟩ : ∃ n, o = .s n := by cases o <;> simp_all [opIsUniform]
  have hu := State.begun_holds hg h size
  have hr : (s.group s.cur).ReadsAs ((s.issue h size).past (s.group s.cur)) := Group.readsAs_advance _ _ _
  obtain ⟨w, hw, hh⟩ := LaneSpec.turn_eq rfl hclear hvotes hu hr hu (List.mem_singleton_self _)
    ((begun h size s).effClass (s.issue h size) h.pcl sp.kind) 32
  have hh : s.Holds (w.passAll (s.issue h size)) (uniGroup sp (.s n) k s (s.issue h size) (s.group s.cur)) :=
    uniGroup_eq hd s (s.issue_ex_sublist h size) _ ▸ hh.advanceAll (s.issue h size).size (s.issue_ex_nodup h size)
  have hlive : (uniGroup sp (.s n) k s (s.issue h size) (s.group s.cur)).live ≠ [] :=
    (uniGroup_live ..).symm ▸ List.ne_nil_of_mem (State.live_of_mem_ex (State.issue_lowest_mem hex))
  rw [exec_of_laneOf hi, runLane, runInstr_eq hg hex (laneClear_iff.mp hclear).1,
    Ran.finish_done (LaneSpec.body_uniform (by rw [hd]; rfl) hw), hh.complete_eq rfl hlive h rfl]
  rfl

/-! ## Operand traps and predicate 7 -/

/-- A turn of a thread whose index register is out of bounds takes trap 0x09 (01 R28). -/
theorem LaneSpec.turn_index {sp : LaneSpec} {c : Cls} {is : Issue} {s v : State} {t tid : Nat}
    (h : indexBound (s.roleOf is.key).vregs ((s.group is.key).thread t) sp.dst sp.srcs = true) : sp.turn c is s t tid v = .trap v 0x09 0 := by
  unfold LaneSpec.turn
  rw [if_pos h]

/-- A trap of the first turn is taken in the state in which that turn began. -/
theorem runThreads_trap {is : Issue} {f : Nat → State → TOut} {ts : List Nat} (hts : ts ≠ []) {s : State} {code addr : Nat}
    (hf : f (ts.headD 0) s = .trap s code addr) :
    runThreads is f ts none s = .trap s (Trap.of code .thread is (ts.headD 0) addr) := by
  cases ts with
  | nil => exact absurd rfl hts
  | cons t ts =>
    have hf : f t s = .trap s code addr := hf
    simp [runThreads, hf]

/-- Settles O55: the checks in their order, and the turn of the lowest thread. -/
theorem laneOperandTraps : Obligations.LaneOperandTraps := by
  intro i h size sp s hi hready is r bad6 bad7 bad8
  obtain ⟨hg, hex, -, hcut⟩ := ready_iff.mp hready
  have htrap : ∀ code, sp.check s is = some (code, 0) → exec i s = .next (s.takeTrap s.cur (Trap.atInstr code is)) := fun code hc => by
    rw [exec_of_laneOf hi]
    exact runInstr_trap hg hex hc
  have hcheck : sp.check s is = (if bad6 then some 0x06 else if bad7 then some 0x07 else if bad8 then some 0x08 else none : Option Nat).map (·, 0) := rfl
  refine ⟨fun h6 => htrap _ ?_, fun h6 h7 => htrap _ ?_, fun h6 h7 h8 => htrap _ ?_, fun h6 h7 h8 hd hidx => ?_⟩
  · rw [hcheck, h6]; rfl
  · rw [hcheck, h6, h7]; rfl
  · rw [hcheck, h6, h7, h8]; rfl
  · have hu := State.begun_holds hg h size
    have hr : (s.group s.cur).ReadsAs (is.past (s.group s.cur)) := Group.readsAs_advance _ _ _
    have hturn : ∀ c v, sp.turn c is (begun h size s) is.lowest is.lowest v = .trap v 0x09 0 := fun c v => LaneSpec.turn_index (by
      rw [show is.key = s.cur from rfl, hu.roleOf_eq, hu.group_eq, hr.indexBound]; exact hidx)
    have hrun := runThreads_trap (is := is) (f := fun t s' => (sp.turn ((begun h size s).effClass is h.pcl sp.kind) is (begun h size s) t t s').thenPass is t)
      hex (s := begun h size s) (code := 0x09) (addr := 0) (by
        show (sp.turn _ is _ is.lowest is.lowest _).thenPass is is.lowest = _
        rw [hturn]; rfl)
    rw [exec_of_laneOf hi, runLane, runInstr_eq hg hex (by rw [hcheck, h6, h7, h8]; rfl), LaneSpec.body_perThread hd, hu.env_eq, hcut, hrun]
    rfl

/-- p7 reads as true and a write to it is discarded (01 R29). -/
@[simp] theorem Thread.pred_seven (th : Thread) : th.pred 7 = true := rfl
@[simp] theorem Thread.setPred_seven (th : Thread) (b : Bool) : th.setPred 7 b = th := rfl

/-- With p7 as its destination a lane instruction changes no thread but that it passes. -/
theorem laneGroup_threads_of_p7 {sp : LaneSpec} (hd : sp.dst = .pred 7) (s : State) {is : Issue} (hex : is.ex.Sublist is.issuing) (g : Group) :
    (laneGroup sp s is g).threads = (passedOver is.size is g).threads := by
  have hw : ∀ x th, written sp.dst x th = th := fun x th => by rw [hd]; exact th.setPred_seven _
  refine List.map_congr_left (fun t _ => ?_)
  have hsub := fun h => hex.subset (a := t) h
  by_cases a : t ∈ is.ex <;> by_cases b : t ∈ is.issuing <;> simp_all

/-- The guard NOT p7 guards every thread off, where the instruction does not resume (01 R42, R52). -/
theorem State.issue_ex_of_not_p7 {s : State} {h : Hdr} (hp : h.gp = 7) (hn : h.gn = true) (hr : (s.group s.cur).resuming = []) (size : Nat) :
    (s.issue h size).ex = [] := by
  have hp : h.gp.val = 7 := by rw [hp]; rfl
  unfold State.issue
  simp [hr, hp, hn]

/-- Settles O56: p7 by its two definitions, and a compare into it as a lane instruction. -/
theorem predicateSeven : Obligations.PredicateSeven := by
  refine ⟨fun th b => ⟨th.pred_seven, th.setPred_seven b⟩, fun f s hd hready hclear => ?_, fun h size s hp hn hr => State.issue_ex_of_not_p7 hp hn hr size,
    by decide⟩
  have hdst : (specIcmp f).dst = .pred 7 := congrArg (fun d => DstSpec.pred (opNum d)) hd
  refine ⟨_, laneInstructionsComplete (.icmp f) f.h 8 (specIcmp f) s rfl hready (by rw [hdst]; rfl) hclear, ?_⟩
  rw [afterGroup_group, closed_eq, Group.close_threads, landed_threads, landed_threads, laneGroup_threads_of_p7 hdst s (s.issue_ex_sublist f.h 8)]
  rfl

end Sys2Proof.Machine
end

section
/-!
SUPPORT. The ends of teams and of their checks (14 R381; 15 R418, R424, R426, R429): one lemma for each event.
-/
namespace Sys2Proof.Machine
open Sys2Proof Sys2Proof.Claims

/-! ## Tables -/

theorem kvGet_map {α β : Type} (m : List (Nat × α)) (f : α → β) (k : Nat) : kvGet (m.map (fun e => (e.1, f e.2))) k = (kvGet m k).map f := by
  induction m with
  | nil => rfl
  | cons a m ih =>
    simp only [List.map_cons, kvGet, ih]
    split <;> rfl

theorem State.team_of_kvGet {s : State} {tk : Nat} {tm : Team} (h : kvGet s.teams tk = some tm) : s.team tk = tm := by
  simp [State.team, h]

/-! ## The end of a team -/

/-- A team that has not ended by trap and whose core holds no side log leaves both as they are. -/
theorem State.abortFaulted_of_running {s : State} {tk : Nat} (h : (s.team tk).ended = none) : s.abortFaulted tk = s := by
  simp [State.abortFaulted, h]

theorem State.drainLog_of_empty {s : State} {tk : Nat} (h : (s.core (s.team tk).core).slog = []) : s.drainLog tk = s := by
  unfold State.drainLog
  dsimp only
  rw [h]
  simp

/-- In a launch that is not checked no signature is built (15 R404). -/
theorem State.fold_of_unchecked {s : State} {tk : Nat} (h : (s.launch (s.team tk).kid).checked = false) (e : SigEvent) : s.fold tk e = s := by
  simp [State.fold, h]

theorem State.originalOver_of_none {s : State} {tk : Nat} (h : kvGet s.sleeve tk = none) : s.originalOver tk = s := by
  simp [State.originalOver, h]

/-- The end of a gang changes teams and gangs; where a team lives stays. -/
theorem State.gangOver_keeps (s : State) (gang : Nat) :
    (s.gangOver gang).mem = s.mem ∧ (s.gangOver gang).groups = s.groups ∧ (s.gangOver gang).launches = s.launches
      ∧ ∀ tk, ((s.gangOver gang).team tk).resid = (s.team tk).resid := by
  have hf : ∀ (ms : List Nat) (s : State), let u := ms.foldl (fun s tk => s.modTeam tk (fun tm => { tm with scratch := [], scratchSize := 0 })) s
      u.mem = s.mem ∧ u.groups = s.groups ∧ u.launches = s.launches ∧ ∀ tk, (u.team tk).resid = (s.team tk).resid := fun ms => by
    induction ms with
    | nil => intro s; exact ⟨rfl, rfl, rfl, fun _ => rfl⟩
    | cons m ms ih =>
      intro s
      obtain ⟨hm, hg, hl, ht⟩ := ih (s.modTeam m (fun tm => { tm with scratch := [], scratchSize := 0 }))
      refine ⟨hm, hg, hl, fun tk => (ht tk).trans ?_⟩
      rw [State.team_modTeam]
      split <;> rfl
  unfold State.gangOver
  dsimp only
  split
  · exact hf _ _
  · exact ⟨rfl, rfl, rfl, fun _ => rfl⟩

/-- A team that leaves its core takes its groups along. -/
@[simp] theorem State.leaveCore_mem (s : State) (tk : Nat) : (s.leaveCore tk).mem = s.mem := rfl
@[simp] theorem State.leaveCore_groups (s : State) (tk : Nat) : (s.leaveCore tk).groups = s.groups := rfl
@[simp] theorem State.leaveCore_teams (s : State) (tk : Nat) : (s.leaveCore tk).teams = s.teams := rfl
@[simp] theorem State.leaveCore_launches (s : State) (tk : Nat) : (s.leaveCore tk).launches = s.launches := rfl
@[simp] theorem State.leaveCore_sleeve (s : State) (tk : Nat) : (s.leaveCore tk).sleeve = s.sleeve := rfl
@[simp] theorem State.freeTeam_mem (s : State) (tk : Nat) : (s.freeTeam tk).mem = s.mem := s.leaveCore_mem tk
@[simp] theorem State.freeTeam_groups (s : State) (tk : Nat) : (s.freeTeam tk).groups = s.groups.filter (fun e => e.2.team ≠ tk) := by
  simp [State.freeTeam]
@[simp] theorem State.freeTeam_launches (s : State) (tk : Nat) : (s.freeTeam tk).launches = s.launches := by simp [State.freeTeam]
@[simp] theorem State.freeTeam_sleeve (s : State) (tk : Nat) : (s.freeTeam tk).sleeve = s.sleeve := by simp [State.freeTeam]

/-- The original of a team is gone and counts as ended in its launch. -/
def State.countGone (s : State) (tk kid : Nat) : State :=
  ((s.freeTeam tk).modTeam tk (fun tm => { tm with resid := .gone, held := false, endClk := s.clk.toNat })).modLaunch kid
    (fun l => { l with ended := l.ended + 1 })

theorem State.countGone_mem (s : State) (tk kid : Nat) : (s.countGone tk kid).mem = s.mem := by simp [State.countGone]
theorem State.countGone_groups (s : State) (tk kid : Nat) : (s.countGone tk kid).groups = s.groups.filter (fun e => e.2.team ≠ tk) := by
  simp [State.countGone]

theorem State.countGone_launches {s : State} {kid : Nat} {l : Launch} (tk : Nat) (h : kvGet s.launches kid = some l) :
    kvGet (s.countGone tk kid).launches kid = some { l with ended := l.ended + 1 } := by
  unfold State.countGone State.modLaunch
  simp [kvGet_kvMod_self, h]

theorem State.countGone_resid {s : State} {tk : Nat} {tm : Team} (h : kvGet s.teams tk = some tm) (kid : Nat) :
    ((s.countGone tk kid).team tk).resid = .gone := by
  have hp : (kvGet (s.freeTeam tk).teams tk).isSome = true := by
    simp [State.freeTeam, State.modTeam, kvGet_kvMod_self, h]
  show (((s.freeTeam tk).modTeam tk _).team tk).resid = _
  rw [State.team_modTeam, if_pos ⟨rfl, hp⟩]

theorem execTeamEnd_eq {tk : Nat} {s : State} {tm : Team} (ht : kvGet s.teams tk = some tm) (hk : tm.kind = .original) (he : tm.ended = none)
    (hc : s.canEnd tk = true) (hu : (s.launch tm.kid).checked = false) (hs : kvGet s.sleeve tk = none) (hl : (s.core tm.core).slog = []) :
    exec (.teamEnd tk) s = .next ((s.countGone tk tm.kid).gangOver tm.gang) := by
  have htm := State.team_of_kvGet ht
  have hf : s.foldEnd tk = s := State.fold_of_unchecked (htm ▸ hu) _
  show execTeamEnd tk s = _
  unfold execTeamEnd
  rw [State.abortFaulted_of_running (htm ▸ he), State.drainLog_of_empty (htm ▸ hl)]
  dsimp only
  rw [hf, State.originalOver_of_none hs]
  simp only [htm, hk, hc]
  rfl

/-! ## The end of a replay -/

/-- An event changes the signature of its team only (15 R406). -/
theorem State.fold_frame (s : State) (tk : Nat) (e : SigEvent) : s.fold tk e = { s with teams := (s.fold tk e).teams } := by
  unfold State.fold
  dsimp only
  split <;> rfl

theorem State.fold_chk (s : State) (tk : Nat) (e : SigEvent) :
    ((s.fold tk e).team tk).chk = { (s.team tk).chk with sig := ((s.fold tk e).team tk).chk.sig } := by
  unfold State.fold
  dsimp only
  split
  · rw [State.team_modTeam]; split <;> rfl
  · rfl

theorem State.foldEnd_frame (s : State) (tk : Nat) : s.foldEnd tk = { s with teams := (s.foldEnd tk).teams } := s.fold_frame tk _
theorem State.foldEnd_chk (s : State) (tk : Nat) :
    ((s.foldEnd tk).team tk).chk = { (s.team tk).chk with sig := ((s.foldEnd tk).team tk).chk.sig } := s.fold_chk tk _

theorem State.dropRun_teams (s : State) (tk : Nat) : kvGet (s.dropRun tk).teams tk = none := by
  show kvGet (kvDel _ tk) tk = none
  rw [kvGet_kvDel, if_pos rfl]

@[simp] theorem State.dropRun_sleeve (s : State) (tk : Nat) : (s.dropRun tk).sleeve = s.sleeve := rfl

/-- The end of a replay that stands for its entry: the entry is freed, or asks for an authoritative run (15 R418). -/
theorem execRunEnd_replay {tk : Nat} {s : State} {tm : Team} {e : SleeveEntry} (ht : kvGet s.teams tk = some tm) (hk : tm.kind = .replay)
    (he : tm.ended = none) (hc : s.canEnd tk = true) (hl : (s.core tm.core).slog = []) (hs : kvGet s.sleeve tm.sameAs = some e) (hr : e.run = some tk) :
    let sig := ((s.foldEnd tk).team tk).chk.sig
    let bad := tm.chk.tainted || tm.chk.diverged || tm.chk.logBad
    exec (.runEnd tk) s = .next (if !bad && sig = e.sigO then ((s.foldEnd tk).dropRun tk).freeEntry tm.sameAs
      else ((s.foldEnd tk).dropRun tk).modSleeve tm.sameAs
        (fun _ => ({ e with sigR := sig, replayBad := bad, run := none } : SleeveEntry).ask .auth s.clk.toNat)) := by
  have htm := State.team_of_kvGet ht
  intro sig bad
  have hbad : (((s.foldEnd tk).team tk).chk.tainted || ((s.foldEnd tk).team tk).chk.diverged || ((s.foldEnd tk).team tk).chk.logBad) = bad := by
    rw [State.foldEnd_chk, htm]
  have hsl : kvGet (s.foldEnd tk).sleeve tm.sameAs = some e := by rw [State.foldEnd_frame]; exact hs
  have hclk : (s.foldEnd tk).clk = s.clk := by rw [State.foldEnd_frame]
  show execRunEnd tk s = _
  unfold execRunEnd
  rw [State.abortFaulted_of_running (htm ▸ he), State.drainLog_of_empty (htm ▸ hl)]
  simp only [htm, hk, hc, hbad, hsl, hr, hclk]
  simp only [reduceCtorEq, decide_false, Bool.not_true, Bool.or_self, Bool.false_eq_true, if_false, ne_eq, not_true_eq_false, if_true]
  split <;> rfl

/-! ## Versions leave the Apron -/

/-- Before the first element that satisfies a test none does. -/
theorem not_of_mem_takeWhile_find {α : Type} [DecidableEq α] {p : α → Bool} {l : List α} {v w : α} (h : l.find? p = some v)
    (hw : w ∈ l.takeWhile (· ≠ v)) : p w = false := by
  obtain ⟨hv, as, bs, rfl, has⟩ := List.find?_eq_some_iff_append.mp h
  have hne : ∀ a ∈ as, decide (a ≠ v) = true := fun a ha => by
    have : a ≠ v := fun e => by simpa [e, hv] using has a ha
    simpa using this
  rw [List.takeWhile_append_of_pos hne] at hw
  have hw : w ∈ as := by simpa using hw
  simpa using has w hw

/-- What the head of a chain is: a version of the line, before which there is none of the line. -/
theorem State.chainHead_spec {s : State} {line : Nat} {v : Version} (h : s.chainHead line = some v) :
    v ∈ s.apron ∧ v.line = line ∧ v.based = true ∧ ∀ w ∈ s.apron.takeWhile (· ≠ v), ¬ (w.line = line ∧ w.based = true) := by
  have hv := List.find?_some h
  simp only [Bool.and_eq_true, beq_iff_eq] at hv
  refine ⟨List.mem_of_find?_eq_some h, hv.1, hv.2, fun w hw ⟨hl, hb⟩ => ?_⟩
  simpa [hl, hb] using not_of_mem_takeWhile_find h hw

/-- What is committed stays in what is committed together with it. -/
theorem State.mem_commitSet {s : State} {v : Version} (hv : v ∈ s.apron) (hb : v.based = true) (n : Nat) {vs : List Version} (h : v ∈ vs) :
    v ∈ s.commitSet n vs := by
  induction n generalizing vs with
  | zero => exact h
  | succ n ih =>
    unfold State.commitSet
    dsimp only
    split
    · exact h
    · exact ih (List.mem_filter.mpr ⟨hv, by simp [hb, h]⟩)

/-- The head of a chain that holds no release is committed alone. -/
theorem State.commitSet_of_plain {s : State} {line : Nat} {v : Version} (h : s.chainHead line = some v) (hr : v.rel = false) (hc : s.apron.count v = 1)
    (n : Nat) : s.commitSet n [v] = [v] := by
  obtain ⟨-, hl, hb, hfirst⟩ := State.chainHead_spec h
  have hbrings : ∀ w, w.based = true → s.brings v w = false := fun w hw => by
    unfold State.brings
    rw [hr, Bool.false_and, Bool.or_false, Bool.and_eq_false_iff, List.contains_eq_mem, decide_eq_false_iff_not, decide_eq_false_iff_not]
    by_cases hwl : w.line = v.line
    · exact .inr (fun hm => hfirst w hm ⟨hwl.trans hl, hw⟩)
    · exact .inl hwl
  have hmore : s.apron.filter (fun w => w.based && ([v].contains w || [v].any (fun v => s.brings v w))) = [v] := by
    have : ∀ w, (w.based && ([v].contains w || [v].any (fun v => s.brings v w))) = (w == v) := fun w => by
      by_cases e : w = v
      · subst e; simp [hb]
      · cases hw : w.based
        · simp [e]
        · simp [hbrings w hw, e]
    simp only [this, List.filter_beq, hc, List.replicate_one]
  cases n with
  | zero => rfl
  | succ n =>
    unfold State.commitSet
    dsimp only
    rw [hmore, if_pos rfl]

/-- The head of a chain that holds a release brings all that its team and the team's producers hold (15 R424). -/
theorem State.mem_commitSet_of_release {s : State} {v w : Version} (hv : v ∈ s.apron) (hvb : v.based = true) (hr : v.rel = true) (hw : w ∈ s.apron)
    (hb : w.based = true) (ho : w.owner = v.owner ∨ (s.team v.owner).chk.producers.contains w.entry = true) :
    w ∈ s.commitSet s.apron.length [v] := by
  have hbr : s.brings v w = true := by
    unfold State.brings
    rcases ho with h | h <;> simp only [hr, h, Bool.true_and, Bool.or_true, decide_true, Bool.true_or]
  obtain ⟨n, hn⟩ : ∃ n, s.apron.length = n + 1 := ⟨s.apron.length - 1, by have := List.length_pos_of_mem hv; omega⟩
  have hmore : ∀ x ∈ s.apron, x.based = true → (x = v ∨ s.brings v x = true) →
      x ∈ s.apron.filter (fun w => w.based && ([v].contains w || [v].any (fun v => s.brings v w))) := fun x hx hxb h => by
    refine List.mem_filter.mpr ⟨hx, ?_⟩
    rcases h with rfl | h <;> simp [*]
  rw [hn]
  unfold State.commitSet
  dsimp only
  split
  · next hlen =>
    obtain ⟨x, hx⟩ := List.length_eq_one_iff.mp hlen
    have h₁ := hmore v hv hvb (.inl rfl)
    have h₂ := hmore w hw hb (.inr hbr)
    rw [hx, List.mem_singleton] at h₁ h₂
    simp [h₁, h₂]
  · exact State.mem_commitSet hw hb n (hmore w hw hb (.inr hbr))

theorem execVersionCommit_of_not {s : State} {line : Nat} {v w : Version} (h : s.chainHead line = some v)
    (hw : w ∈ s.commitSet s.apron.length [v]) (hm : s.mayCommit w = false) : exec (.versionCommit line) s = .next s := by
  have hall : (s.commitSet s.apron.length [v]).all s.mayCommit = false := List.all_eq_false.mpr ⟨w, hw, by simp [hm]⟩
  show execVersionCommit line s = _
  unfold execVersionCommit
  rw [h]
  dsimp only
  rw [hall]
  rfl

/-- Settles O46: the events one after another. -/
theorem checkEvents : Obligations.CheckEvents := by
  refine ⟨?teamEnd, ?runEnd, ?versionCommit, ?apronForced, ?releaseAfterExpiry, ?demeritDecay, ?chkctl⟩
  case teamEnd =>
    intro tk s tm ht hk he hc hu hs hl
    obtain ⟨hm, hg, hn, hr⟩ := (s.countGone tk tm.kid).gangOver_keeps tm.gang
    exact ⟨_, execTeamEnd_eq ht hk he hc hu hs hl, hm.trans (s.countGone_mem tk _), (hr tk).trans (State.countGone_resid ht _),
      hg.trans (s.countGone_groups tk _), fun l h => by rw [hn]; exact State.countGone_launches tk h⟩
  case runEnd =>
    intro tk s tm e ht hk he hc hl hs hr sig bad
    refine ⟨_, execRunEnd_replay ht hk he hc hl hs hr, ?_, fun hb hsig => ?_, fun hd => ?_⟩
    · split
      · exact (s.foldEnd tk).dropRun_teams tk
      · exact (s.foldEnd tk).dropRun_teams tk
    · have hc : (!bad && decide (sig = e.sigO)) = true := by simp [hb, hsig]
      rw [if_pos hc]
      show kvGet (kvDel _ _) _ = none
      rw [kvGet_kvDel, if_pos rfl]
    · have hc : ¬ (!bad && decide (sig = e.sigO)) = true := by rcases hd with h | h <;> simp [h]
      have hsl : kvGet (s.foldEnd tk).sleeve tm.sameAs = some e := by rw [State.foldEnd_frame]; exact hs
      rw [if_neg hc]
      show kvGet (kvMod ((s.foldEnd tk).dropRun tk).sleeve _ _) _ = _
      rw [State.dropRun_sleeve, kvGet_kvMod_self, hsl]
      rfl
  case versionCommit =>
    intro line s v h
    obtain ⟨hv, -, hb, -⟩ := State.chainHead_spec h
    refine ⟨fun hr hc hres hprod => ?_, fun hm => execVersionCommit_of_not h (State.mem_commitSet hv hb _ (List.mem_singleton_self v)) hm,
      fun w hr hw hwb ho hm => execVersionCommit_of_not h (State.mem_commitSet_of_release hv hb hr hw hwb ho) hm⟩
    show execVersionCommit line s = _
    unfold execVersionCommit
    rw [h]
    simp [State.commitSet_of_plain h hr hc, State.mayCommit, hres, hprod]
  case apronForced =>
    intro slice t s v hf ht hg hv
    show execApronForced slice s = _
    unfold execApronForced
    simp only [hf, ht, hg, hv]
    rfl
  case releaseAfterExpiry =>
    intro line entry s v l hrel hgone hclk hv
    show execReleaseAfterExpiry line entry s = _
    unfold execReleaseAfterExpiry
    simp only [show (s.launch (s.team entry).kid).r.release = .after from hrel, hgone,
      show (s.team entry).endClk + 1000 * (s.launch (s.team entry).kid).r.relTime ≤ s.clk.toNat from hclk, hv]
    rfl
  case demeritDecay =>
    intro s h
    refine ⟨_, if_pos h, rfl, rfl, fun c k hk => ?_, fun q k hk => ?_⟩
    · have hm := kvGet_map s.cores (fun k => { k with demerit := k.demerit - 1 }) c
      rw [hk] at hm
      exact congrArg (fun k : Option Core => (k.getD Core.reset).demerit) hm
    · have hm := kvGet_map s.quads (fun k => { k with demerit := k.demerit - 1 }) q
      rw [hk] at hm
      exact congrArg (fun k : Option Quad => (k.getD Quad.reset).demerit) hm
  case chkctl =>
    intro val s ho hl
    show execChkctlWrite 0 val s = _
    simp [execChkctlWrite, ho, hl]

end Sys2Proof.Machine
end

section
/-!
SUPPORT. What the memory system leaves of the groups: an access at a home, a translation, the fetch of a block change their outstanding
results and the writes on their way, and nothing else of them (12 R329, R330; 13 R361 to R371; 16 R451).
-/
namespace Sys2Proof.Machine
open Sys2Proof Sys2Proof.Claims

/-- A group without its outstanding results and its writes on their way. -/
def Group.still (g : Group) : Group := { g with pend := [], unapplied := [], unacked := [] }

/-- The groups of a table, each without what the memory system changes of it. -/
def stillOf (m : List (Nat × Group)) (k : Nat) : Option Group := (kvGet m k).map Group.still

theorem stillOf_kvMod (m : List (Nat × Group)) (k : Nat) {f : Group → Group} (hf : ∀ g, (f g).still = g.still) :
    stillOf (kvMod m k f) = stillOf m := by
  funext j
  unfold stillOf
  rw [kvGet_kvMod]
  split
  · next e =>
    subst e
    rw [Option.map_map]
    exact congrArg (fun h => (kvGet m k).map h) (funext hf)
  · rfl

theorem State.modGroup_still (s : State) (k : Nat) {f : Group → Group} (hf : ∀ g, (f g).still = g.still) :
    stillOf (s.modGroup k f).groups = stillOf s.groups := stillOf_kvMod s.groups k hf

theorem foldl_still {α : Type} {f : State → α → State} (hf : ∀ s a, stillOf (f s a).groups = stillOf s.groups) (l : List α) (s : State) :
    stillOf (l.foldl f s).groups = stillOf s.groups := by
  induction l generalizing s with
  | nil => rfl
  | cons a l ih => exact (ih _).trans (hf s a)

theorem foldl_groups {α : Type} {f : State → α → State} (hf : ∀ s a, (f s a).groups = s.groups) (l : List α) (s : State) :
    (l.foldl f s).groups = s.groups := by
  induction l generalizing s with
  | nil => rfl
  | cons a l ih => exact (ih _).trans (hf s a)

/-! ## What leaves every group as it is -/

@[simp] theorem State.raise_groups (s : State) (tk : Option Nat) (r : ErrRec) : (s.raise tk r).groups = s.groups := by
  unfold State.raise
  cases tk <;> rfl

@[simp] theorem State.count_groups (s : State) (i : Nat) : (s.count i).groups = s.groups := rfl
@[simp] theorem State.free_groups (s : State) : s.free.2.groups = s.groups := rfl
@[simp] theorem State.badPa_groups (s : State) (pa : Nat) : (s.badPa pa).groups = s.groups := rfl
@[simp] theorem State.poisonLine_groups (s : State) (line : Nat) : (s.poisonLine line).groups = s.groups := rfl
@[simp] theorem State.l2Dirty_groups (s : State) (line : Nat) : (s.l2Dirty line).groups = s.groups := rfl
@[simp] theorem State.l2Seal_groups (s : State) (line : Nat) : (s.l2Seal line).groups = s.groups := rfl
@[simp] theorem State.send_groups (s : State) (src dst : Node) (line : Nat) (body : MsgBody) : (s.send src dst line body).groups = s.groups := rfl
@[simp] theorem State.keepPtr_groups (s : State) (p : WalkPtr) : (s.keepPtr p).groups = s.groups := rfl
@[simp] theorem State.homeTaken_groups (s : State) (line : Nat) : (s.homeTaken line).groups = s.groups := rfl
@[simp] theorem State.modMu_groups (s : State) (cl : Nat) (e e' : MuEntry) : (s.modMu cl e e').groups = s.groups := rfl
@[simp] theorem State.coreYield_groups (s : State) (c line : Nat) (tag : RedTag) : (s.coreYield c line tag).2.groups = s.groups := rfl
@[simp] theorem State.unitDone_groups (s : State) (cl mn : Nat) (e : MuEntry) : (s.unitDone cl mn e).groups = s.groups := rfl
@[simp] theorem State.emit_groups (s : State) (m : OutMsg) : (s.emit m).groups = s.groups := rfl
@[simp] theorem State.hostWrite_groups (s : State) (a : Nat) (bs : List Byte) : (s.hostWrite a bs).groups = s.groups := rfl

@[simp] theorem State.memWrite_groups (s : State) (pa : Nat) (bs : List Byte) (p : Bool) : (s.memWrite pa bs p).groups = s.groups := by
  unfold State.memWrite; split <;> rfl

@[simp] theorem State.learnClock_groups (s : State) (die : Nat) (vc : List Nat) : (s.learnClock die vc).groups = s.groups := by
  unfold State.learnClock; split <;> rfl

@[simp] theorem State.l2Room_groups (s : State) (line : Nat) : (s.l2Room line).groups = s.groups := by
  unfold State.l2Room
  dsimp only
  split
  · rfl
  · split <;> rfl

@[simp] theorem State.l2Check_groups (s : State) (line : Nat) : (s.l2Check line).groups = s.groups := by
  unfold State.l2Check
  dsimp only
  split
  · split
    · rfl
    · split <;> rfl
  · rfl

@[simp] theorem State.l2Touch_groups (s : State) (line : Nat) (u : L2Use) : (s.l2Touch line u).groups = s.groups := by
  unfold State.l2Touch
  split
  · rfl
  · exact s.l2Check_groups line
  · exact s.l2Check_groups line
  · exact s.l2Room_groups line

@[simp] theorem State.plainWrite_groups (s : State) (pa : Nat) (bs : List Byte) (p : Bool) (u : L2Use) : (s.plainWrite pa bs p u).groups = s.groups := by
  unfold State.plainWrite
  dsimp only
  rw [foldl_groups (fun s l => s.l2Seal_groups l), State.memWrite_groups, foldl_groups (fun s l => by simp)]

@[simp] theorem State.l2Merged_groups (s : State) (line : Nat) (b : Backing) : (s.l2Merged line b).groups = s.groups := s.l2Room_groups line

@[simp] theorem State.sendRacks_groups (s : State) (line : Nat) (regs : List (Nat × RedTag × Bool)) : (s.sendRacks line regs).groups = s.groups :=
  foldl_groups (fun s r => by split <;> rfl) regs s

@[simp] theorem State.writeFinal_groups (s : State) (line : Nat) (h : HomeLine) : (s.writeFinal line h).groups = s.groups := by
  unfold State.writeFinal
  dsimp only
  rw [foldl_groups (fun s cl => by simp), foldl_groups (fun s c => by simp)]

@[simp] theorem State.openLine_groups (s : State) (line : Nat) (op : RedTag) (cv : List Nat) (regs : List (Nat × RedTag × Bool)) :
    (s.openLine line op cv regs).1.groups = s.groups := by
  unfold State.openLine
  dsimp only
  split
  · exact s.l2Check_groups line
  · rfl

/-! ## Accesses at a home -/

@[simp] theorem State.fixPend_still (s : State) (gk tok : Nat) (dsts : List LoadDst) (ws : List RegWord) :
    stillOf (s.fixPend gk tok dsts ws).groups = stillOf s.groups := s.modGroup_still gk (fun _ => rfl)

@[simp] theorem State.performed_still (s : State) (gk tok : Nat) : stillOf (s.performed gk tok).groups = stillOf s.groups :=
  s.modGroup_still gk (fun _ => rfl)

@[simp] theorem State.atomicAt_groups (s : State) (pa n : Nat) (op : AtomOp) (u : L2Use) : (s.atomicAt pa n op u).2.2.groups = s.groups := by
  unfold State.atomicAt
  dsimp only
  split
  · exact s.l2Touch_groups _ u
  · dsimp only
    split
    · split <;> simp
    · simp

@[simp] theorem State.serve_still (s : State) (a : HomeAcc) : stillOf (s.serve a).groups = stillOf s.groups := by
  cases a <;> simp [State.serve]

@[simp] theorem State.serveReads_still (s : State) (q : List HomeEv) : stillOf (s.serveReads q).groups = stillOf s.groups :=
  foldl_still (fun s e => by split <;> simp) q s

@[simp] theorem State.endMerge_still (s : State) (line : Nat) (h : HomeLine) : stillOf (s.endMerge line h).1.groups = stillOf s.groups := by
  unfold State.endMerge
  dsimp only
  split
  · split <;> simp
  · simp
  · simp

@[simp] theorem State.beginMerge_still (s : State) (line : Nat) (h : HomeLine) (st : HomeSt) (q : List HomeEv) :
    stillOf (s.beginMerge line h st q).1.groups = stillOf s.groups := by
  unfold State.beginMerge
  dsimp only
  split
  · simp
  · rw [foldl_groups (fun s cl => by simp)]

@[simp] theorem State.homeRoom_still (s : State) (line : Nat) (tag : RedTag) : stillOf (s.homeRoom line tag).2.1.groups = stillOf s.groups := by
  unfold State.homeRoom
  dsimp only
  split
  · rfl
  · split
    · rfl
    · split
      · simp
      · split
        · rfl
        · split
          · rfl
          · split <;> simp

@[simp] theorem State.takePart_still (s : State) (line cl : Nat) (h : HomeLine) (part : Option Slots) :
    stillOf (s.takePart line cl h part).1.groups = stillOf s.groups := by
  unfold State.takePart
  dsimp only
  split
  · simp
  · rfl

@[simp] theorem State.homeWait_groups (s : State) (line : Nat) (ev : HomeEv) : (s.homeWait line ev).1.groups = s.groups := rfl

@[simp] theorem State.plainEvent_still (s : State) (force : Bool) (line : Nat) (ev : HomeEv) :
    stillOf (s.plainEvent force line ev).1.groups = stillOf s.groups := by
  unfold State.plainEvent
  dsimp only
  cases ev with
  | acc a => dsimp only; split <;> simp
  | after a => dsimp only; split <;> simp
  | reg cl tag ack =>
    dsimp only
    split
    · rfl
    · split <;> simp
  | flush cl tag slots d =>
    dsimp only
    split
    · rfl
    · split <;> simp
  | lost cl => dsimp only; split <;> simp

@[simp] theorem State.openEvent_still (s : State) (line : Nat) (h : HomeLine) (ev : HomeEv) :
    stillOf (s.openEvent line h ev).1.groups = stillOf s.groups := by
  unfold State.openEvent
  dsimp only
  repeat' split
  all_goals simp

@[simp] theorem State.homeEvent_still (s : State) (force : Bool) (line : Nat) (ev : HomeEv) :
    stillOf (s.homeEvent force line ev).1.groups = stillOf s.groups := by
  unfold State.homeEvent
  dsimp only
  repeat' split
  all_goals simp

theorem State.homeEvents_still (force : Bool) (fuel : Nat) (es : List (Nat × HomeEv)) (s : State) :
    stillOf (State.homeEvents force fuel es s).groups = stillOf s.groups := by
  induction fuel generalizing es s with
  | zero => unfold State.homeEvents; rfl
  | succ fuel ih =>
    cases es with
    | nil =>
      unfold State.homeEvents
      split
      · rw [ih]; simp
      · rfl
    | cons e es =>
      unfold State.homeEvents
      dsimp only
      rw [ih, State.homeEvent_still]

@[simp] theorem State.homeTake_still (s : State) (line : Nat) (ev : HomeEv) : stillOf (s.homeTake line ev).groups = stillOf s.groups :=
  State.homeEvents_still _ _ _ _

@[simp] theorem State.homeRest_still (r : State × List (Nat × HomeEv)) : stillOf (State.homeRest r).groups = stillOf r.1.groups :=
  State.homeEvents_still _ _ _ _

@[simp] theorem State.lineUp_still (s : State) (line : Nat) (h : HomeLine) : stillOf (s.lineUp line h).groups = stillOf s.groups := by
  unfold State.lineUp
  simp

@[simp] theorem State.homePart_still (s : State) (line cl mn : Nat) (slots : Slots) : stillOf (s.homePart line cl mn slots).groups = stillOf s.groups := by
  unfold State.homePart
  repeat' split
  all_goals simp

/-! ## Merge units and reduction buffers -/

theorem foldl_pair_groups {α β : Type} {f : β × State → α → β × State} (hf : ∀ r a, (f r a).2.groups = r.2.groups) (l : List α) (r : β × State) :
    (l.foldl f r).2.groups = r.2.groups := by
  induction l generalizing r with
  | nil => rfl
  | cons a l ih => exact (ih _).trans (hf r a)

@[simp] theorem State.unitReplace_groups (s : State) (cl : Nat) (e : MuEntry) : (s.unitReplace cl e).groups = s.groups := by
  unfold State.unitReplace
  dsimp only
  rw [State.send_groups, State.modCluster_groups, foldl_pair_groups (fun r c => by simp)]

@[simp] theorem State.unitRoom_groups (s : State) (cl : Nat) : (s.unitRoom cl).groups = s.groups := by
  unfold State.unitRoom
  dsimp only
  repeat' split
  all_goals simp

@[simp] theorem State.unitReg_groups (s : State) (cl c line : Nat) (tag : RedTag) : (s.unitReg cl c line tag).groups = s.groups := by
  unfold State.unitReg
  dsimp only
  repeat' split
  all_goals simp

@[simp] theorem State.unitFlush_groups (s : State) (cl c line : Nat) (tag : RedTag) (slots : Slots) (last : Bool) :
    (s.unitFlush cl c line tag slots last).groups = s.groups := by
  unfold State.unitFlush
  dsimp only
  repeat' split
  all_goals simp

@[simp] theorem State.unitMreq_groups (s : State) (cl line : Nat) (tag : RedTag) (mn : Nat) : (s.unitMreq cl line tag mn).groups = s.groups := by
  unfold State.unitMreq
  split
  · dsimp only
    split
    · simp
    · rw [foldl_groups (fun s c => by simp), State.modMu_groups]
  · simp

@[simp] theorem State.unitPart_groups (s : State) (cl c line : Nat) (tag : RedTag) (slots : Slots) : (s.unitPart cl c line tag slots).groups = s.groups := by
  unfold State.unitPart
  dsimp only
  repeat' split
  all_goals simp

@[simp] theorem State.unitRack_groups (s : State) (cl line : Nat) (tag : RedTag) : (s.unitRack cl line tag).groups = s.groups := by
  unfold State.unitRack
  split
  · dsimp only
    rw [foldl_groups (fun s c => by simp), State.modCluster_groups]
  · rfl

@[simp] theorem State.coreRack_still (s : State) (c line : Nat) (tag : RedTag) : stillOf (s.coreRack c line tag).groups = stillOf s.groups := by
  unfold State.coreRack
  split
  · dsimp only
    rw [foldl_still (fun s t => by simp), State.modCore_groups]
  · rfl

@[simp] theorem State.coreMreq_groups (s : State) (c line : Nat) (tag : RedTag) (mn : Nat) : (s.coreMreq c line tag mn).groups = s.groups := by
  simp [State.coreMreq]

/-! ## Messages, and the settling of a line -/

@[simp] theorem State.receive_still (s : State) (m : NetMsg) : stillOf (s.receive m).groups = stillOf s.groups := by
  unfold State.receive
  split <;> simp

@[simp] theorem State.deliver_still (s : State) (m : NetMsg) : stillOf (s.deliver m).groups = stillOf s.groups := by
  unfold State.deliver
  split
  · rfl
  · rw [State.receive_still]; split <;> simp

theorem State.deliverFirst_still {s u : State} {p : NetMsg → Bool} (h : s.deliverFirst p = some u) : stillOf u.groups = stillOf s.groups := by
  obtain ⟨r, -, rfl⟩ := Option.map_eq_some_iff.mp h
  simp

theorem State.settleStep_still {s u : State} {line : Nat} (h : s.settleStep line = some u) : stillOf u.groups = stillOf s.groups := by
  unfold State.settleStep at h
  split at h
  · next hd => cases h; exact State.deliverFirst_still hd
  · split at h
    · next hd =>
      cases h
      split at hd
      · exact State.deliverFirst_still hd
      · cases hd
    · split at h
      · cases h
        rw [State.homeEvents_still, State.homeTaken_groups]
      · obtain ⟨x, -, h⟩ := Option.bind_eq_some_iff.mp h
        split at h <;> cases h <;> simp

theorem settleGo_still (line fuel : Nat) (s : State) : stillOf (settleGo line fuel s).groups = stillOf s.groups := by
  induction fuel generalizing s with
  | zero => rfl
  | succ fuel ih =>
    unfold settleGo
    split
    · next h => exact (ih _).trans (State.settleStep_still h)
    · rfl

@[simp] theorem State.settle_still (s : State) (line : Nat) : stillOf (s.settle line).groups = stillOf s.groups := by
  unfold State.settle
  split
  · rfl
  · exact settleGo_still _ _ _

@[simp] theorem homeRead_still (s : State) (pa n : Nat) (u : L2Use) : stillOf (homeRead s pa n u).2.groups = stillOf s.groups := by
  unfold homeRead
  split
  · exact foldl_still (fun s l => by simp) _ s
  · rfl

@[simp] theorem homeWrite_still (s : State) (pa : Nat) (bs : List Byte) (p : Bool) (u : L2Use) :
    stillOf (homeWrite s pa bs p u).groups = stillOf s.groups := by
  unfold homeWrite State.rawWrite
  split
  · rw [State.plainWrite_groups]
    exact foldl_still (fun s l => s.settle_still l) _ s
  · rfl

/-! ## Translation and fetch -/

theorem walkGo_still (die tenant va level table : Nat) (big : Bool) (s : State) :
    stillOf (walkGo die tenant va level table big s).2.groups = stillOf s.groups := by
  induction level generalizing table big s with
  | zero =>
    unfold walkGo
    dsimp only
    repeat' split
    all_goals simp
  | succ level ih =>
    unfold walkGo
    dsimp only
    repeat' split
    all_goals simp [ih]

@[simp] theorem walk_still (die tenant va : Nat) (s : State) : stillOf (walk die tenant va s).2.groups = stillOf s.groups := by
  unfold walk
  dsimp only
  repeat' split
  all_goals simp [walkGo_still]

@[simp] theorem shadowAdd_still (s : State) (e : TlbEntry) : stillOf (shadowAdd s e).groups = stillOf s.groups := by
  unfold shadowAdd
  dsimp only
  split <;> simp

@[simp] theorem l2Install_still (s : State) (core : Nat) (e : TlbEntry) : stillOf (l2Install s core e).groups = stillOf s.groups := by
  unfold l2Install
  dsimp only
  repeat' split
  all_goals simp

@[simp] theorem l1Install_groups (s : State) (core : Nat) (e : TlbEntry) : (l1Install s core e).groups = s.groups := by
  unfold l1Install l1Retire
  dsimp only
  repeat' split
  all_goals simp

@[simp] theorem translate_still (s : State) (core tenant va hits : Nat) : stillOf (translate s core tenant va hits).2.groups = stillOf s.groups := by
  have hw := walk_still (Config.dieOf core) tenant va s
  unfold translate
  dsimp only
  repeat' split
  all_goals simp_all

@[simp] theorem State.askPeer_groups (s : State) (pa n : Nat) (body : Nat → PeerBody) : (s.askPeer pa n body).2.groups = s.groups := by
  unfold State.askPeer
  dsimp only
  repeat' split
  all_goals simp

@[simp] theorem physRead_still (s : State) (host : Bool) (pa n : Nat) : stillOf (physRead s host pa n).2.groups = stillOf s.groups := by
  unfold physRead
  dsimp only
  repeat' split
  all_goals simp

theorem fetchBytes_still (s : State) (core tenant va n : Nat) : stillOf (fetchBytes s core tenant va n).2.groups = stillOf s.groups := by
  have ht := translate_still s core tenant va 1
  unfold fetchBytes
  split
  · next h => rw [h] at ht; exact ht
  · next x _ v h =>
    rw [h] at ht
    split
    · exact ht
    · exact (physRead_still v x.host (x.phys va) n).trans ht

theorem fetchWord_still (buf : Nat → Option DWord) (core tenant desc a : Nat) (s : State) :
    stillOf (fetchWord buf core tenant desc a s).2.groups = stillOf s.groups := by
  have hb := fetchBytes_still s core tenant (a % 2 ^ 57) 8
  unfold fetchWord
  split
  · rfl
  · split <;> next h => rw [h] at hb; exact hb

theorem fetchWords_still (buf : Nat → Option DWord) (core tenant desc a n : Nat) (s : State) :
    stillOf (fetchWords buf core tenant desc a n s).2.groups = stillOf s.groups := by
  induction n generalizing a s with
  | zero => rfl
  | succ n ih =>
    have hw := fetchWord_still buf core tenant desc a s
    unfold fetchWords
    split
    · next h => rw [h] at hw; exact hw
    · next v h =>
      rw [h] at hw
      have hr := ih (a + 8) v
      split <;> next h => rw [h] at hr; exact hr.trans hw

theorem readBlock_still (buf : Nat → Option DWord) (s : State) (core tenant a : Nat) :
    stillOf (readBlock buf s core tenant a).2.groups = stillOf s.groups := by
  have hd := fetchWords_still buf core tenant a a 1 s
  unfold readBlock
  split
  · next h => rw [h] at hd; exact hd
  · next ds _ v h =>
    rw [h] at hd
    dsimp only
    split
    · exact hd
    · split
      · exact hd
      · have hw := fetchWords_still buf core tenant a (a + 8) (entOf (ds.headD 0).toNat).len v
        split
        · next h => rw [h] at hw; exact hw.trans hd
        · next h =>
          rw [h] at hw
          repeat' split
          all_goals exact hw.trans hd

/-- The fetch of a block leaves the groups but for their accesses. -/
theorem fetchBlock_still (buf : Nat → Option DWord) (s : State) (core tenant a : Nat) :
    stillOf (fetchBlock buf s core tenant a).2.groups = stillOf s.groups := by
  have hr := readBlock_still buf s core tenant a
  unfold fetchBlock
  split <;> next h => rw [h] at hr; exact hr

end Sys2Proof.Machine
end

section
/-!
SUPPORT. Returned data: where the words of a load land, with a park for them and without one (01 R45; 08 R229).
-/
namespace Sys2Proof.Machine
open Sys2Proof Sys2Proof.Claims

/-- The group once one returned word has landed: in its register, or, with no park for it, beside it (01 R45). -/
def Group.landOne (vregs : Nat) (g : Group) (e : LoadDst × RegWord) : Group :=
  match e.1 with
  | .vreg t n =>
    if (g.thread t).st ≠ .live ∨ vregs ≤ n then g
    else if g.parked then g.modThread t (fun th => th.setV n [e.2])
    else g.modThread t (fun th => { th with late := kvSet th.late n e.2 })
  | .sreg n => if g.parked then g.setS n [e.2] else { g with lateS := kvSet g.lateS n e.2 }
  | .none => g

theorem State.HoldsAt.landWord {s u : State} {k : Nat} {g : Group} (h : s.HoldsAt k u g) (e : LoadDst × RegWord) :
    s.HoldsAt k (u.landWord k e.1 e.2) (g.landOne (s.roleOf k).vregs e) := by
  obtain ⟨d, w⟩ := e
  cases d with
  | vreg t n =>
    simp only [State.landWord, Group.landOne, h.group_eq, h.roleOf_eq, Bool.or_eq_true, decide_eq_true_eq]
    split
    · exact h
    · split
      · exact h.modThread t _
      · exact h.modThread t _
  | sreg n =>
    simp only [State.landWord, Group.landOne, h.group_eq]
    split
    · exact h.modGroup rfl rfl
    · exact h.modGroup rfl rfl
  | none => exact h

theorem State.HoldsAt.landWords {s u : State} {k : Nat} {g : Group} (h : s.HoldsAt k u g) (ws : List (LoadDst × RegWord)) :
    s.HoldsAt k (ws.foldl (fun s w => s.landWord k w.1 w.2) u) (ws.foldl (Group.landOne (s.roleOf k).vregs) g) := by
  induction ws generalizing u g with
  | nil => exact h
  | cons e ws ih => exact ih (h.landWord e)

/-- What landing leaves: the park, the threads' number and states, the team's business. -/
structure Group.LandsTo (g g' : Group) : Prop where
  parked : g'.parked = g.parked
  length : g'.threads.length = g.threads.length
  st : ∀ t, (g'.thread t).st = (g.thread t).st
  pend : g'.pend = g.pend

theorem Group.modThread_st {g : Group} {t : Nat} {f : Thread → Thread} (hf : ∀ th, (f th).st = th.st) (j : Nat) :
    ((g.modThread t f).thread j).st = (g.thread j).st := by
  rw [Group.thread_modThread]
  split
  · exact hf _
  · rfl

theorem Group.landOne_landsTo (vregs : Nat) (g : Group) (e : LoadDst × RegWord) : g.LandsTo (g.landOne vregs e) := by
  unfold Group.landOne
  split
  · split
    · exact ⟨rfl, rfl, fun _ => rfl, rfl⟩
    · split
      · exact ⟨rfl, g.modThread_length _ _, Group.modThread_st (fun _ => rfl), rfl⟩
      · exact ⟨rfl, g.modThread_length _ _, Group.modThread_st (fun _ => rfl), rfl⟩
  · split <;> exact ⟨rfl, rfl, fun _ => rfl, rfl⟩
  · exact ⟨rfl, rfl, fun _ => rfl, rfl⟩

theorem Group.LandsTo.trans {a b c : Group} (h : a.LandsTo b) (h' : b.LandsTo c) : a.LandsTo c :=
  ⟨h'.parked.trans h.parked, h'.length.trans h.length, fun t => (h'.st t).trans (h.st t), h'.pend.trans h.pend⟩

theorem Group.landsTo_foldl (vregs : Nat) (ws : List (LoadDst × RegWord)) (g : Group) : g.LandsTo (ws.foldl (Group.landOne vregs) g) := by
  induction ws generalizing g with
  | nil => exact ⟨rfl, rfl, fun _ => rfl, rfl⟩
  | cons e ws ih => exact (g.landOne_landsTo vregs e).trans (ih _)

/-- What every other word keeps, the words that land after keep. -/
theorem Group.landWords_keeps {vregs : Nat} {g : Group} {P : Group → Prop} {ws : List (LoadDst × RegWord)}
    (hk : ∀ g', g.LandsTo g' → ∀ e ∈ ws, P g' → P (g'.landOne vregs e)) (h : P g) : P (ws.foldl (Group.landOne vregs) g) := by
  induction ws generalizing g with
  | nil => exact h
  | cons e ws ih =>
    have hl := g.landOne_landsTo vregs e
    exact ih (fun g' hg' e' he' => hk g' (hl.trans hg') e' (List.mem_cons_of_mem _ he')) (hk g ⟨rfl, rfl, fun _ => rfl, rfl⟩ e List.mem_cons_self h)

/-- What a word's landing makes true, and the landing of words for other destinations keeps, is true once all have landed. -/
theorem Group.landWords_lands {vregs : Nat} {g : Group} {P : Group → Prop} {ws : List (LoadDst × RegWord)} (hnd : (ws.map (·.1)).Nodup)
    {e : LoadDst × RegWord} (he : e ∈ ws) (hP : ∀ g', g.LandsTo g' → P (g'.landOne vregs e))
    (hk : ∀ g', g.LandsTo g' → ∀ e', e'.1 ≠ e.1 → P g' → P (g'.landOne vregs e')) : P (ws.foldl (Group.landOne vregs) g) := by
  induction ws generalizing g with
  | nil => cases he
  | cons a ws ih =>
    obtain ⟨ha, hnd⟩ := List.nodup_cons.mp hnd
    have hl := g.landOne_landsTo vregs a
    rw [List.foldl_cons]
    rcases List.mem_cons.mp he with rfl | he
    · refine Group.landWords_keeps (fun g' hg' e' he' => hk g' (hl.trans hg') e' ?_) (hP g ⟨rfl, rfl, fun _ => rfl, rfl⟩)
      exact fun h => ha (List.mem_map.mpr ⟨e', he', h⟩)
    · exact ih hnd he (fun g' hg' => hP g' (hl.trans hg')) (fun g' hg' => hk g' (hl.trans hg'))

/-! ## One word -/

theorem Thread.setV_one_v (th : Thread) (n j : Nat) (w : RegWord) :
    kvGetD RegWord.zero (th.setV n [w]).v j = if n = j then w else kvGetD RegWord.zero th.v j := kvGetD_kvPut RegWord.zero th.v n j w

theorem Group.setS_one_s (g : Group) (n j : Nat) (w : RegWord) :
    kvGetD RegWord.zero (g.setS n [w]).s j = if n = j then w else kvGetD RegWord.zero g.s j := kvGetD_kvPut RegWord.zero g.s n j w

/-- Where a vector register's word stands once it has landed. -/
def Group.hasV (t n : Nat) (w : RegWord) (g : Group) : Prop :=
  if g.parked then kvGetD RegWord.zero (g.thread t).v n = w else kvGet (g.thread t).late n = some w
/-- Where a uniform register's word stands once it has landed. -/
def Group.hasS (n : Nat) (w : RegWord) (g : Group) : Prop :=
  if g.parked then kvGetD RegWord.zero g.s n = w else kvGet g.lateS n = some w

theorem Group.landOne_hasV {vregs t n : Nat} {g : Group} {w : RegWord} (ht : t < g.threads.length) (hl : (g.thread t).st = .live) (hn : n < vregs) :
    (g.landOne vregs (.vreg t n, w)).hasV t n w := by
  have hland : ¬ ((g.thread t).st ≠ .live ∨ vregs ≤ n) := by simp [hl, hn]
  simp only [Group.landOne, if_neg hland]
  cases hp : g.parked with
  | true =>
    have h : kvGetD RegWord.zero ((g.modThread t (fun th => th.setV n [w])).thread t).v n = w := by
      rw [Group.thread_modThread, if_pos ⟨rfl, ht⟩, Thread.setV_one_v, if_pos rfl]
    simpa [Group.hasV, Group.modThread, hp] using h
  | false =>
    have h : kvGet ((g.modThread t (fun th => { th with late := kvSet th.late n w })).thread t).late n = some w := by
      rw [Group.thread_modThread, if_pos ⟨rfl, ht⟩, kvGet_kvSet_self]
    simpa [Group.hasV, Group.modThread, hp] using h

theorem Group.landOne_hasS {vregs n : Nat} {g : Group} {w : RegWord} : (g.landOne vregs (.sreg n, w)).hasS n w := by
  simp only [Group.landOne]
  cases hp : g.parked with
  | true => simp [Group.hasS, show (g.setS n [w]).parked = true from hp, Group.setS_one_s]
  | false => simp [Group.hasS]

/-- What is asked of every thread's registers and kept-back words alone stays when a thread's other ones change. -/
theorem Group.thread_modThread_of {α : Type} {a : Thread → α} {g : Group} {u t : Nat} {f : Thread → Thread} (h : u = t → a (f (g.thread t)) = a (g.thread t)) :
    a ((g.modThread u f).thread t) = a (g.thread t) := by
  rw [Group.thread_modThread]
  split
  · next e => exact h e.1
  · rfl

theorem Group.landOne_v_ne {vregs t n : Nat} {g : Group} {e : LoadDst × RegWord} (hne : g.parked = false ∨ e.1 ≠ .vreg t n) :
    kvGetD RegWord.zero ((g.landOne vregs e).thread t).v n = kvGetD RegWord.zero (g.thread t).v n := by
  obtain ⟨d, x⟩ := e
  cases d with
  | vreg u m =>
    simp only [Group.landOne]
    split
    · rfl
    · split
      · next hp =>
        refine Group.thread_modThread_of (a := fun th => kvGetD RegWord.zero th.v n) (fun e => ?_)
        rw [Thread.setV_one_v, if_neg]
        rintro rfl
        exact (hne.resolve_left (by simp [hp])) (by rw [e])
      · exact Group.thread_modThread_of (a := fun th => kvGetD RegWord.zero th.v n) (fun _ => rfl)
  | sreg m => simp only [Group.landOne]; split <;> rfl
  | none => rfl

theorem Group.landOne_late_ne {vregs t n : Nat} {g : Group} {e : LoadDst × RegWord} (hp : g.parked = false) (hne : e.1 ≠ .vreg t n) :
    kvGet ((g.landOne vregs e).thread t).late n = kvGet (g.thread t).late n := by
  obtain ⟨d, x⟩ := e
  cases d with
  | vreg u m =>
    simp only [Group.landOne, hp, Bool.false_eq_true, if_false]
    split
    · rfl
    · refine Group.thread_modThread_of (a := fun th => kvGet th.late n) (fun e => kvGet_kvSet_ne _ _ ?_)
      rintro rfl
      exact hne (by rw [e])
  | sreg m => simp [Group.landOne, hp, Group.thread]
  | none => rfl

theorem Group.landOne_hasV_ne {vregs t n : Nat} {g : Group} {w : RegWord} {e : LoadDst × RegWord} (hne : e.1 ≠ .vreg t n) (h : g.hasV t n w) :
    (g.landOne vregs e).hasV t n w := by
  unfold Group.hasV at h ⊢
  rw [(g.landOne_landsTo vregs e).parked, Group.landOne_v_ne (Or.inr hne)]
  cases hp : g.parked with
  | true => simpa [hp] using h
  | false => rw [Group.landOne_late_ne hp hne]; simpa [hp] using h

theorem Group.landOne_s_ne {vregs n : Nat} {g : Group} {e : LoadDst × RegWord} (hne : e.1 ≠ .sreg n) :
    kvGetD RegWord.zero (g.landOne vregs e).s n = kvGetD RegWord.zero g.s n := by
  obtain ⟨d, x⟩ := e
  cases d with
  | vreg u m =>
    simp only [Group.landOne]
    split
    · rfl
    · split <;> rfl
  | sreg m =>
    have hm : m ≠ n := fun h => hne (by rw [h])
    simp only [Group.landOne]
    split
    · rw [Group.setS_one_s, if_neg hm]
    · rfl
  | none => rfl

theorem Group.landOne_lateS_ne {vregs n : Nat} {g : Group} {e : LoadDst × RegWord} (hp : g.parked = false) (hne : e.1 ≠ .sreg n) :
    kvGet (g.landOne vregs e).lateS n = kvGet g.lateS n := by
  obtain ⟨d, x⟩ := e
  cases d with
  | vreg u m =>
    simp only [Group.landOne]
    split
    · rfl
    · split <;> rfl
  | sreg m =>
    have hm : m ≠ n := fun h => hne (by rw [h])
    simp only [Group.landOne, hp, Bool.false_eq_true, if_false]
    exact kvGet_kvSet_ne _ _ hm
  | none => rfl

theorem Group.landOne_hasS_ne {vregs n : Nat} {g : Group} {w : RegWord} {e : LoadDst × RegWord} (hne : e.1 ≠ .sreg n) (h : g.hasS n w) :
    (g.landOne vregs e).hasS n w := by
  unfold Group.hasS at h ⊢
  rw [(g.landOne_landsTo vregs e).parked, Group.landOne_s_ne hne]
  cases hp : g.parked with
  | true => simpa [hp] using h
  | false => rw [Group.landOne_lateS_ne hp hne]; simpa [hp] using h

theorem State.HoldsAt.unpark {s u : State} {k : Nat} {g : Group} (h : s.HoldsAt k u g) : ∃ b, s.HoldsAt k (u.unpark k) { g with parked := b } := by
  unfold State.unpark
  split
  · exact ⟨g.parked, h⟩
  · exact ⟨false, h.modGroup rfl rfl⟩

/-- A load that is ready lands its words, and is outstanding no more. -/
theorem execLoadDataReturn_lands {gk tok : Nat} {s : State} {g : Group} {p : Pending} (hg : kvGet s.groups gk = some g)
    (hf : g.pend.find? (fun p => p.tok == tok) = some p) (hr : p.ready = true) (hd : p.due = false) (ht : p.t ≤ 32) (hc : s.onCore g.team = true) :
    ∃ u b, exec (.loadDataReturn gk tok) s = .next u ∧ s.HoldsAt gk u
      { p.words.foldl (Group.landOne (s.roleOf gk).vregs) g with pend := g.pend.filter (fun p => p.tok ≠ tok), parked := b } := by
  have he : s.group gk = g := by simp [State.group, hg]
  have hh := (State.HoldsAt.same hg).landWords p.words
  have hp := Group.landsTo_foldl (s.roleOf gk).vregs p.words g
  have hm := hh.modGroup (f := fun g => { g with pend := g.pend.filter (fun p => p.tok ≠ tok) }) rfl rfl
  obtain ⟨b, hb⟩ := hm.unpark
  refine ⟨_, b, ?_, hp.pend ▸ hb⟩
  simp [exec, execLoadDataReturn, he, hf, hr, hd, hc, Nat.not_lt.mpr ht]

end Sys2Proof.Machine
end

section
/-!
SUPPORT. A wait that ends, the end of a sweep, a walk, and the entry of a block (01 R58; 03 R98 to R101; 09 R271; 12 R324, R325; 16 R452).
-/
namespace Sys2Proof.Machine
open Sys2Proof Sys2Proof.Claims

/-! ## A wait past its deadline (09 R271) -/

theorem State.HoldsAt.foldl_modThread {s u : State} {k : Nat} {g : Group} (h : s.HoldsAt k u g) {ts : List Nat} (hts : ts.Nodup)
    (f : Nat → Thread → Thread) : s.HoldsAt k (ts.foldl (fun s t => s.modThread k t (f t)) u) (onThreads g ts f) := by
  rw [← Machine.foldl_modThread hts]
  clear hts
  induction ts generalizing u g with
  | nil => exact h
  | cons t ts ih => exact ih (h.modThread t _)

theorem State.takeOutcome_of_original {s : State} {gk : Nat} (h : s.isRerun gk = false) : s.takeOutcome gk = s := by
  simp [State.takeOutcome, h]

theorem State.logWait_of_unchecked {s : State} {gk : Nat} (h : (s.launchOf gk).checked = false) (b : Bool) : s.logWait gk b = s := by
  unfold State.logWait
  split
  · split
    · rfl
    · exact State.logAppend_of_unchecked h _ _ _ _
  · exact State.logAppend_of_unchecked h _ _ _ _

theorem plainRun_iff {s : State} {gk : Nat} : plainRun s gk = true ↔ (s.launchOf gk).checked = false ∧ s.isRerun gk = false := by
  simp [plainRun, State.isRerun]

/-- A group whose wait has ended, its threads ex given their outcome: it runs, past the instruction. -/
def Group.wakes (g : Group) (ex : List Nat) : Group :=
  onThreads { g with run := .running, hbarTok := none } (ex.filter (fun t => (g.thread t).st == .live)) (fun _ th => th.advance 8)

theorem onThreads_live {g : Group} {f : Nat → Thread → Thread} (hf : ∀ t th, (f t th).st = th.st) (ts : List Nat) : (onThreads g ts f).live = g.live :=
  Group.live_of_states rfl (fun t => by
    split
    · exact hf _ _
    · rfl)

theorem Group.wakes_live (g : Group) (ex : List Nat) : (g.wakes ex).live = g.live := onThreads_live (fun _ th => th.advance_st 8) _

/-- The group once a wait has written its predicate for the live threads of ex. -/
def Group.told (g : Group) (w : WaitInfo) (b : Bool) : Group := onThreads g w.ex (fun _ th => if th.st = .live then th.setPred w.pd b else th)

theorem told_st (w : WaitInfo) (b : Bool) (th : Thread) : (if th.st = .live then th.setPred w.pd b else th).st = th.st := by
  unfold Thread.setPred
  split
  · split <;> rfl
  · rfl

theorem Group.told_wakes_threads (g : Group) (w : WaitInfo) (b : Bool) : ((g.told w b).wakes w.ex).threads
    = (onThreads g (w.ex.filter (fun t => (g.thread t).st == .live)) (fun _ th => (th.setPred w.pd b).advance 8)).threads := by
  refine Group.threads_eq (by simp [Group.wakes, Group.told, onThreads]) (fun j _ => ?_)
  have hst : ∀ t, ((g.told w b).thread t).st = (g.thread t).st := fun t => by
    unfold Group.told
    rw [thread_onThreads]
    split
    · exact told_st w b _
    · rfl
  have ht : ({ g.told w b with run := .running, hbarTok := none } : Group).thread j = (g.told w b).thread j := rfl
  show _ = (onThreads g (w.ex.filter (fun t => (g.thread t).st == .live)) (fun _ th => (th.setPred w.pd b).advance 8)).thread j
  unfold Group.wakes
  rw [thread_onThreads, thread_onThreads, ht]
  simp only [hst]
  unfold Group.told
  rw [thread_onThreads]
  by_cases he : j ∈ w.ex <;> by_cases hl : (g.thread j).st = .live <;> by_cases hj : j < g.threads.length <;> simp [he, hl, hj, onThreads]

theorem State.HoldsAt.leaveWait_eq {s u : State} {k : Nat} {g : Group} (h : s.HoldsAt k u g) (hp : g.pend = (s.group k).pend) (hl : g.live ≠ [])
    {ex : List Nat} (hex : ex.Nodup) : u.leaveWait k ex
      = { s.withGroup k ((g.wakes ex).close ⟨g.waitPk, .inherit, false, 7⟩ s.stamp (s.outstanding k)) with stamp := s.stamp + 1 } := by
  have hm := h.modGroup (f := fun g => { g with run := .running, hbarTok := none }) rfl rfl
  have ha := hm.advanceAll 8 (hex.filter (fun t => (g.thread t).st == .live))
  unfold State.leaveWait
  rw [h.group_eq]
  exact ha.complete_eq hp (by rwa [← g.wakes_live ex] at hl) _ rfl

/-- A wait that ends in a run that is not checked: its threads' predicate is written and they pass over it. -/
theorem State.endWait_eq {s : State} {gk : Nat} {g : Group} {w : WaitInfo} (hg : kvGet s.groups gk = some g) (hr : plainRun s gk = true)
    (hw : g.run.info = some w) (hl : g.live ≠ []) (hex : w.ex.Nodup) (b : Bool) :
    s.endWait gk b = { s.withGroup gk (((g.told w b).wakes w.ex).close ⟨g.waitPk, .inherit, false, 7⟩ s.stamp (s.outstanding gk)) with stamp := s.stamp + 1 } := by
  have he : s.group gk = g := by simp [State.group, hg]
  obtain ⟨hc, ho⟩ := plainRun_iff.mp hr
  have hh := (State.HoldsAt.same hg).foldl_modThread hex (fun _ th => if th.st = .live then th.setPred w.pd b else th)
  unfold State.endWait
  rw [he, hw]
  dsimp only
  rw [State.takeOutcome_of_original ho, State.logWait_of_unchecked hc]
  exact hh.leaveWait_eq (by rw [he]; rfl) (by rwa [onThreads_live (fun _ => told_st w b)]) hex

/-- A wait whose deadline is there ends false; one whose deadline is not there goes on. -/
theorem execWaitTimeout_eq {s : State} {gk : Nat} {g : Group} {w : WaitInfo} (hg : kvGet s.groups gk = some g) (hp : (s.team g.team).resid = .placed)
    (hw : g.run.info = some w) (hb : (match g.run with | .barrier _ _ _ _ _ l => l | _ => false) = false) (hq : s.pushFits gk = false) :
    exec (.waitTimeout gk) s = .next (if w.deadline ≠ 0 && w.deadline ≤ s.cycle then s.endWait gk false else s) := by
  have he : s.group gk = g := by simp [State.group, hg]
  simp only [exec, execWaitTimeout, he, hp, ne_eq, not_true_eq_false, if_false]
  cases hrun : g.run with
  | barrier off _ _ _ _ l =>
    rw [hrun] at hb hw
    cases hw
    cases hb
    rfl
  | qpush q _ _ _ d =>
    rw [hrun] at hw
    cases hw
    simp [hq]
  | event | colour | qpop | dqpop => rw [hrun] at hw; cases hw; rfl
  | _ => rw [hrun] at hw; cases hw

/-! ## The end of a sweep, a walk (12 R325; 16 R452) -/

theorem State.waiting_of_none {s : State} {p : Group → Bool} (h : ∀ e ∈ s.groups, p e.2 = false) : s.waiting p = [] := by
  unfold State.waiting
  rw [List.filter_eq_nil_iff.mpr (fun e he => by simp [h e he])]
  rfl

theorem execEpochSweepEnd_eq {core i t : Nat} {s : State} (hf : (s.core core).sweeps.find? (fun e => e.1 == i) = some (i, t)) (ht : t ≤ s.cycle)
    (hw : s.groups.all (fun e => e.2.run ≠ .acquire i) = true) :
    exec (.epochSweepEnd core i) s = .next (s.modCore core (fun k =>
      { k with sweeps := k.sweeps.filter (fun e => e.1 ≠ i)
               l1 := k.l1.filter (fun l => (if i = 0 then l.et else if i = 1 then l.eg else l.ed) ≠ (k.epochs.getD i 0 + 1) % 16) })) := by
  have hn : ∀ (f : Core → Core) (q r : Group → Bool), (s.modCore core f).waiting (fun g => g.run == .acquire i && q g && r g) = [] := fun f q r =>
    State.waiting_of_none (fun e he => by
      have : e.2.run ≠ .acquire i := by simpa using List.all_eq_true.mp hw e he
      simp [this])
  simp only [exec, execEpochSweepEnd, hf, Nat.not_lt.mpr ht, if_false, hn]
  rcases i with _ | _ | i <;> rfl

theorem execTlbWalk_eq {core t va tk : Nat} {tm : Team} {s : State} (hva : va < 2 ^ 57) (hm : (tk, tm) ∈ s.teams) (hc : tm.core = core)
    (ho : tm.resid.onCore = true) (ht : s.tenantOfTeam tk = t) : exec (.tlbWalk core t va) s = .next (translate s core t va 0).2 := by
  have h : s.teams.any (fun e => e.2.core == core && e.2.resid.onCore && s.tenantOfTeam e.1 == t) = true :=
    List.any_eq_true.mpr ⟨(tk, tm), hm, by simp [hc, ho, ht]⟩
  simp only [exec, execTlbWalk, h, hva, decide_true, Bool.and_self, if_true]

/-! ## The entry of a block (03 R100; 01 R58) -/

theorem reloadSpans_of_idle {s : State} (gk core tenant : Nat) {is : List Nat} (h : ∀ i ∈ is, ((s.group gk).loops.getD i LoopReg.idle).active = false) :
    reloadSpans gk core tenant is s = (.ok (), s) := by
  induction is with
  | nil => rfl
  | cons i is ih =>
    have hi := h i List.mem_cons_self
    rw [reloadSpans, hi]
    exact ih (fun j hj => h j (List.mem_cons_of_mem _ hj))

theorem Group.loopAt_of_idle {g : Group} (h : ∀ l ∈ g.loops, l.active = false) (a : Nat) : g.loopAt a = none :=
  List.find?_eq_none.mpr (fun l hl => by simp [h l hl])

theorem State.enterAt_of_idle {s : State} {gk blk : Nat} (h : ∀ l ∈ (s.group gk).loops, l.active = false) (core tenant pc : Nat) :
    s.enterAt gk core tenant blk pc = ((fetchBlock (s.group gk).bufWord s core tenant blk).1.map CBlock.ent, (fetchBlock (s.group gk).bufWord s core tenant blk).2) := by
  simp only [State.enterAt, Group.loopAt_of_idle h, Bool.false_and, Bool.false_eq_true, if_false]
  rcases fetchBlock (s.group gk).bufWord s core tenant blk with ⟨_ | _, v⟩ <;> rfl

theorem idle_of_all {l : List LoopReg} (hn : l.length = 4) (h : (List.range 4).all (fun i => !(l.getD i LoopReg.idle).active) = true) :
    (∀ i ∈ [0, 1, 2, 3], (l.getD i LoopReg.idle).active = false) ∧ ∀ r ∈ l, r.active = false := by
  have hi : ∀ i < 4, (l.getD i LoopReg.idle).active = false := by simpa using h
  refine ⟨fun i hm => hi i (by simp at hm; omega), fun r hr => ?_⟩
  obtain ⟨i, hl, rfl⟩ := List.mem_iff_getElem.mp hr
  simpa [List.getD_eq_getElem?_getD, hl] using hi i (hn ▸ hl)

/-- With no loop active, the block of the issuing set is fetched, checked and entered. -/
theorem execBlockFetch_eq {s : State} {g : Group} (hg : kvGet s.groups s.cur = some g) (hi : g.issuing ≠ []) (hn : g.loops.length = 4)
    (hl : (List.range 4).all (fun i => !(g.loops.getD i LoopReg.idle).active) = true) :
    let is := s.issue ⟨false, .inherit, false, 7⟩ 8
    let r := fetchBlock g.bufWord s (s.coreOf s.cur) (s.tenantOf s.cur) is.blk
    exec .blockFetch s = .next (match r.1 with
      | .error e => r.2.takeTrap s.cur (blockTrap is e)
      | .ok b => r.2.enterBlock s.cur g.issuing b.ent) := by
  have he : s.group s.cur = g := by simp [State.group, hg]
  obtain ⟨hr, ha⟩ := idle_of_all hn hl
  rw [← he] at hr ha hi
  have his : (s.issue ⟨false, .inherit, false, 7⟩ 8).issuing = (s.group s.cur).issuing := rfl
  simp only [exec, execBlockFetch, State.inGroup, hg, Option.isSome_some, if_true, List.isEmpty_eq_false_iff.mpr hi, Bool.false_eq_true, if_false,
    reloadSpans_of_idle s.cur (s.coreOf s.cur) (s.tenantOf s.cur) hr, State.enterAt_of_idle ha, his, ← he]
  rcases fetchBlock (s.group s.cur).bufWord s (s.coreOf s.cur) (s.tenantOf s.cur) (s.issue ⟨false, .inherit, false, 7⟩ 8).blk with ⟨_ | _, v⟩ <;> rfl

/-- A block that is entered is the block of each thread that enters it, and no uniform register changes. -/
theorem State.enterBlock_ent {v : State} {gk : Nat} {g : Group} (hg : kvGet v.groups gk = some g) {ts : List Nat} (hts : ts.Nodup)
    (hl : ∀ t ∈ ts, t < g.threads.length) (e : Entered) :
    (v.enterBlock gk ts e).mem = v.mem ∧ ((v.enterBlock gk ts e).group gk).s = g.s
      ∧ ∀ t ∈ ts, (((v.enterBlock gk ts e).group gk).thread t).ent = some e := by
  have he : v.group gk = g := by simp [State.group, hg]
  let f : Nat → Thread → Thread := fun _ th => { th with ent := some e, entAt := if th.ent.isNone then g.entries + 1 else th.entAt }
  have hh : ∃ g', v.HoldsAt gk (v.enterBlock gk ts e) (onThreads g' ts f) ∧ g'.threads = g.threads ∧ g'.s = g.s := by
    unfold State.enterBlock
    rw [he]
    split
    · exact ⟨{ g with entries := g.entries + 1 }, ((State.HoldsAt.same hg).modGroup rfl rfl).foldl_modThread hts f, rfl, rfl⟩
    · exact ⟨g, (State.HoldsAt.same hg).foldl_modThread hts f, rfl, rfl⟩
  obtain ⟨g', hh, ht, hs⟩ := hh
  refine ⟨by rw [hh.frame], by rw [hh.group_eq]; exact hs, fun t hm => ?_⟩
  rw [hh.group_eq, thread_onThreads, if_pos ⟨hm, ht ▸ hl t hm⟩]

end Sys2Proof.Machine
end

section
/-!
SUPPORT. A scoreboard mismatch and a colour's flip: what they leave of the machine (09 R271; 15 R403).
-/
namespace Sys2Proof.Machine
open Sys2Proof Sys2Proof.Claims

/-- What every step of a fold keeps, the fold keeps. -/
theorem foldl_same {α β : Type} (a : State → β) {f : State → α → State} (hf : ∀ s x, a (f s x) = a s) (l : List α) (s : State) :
    a (l.foldl f s) = a s := by
  induction l generalizing s with
  | nil => rfl
  | cons x l ih => exact (ih _).trans (hf s x)

/-! ## A scoreboard mismatch (15 R403) -/

/-- What a charge against a core leaves as it is: the groups, the memory, the records and the counts. -/
def State.books (s : State) : List (Nat × Group) × List Host.Cell × List ErrRec × List (Nat × Nat) := (s.groups, s.mem, s.recQ, s.counts)

@[simp] theorem State.modCore_books (s : State) (c : Nat) (f : Core → Core) : (s.modCore c f).books = s.books := rfl
@[simp] theorem State.modCluster_books (s : State) (c : Nat) (f : Cluster → Cluster) : (s.modCluster c f).books = s.books := rfl
@[simp] theorem State.storeWrite_books (s : State) (f : Bank → Bank) : (s.storeWrite f).books = s.books := rfl

@[simp] theorem State.preemptCore_books (s : State) (c : Nat) : (s.preemptCore c).books = s.books := foldl_same State.books (fun _ _ => by rfl) _ s

@[simp] theorem State.redFlushAll_books (s : State) (c : Nat) : (s.redFlushAll c).books = s.books := foldl_same State.books (fun _ _ => by rfl) _ s

theorem State.collarCore_books (s : State) (c : Nat) : (s.collarCore c).books = s.books := by
  have hretire : ∀ (s : State) (k : Nat),
      (if k = c || (s.core k).collar then s else (s.preemptCore k).modCore k (fun k => { k with retired := true })).books = s.books := fun s k => by
    split
    · rfl
    · exact s.preemptCore_books k
  unfold State.collarCore
  dsimp only
  split
  · rw [foldl_same State.books hretire]
    simp
  · simp

theorem State.charge_books (s : State) (c n : Nat) : (s.charge c n).books = s.books := by
  unfold State.charge
  dsimp only
  split
  · exact State.collarCore_books _ c
  · rfl

theorem State.raise_books (s : State) (tk : Nat) (r : ErrRec) : (s.raise (some tk) r).books = (s.groups, s.mem, s.recQ ++ [r], s.counts) := rfl

/-- An error that the core has corrected is counted and recorded, and no group is changed. -/
theorem State.noteCorrected_books (s : State) (gk t : Nat) :
    ∃ r, (s.noteCorrected gk t).books = (s.groups, s.mem, s.recQ ++ [r], kvSet s.counts 0 (kvGetD 0 s.counts 0 + 1)) := by
  obtain ⟨hg, hm, hr, hc⟩ : (s.charge (s.coreOf gk) 4).groups = s.groups ∧ (s.charge (s.coreOf gk) 4).mem = s.mem
      ∧ (s.charge (s.coreOf gk) 4).recQ = s.recQ ∧ (s.charge (s.coreOf gk) 4).counts = s.counts := by
    simpa [State.books] using s.charge_books (s.coreOf gk) 4
  refine ⟨{ ErrRec.ofThread ((s.charge (s.coreOf gk) 4).count 0) gk t recCORRECTED with lane := s.losingLane gk t }, ?_⟩
  unfold State.noteCorrected State.raiseThread
  rw [State.raise_books]
  simp only [State.count, hg, hm, hr, hc]

theorem execScoreboardMismatch_books {gk : Nat} {s : State} (hg : (kvGet s.groups gk).isSome = true) (hc : s.onCore (s.group gk).team = true) :
    ∃ u, exec (.scoreboardMismatch gk) s = .next u ∧ u.groups = s.groups ∧ u.mem = s.mem ∧ u.recQ.length = s.recQ.length + 1
      ∧ kvGetD 0 u.counts 8 = kvGetD 0 s.counts 8 + 1 := by
  obtain ⟨r, hr⟩ := s.noteCorrected_books gk 32
  obtain ⟨hgr, hm, hq, hn⟩ : (s.noteCorrected gk 32).groups = s.groups ∧ (s.noteCorrected gk 32).mem = s.mem
      ∧ (s.noteCorrected gk 32).recQ = s.recQ ++ [r] ∧ (s.noteCorrected gk 32).counts = kvSet s.counts 0 (kvGetD 0 s.counts 0 + 1) := by
    simpa [State.books] using hr
  refine ⟨(s.noteCorrected gk 32).count 8, by simp [exec, execScoreboardMismatch, hg, hc], hgr, hm, by simp [State.count, hq], ?_⟩
  simp [State.count, hn, kvGetD, kvGet_kvSet]

/-! ## A colour's flip (09 R271) -/

/-- What the end of a wait leaves as it is: the memory and the colours of the gangs. -/
def State.memGangs (s : State) : List Host.Cell × List (Nat × Gang) := (s.mem, s.gangs)

section
variable (s : State) (gk : Nat)

theorem State.seesTeam_memGangs : (s.seesTeam gk).memGangs = s.memGangs := by
  unfold State.seesTeam
  dsimp only
  split <;> rfl

theorem State.acquireAt_memGangs (i : Nat) : (s.acquireAt gk i).memGangs = s.memGangs := by
  unfold State.acquireAt
  dsimp only
  split <;> rfl

theorem State.acquire_memGangs (sc : Scope) : (s.acquire gk sc).memGangs = s.memGangs := by
  unfold State.acquire
  split
  · exact (State.acquireAt_memGangs _ gk _).trans (s.seesTeam_memGangs gk)
  · rfl

theorem State.regqTry_memGangs (tk : Nat) : (s.regqTry tk).memGangs = s.memGangs := by
  unfold State.regqTry
  split
  · rfl
  · split
    · rfl
    · refine Eq.trans (foldl_same State.memGangs (fun s gk => ?_) _ _) rfl
      dsimp only
      split
      · split
        · exact State.acquire_memGangs _ gk .team
        · rfl
      · split
        · exact State.acquire_memGangs _ gk .team
        · rfl

theorem State.groupLeft_memGangs : (s.groupLeft gk).memGangs = s.memGangs := by
  unfold State.groupLeft
  split
  · exact State.regqTry_memGangs _ _
  · rfl

theorem State.complete_memGangs (h : Hdr) (is : Issue) : (s.complete h is).memGangs = s.memGangs := State.groupLeft_memGangs _ is.key

theorem State.leaveWait_memGangs (ex : List Nat) : (s.leaveWait gk ex).memGangs = s.memGangs :=
  (State.complete_memGangs _ _ _).trans (foldl_same State.memGangs (fun _ _ => by rfl) _ _)

theorem State.raise_memGangs (tk : Option Nat) (r : ErrRec) : (s.raise tk r).memGangs = s.memGangs := by
  unfold State.raise
  cases tk <;> rfl

theorem State.logAppend_memGangs (kind tid value : Nat) (payload : List Byte) : (s.logAppend gk kind tid value payload).memGangs = s.memGangs := by
  unfold State.logAppend
  dsimp only
  split
  · rfl
  · split
    · exact State.raise_memGangs _ _ _
    · rfl

theorem State.logWait_memGangs (b : Bool) : (s.logWait gk b).memGangs = s.memGangs := by
  unfold State.logWait
  split
  · split
    · rfl
    · exact s.logAppend_memGangs gk _ _ _ _
  · exact s.logAppend_memGangs gk _ _ _ _

theorem State.logNext_memGangs {kinds : List Nat} {tid : Nat} {r : LogRec} {u : State} (h : s.logNext gk kinds tid = some (r, u)) :
    u.memGangs = s.memGangs := by
  unfold State.logNext at h
  dsimp only at h
  split at h
  · cases h
  · split at h
    · cases h
    · split at h
      · cases h; rfl
      · cases h

theorem State.takeOutcome_memGangs : (s.takeOutcome gk).memGangs = s.memGangs := by
  unfold State.takeOutcome
  split
  · split
    · next h => exact s.logNext_memGangs gk h
    · rfl
  · rfl

theorem State.endWait_memGangs (b : Bool) : (s.endWait gk b).memGangs = s.memGangs := by
  unfold State.endWait
  split
  · rfl
  · calc _ = _ := State.leaveWait_memGangs _ gk _
      _ = ((s.takeOutcome gk).logWait gk b).memGangs := foldl_same State.memGangs (fun _ _ => by rfl) _ _
      _ = (s.takeOutcome gk).memGangs := State.logWait_memGangs _ gk b
      _ = s.memGangs := s.takeOutcome_memGangs gk

theorem State.endTrue_memGangs : (s.endTrue gk).memGangs = s.memGangs := by
  unfold State.endTrue
  dsimp only
  refine (State.endWait_memGangs _ gk true).trans ?_
  split <;> rfl

theorem State.flipAt_memGangs (k : Nat) : (s.flipAt k gk).memGangs = s.memGangs := by
  unfold State.flipAt
  split
  · split
    · rfl
    · split
      · exact (State.acquire_memGangs _ gk .gang).trans (s.endTrue_memGangs gk)
      · rfl
  · rfl

theorem State.wakeTeam_memGangs (tk : Nat) : (s.wakeTeam tk).memGangs = s.memGangs :=
  foldl_same State.memGangs (fun s gk => by
    unfold State.wakeGroup
    split
    · exact s.endWait_memGangs gk true
    · rfl) _ s

end

theorem State.colourSeen_memGangs {s : State} {gang k t : Nat} {ts : List Nat} (hf : (s.colour gang k).flips = t :: ts) :
    (s.colourSeen gang k).memGangs = (s.setColour gang k { s.colour gang k with seen := !(s.colour gang k).seen, flips := ts }).memGangs := by
  unfold State.colourSeen
  dsimp only
  rw [hf]
  exact (foldl_same State.memGangs State.wakeTeam_memGangs _ _).trans (foldl_same State.memGangs (fun s gk => s.flipAt_memGangs gk k) _ _)

/-- A colour of a gang reads as it has been set. -/
theorem State.colour_setColour {s : State} {gang k : Nat} (hk : k < (s.gang gang).colours.length) (c : Colour) :
    (s.setColour gang k c).colour gang k = c := by
  unfold State.gang at hk
  cases hg : kvGet s.gangs gang with
  | none => simp [hg] at hk
  | some g =>
    simp only [hg, Option.getD_some] at hk
    simp [State.colour, State.gang, State.setColour, State.modGang, kvGet_kvMod_self, hg, hk]

theorem execColourFlip_seen {gang k t : Nat} {ts : List Nat} {s : State} (hf : (s.colour gang k).flips = t :: ts) (ht : t ≤ s.cycle)
    (hk : k < (s.gang gang).colours.length) :
    ∃ u, exec (.colourFlip gang k) s = .next u ∧ u.mem = s.mem
      ∧ u.colour gang k = { s.colour gang k with seen := !(s.colour gang k).seen, flips := ts } := by
  have hs := State.colourSeen_memGangs hf
  have hm : (s.colourSeen gang k).mem = s.mem := congrArg Prod.fst hs
  have hg := congrArg Prod.snd hs
  refine ⟨s.colourSeen gang k, by simp [exec, execColourFlip, hf, ht], hm, ?_⟩
  refine Eq.trans ?_ (State.colour_setColour hk _)
  unfold State.colour State.gang
  exact congrArg (fun m : List (Nat × Gang) => ((kvGet m gang).getD ⟨0, [], 0, []⟩).colours.getD k Colour.reset) hg

end Sys2Proof.Machine
end

section
/-!
O42: the events of a core, each by its lemma.
-/
namespace Sys2Proof.Machine
open Sys2Proof Sys2Proof.Claims

/-- The fetch of a block leaves the threads of the group. -/
theorem kvGet_fetchBlock {buf : Nat → Option DWord} {s v : State} {core tenant a k : Nat} {r : Except FetchErr CBlock}
    (h : fetchBlock buf s core tenant a = (r, v)) {g : Group} (hg : kvGet s.groups k = some g) :
    ∃ g', kvGet v.groups k = some g' ∧ g'.threads = g.threads := by
  have hs : (kvGet v.groups k).map Group.still = some g.still := by
    have := congrFun (fetchBlock_still buf s core tenant a) k
    rw [h] at this
    rw [show (kvGet v.groups k).map Group.still = (kvGet s.groups k).map Group.still from this, hg]
    rfl
  obtain ⟨g', hg', he⟩ := Option.map_eq_some_iff.mp hs
  exact ⟨g', hg', (congrArg Group.threads he : g'.still.threads = g.still.threads)⟩

/-- The words of a load land where the group's park says, and nowhere else (08 R229; 01 R45). -/
theorem execLoadDataReturn_spec {gk tok : Nat} {s : State} {g : Group} {p : Pending} (hg : kvGet s.groups gk = some g)
    (hf : g.pend.find? (fun p => p.tok == tok) = some p) (hr : p.ready = true) (hd : p.due = false) (ht : p.t ≤ 32) (hc : s.onCore g.team = true)
    (hn : (p.words.map (·.1)).Nodup) :
    ∃ u, exec (.loadDataReturn gk tok) s = .next u ∧ u.mem = s.mem ∧ (u.group gk).pend = g.pend.filter (fun p => p.tok ≠ tok)
      ∧ (∀ t n w, (LoadDst.vreg t n, w) ∈ p.words → t < g.threads.length → (g.thread t).st = .live → n < (s.roleOf gk).vregs →
          if g.parked then kvGetD RegWord.zero ((u.group gk).thread t).v n = w else kvGet ((u.group gk).thread t).late n = some w)
      ∧ (∀ n w, (LoadDst.sreg n, w) ∈ p.words →
          if g.parked then kvGetD RegWord.zero (u.group gk).s n = w else kvGet (u.group gk).lateS n = some w)
      ∧ (∀ t n, (g.parked = false ∨ LoadDst.vreg t n ∉ p.words.map (·.1)) → kvGetD RegWord.zero ((u.group gk).thread t).v n = kvGetD RegWord.zero (g.thread t).v n)
      ∧ (∀ k, k ≠ gk → kvGet u.groups k = kvGet s.groups k) := by
  obtain ⟨u, b, hu, hh⟩ := execLoadDataReturn_lands hg hf hr hd ht hc
  have hp := (Group.landsTo_foldl (s.roleOf gk).vregs p.words g).parked
  refine ⟨u, hu, by rw [hh.frame], by rw [hh.group_eq], fun t n w hw htl hst hv => ?_, fun n w hw => ?_, fun t n hne => ?_, fun k hk => hh.kvGet_ne hk⟩
  · have h := Group.landWords_lands (vregs := (s.roleOf gk).vregs) (g := g) (P := Group.hasV t n w) hn hw
      (fun g' hl => Group.landOne_hasV (hl.length ▸ htl) ((hl.st t).trans hst) hv) (fun g' _ e' he => Group.landOne_hasV_ne he)
    unfold Group.hasV at h
    rw [hp] at h
    rw [hh.group_eq]
    exact h
  · have h := Group.landWords_lands (vregs := (s.roleOf gk).vregs) (g := g) (P := Group.hasS n w) hn hw
      (fun g' _ => Group.landOne_hasS) (fun g' _ e' he => Group.landOne_hasS_ne he)
    unfold Group.hasS at h
    rw [hp] at h
    rw [hh.group_eq]
    exact h
  · rw [hh.group_eq]
    exact Group.landWords_keeps (P := fun g' => kvGetD RegWord.zero (g'.thread t).v n = kvGetD RegWord.zero (g.thread t).v n)
      (fun g' hl e he h => (Group.landOne_v_ne (hne.imp hl.parked.trans (fun hm heq => hm (heq ▸ List.mem_map.mpr ⟨e, he, rfl⟩)))).trans h) rfl

/-- Settles O42: one lemma for each event, a frame of the state that each keeps. -/
theorem Settled.coreEvents : Obligations.CoreEvents := by
  unfold Obligations.CoreEvents
  refine ⟨?loads, ?acks, ?banks, ?sleeps, ?waits, ?sweeps, ?colours, ?resumes, ?blocks, ?mismatches, ?walks⟩
  case loads => exact fun gk tok s g p hg hf hr hd ht hc hn => execLoadDataReturn_spec hg hf hr hd ht hc hn
  case acks => exact fun gk tok s => rfl
  case banks =>
    intro gk c s hrun
    exact ⟨fun h => by simp [exec, execScratchRequestServe, hrun, h], fun h => by simp [exec, execScratchRequestServe, hrun, Nat.not_le.mpr h]⟩
  case sleeps =>
    intro gk d s hrun
    exact ⟨fun h => by simp [exec, execSleepExpiry, hrun, h], fun h => by simp [exec, execSleepExpiry, hrun, Nat.not_le.mpr h]⟩
  case waits =>
    intro gk s g w hg hp hr hw hb hq
    have he := execWaitTimeout_eq hg hp hw hb hq
    refine ⟨fun h0 hd hl hex => ⟨s.endWait gk false, by simpa [h0, hd] using he, ?_⟩, fun hd => by simpa [Nat.not_le.mpr hd] using he⟩
    rw [State.endWait_eq hg hr hw hl hex]
    have hgr : ∀ g', ({ s.withGroup gk g' with stamp := s.stamp + 1 } : State).group gk = g' := fun g' => s.withGroup_group gk g'
    rw [hgr]
    refine ⟨rfl, Group.close_run _ _ _ _, ?_⟩
    rw [Group.close_threads, landed_threads, landed_threads, Group.told_wakes_threads]
  case sweeps => exact fun core i t s hf ht hw => execEpochSweepEnd_eq hf ht hw
  case colours => exact fun gang k t ts s hf ht hk => execColourFlip_seen hf ht hk
  case resumes =>
    intro fn gk tag s hrun hopen hfn
    rcases hfn with rfl | rfl <;> simp [exec, execHostDebugResume, hrun, hopen]
  case blocks =>
    intro s g hg hi hl hn
    have he := execBlockFetch_eq hg hi hn hl
    refine ⟨fun b v hv => ?_, fun e v hv => ?_⟩
    · obtain ⟨g', hg', ht⟩ := kvGet_fetchBlock hv hg
      obtain ⟨hm, hs, hent⟩ := State.enterBlock_ent hg' (g.issuing_sublist.nodup g.live_nodup)
        (fun t ht' => ht ▸ (Group.mem_live.mp (g.issuing_sublist.subset ht')).1) b.ent
      exact ⟨_, by rw [he, hv], hm, hent, by rw [hs]; simp [State.group, hg']⟩
    · rw [he, hv]
  case mismatches => exact fun gk s hg hc => execScoreboardMismatch_books hg hc
  case walks => exact fun core t va tk tm s hva hm hc ho ht => execTlbWalk_eq hva hm hc ho ht

end Sys2Proof.Machine
end

section
/-!
SUPPORT. The words of a well-formed instruction decode to it (03 R104 to R119), and their number is its size (R114).
-/
namespace Sys2Proof
open Sys2Proof.Machine Sys2Proof.Claims

/-! ## Numbers of a range -/

/-- A property of 0 and of the n numbers after it. -/
def UpTo (P : Nat → Prop) : Nat → Prop
  | 0 => P 0
  | n + 1 => UpTo P n ∧ P (n + 1)

theorem of_upTo {P : Nat → Prop} {n k : Nat} (h : UpTo P n) (hk : k ≤ n) : P k := by
  induction n with
  | zero => exact Nat.le_zero.mp hk ▸ h
  | succ n ih =>
    obtain ⟨hlow, htop⟩ := h
    rcases Nat.le_succ_iff.mp hk with hk | rfl
    · exact ih hlow hk
    · exact htop

/-- A property of the numbers of a range holds when it holds of each. -/
theorem of_range {P : Nat → Prop} {lo hi n : Nat} (h₀ : lo ≤ n) (h₁ : n ≤ hi) (h : UpTo (fun k => P (lo + k)) (hi - lo)) : P n :=
  have hk : P (lo + (n - lo)) := of_upTo (P := fun k => P (lo + k)) h (Nat.sub_le_sub_right h₁ lo)
  Nat.add_sub_of_le h₀ ▸ hk

/-! ## The size of a word (03 R114) -/

/-- The ranges of assigned opcodes (03 Table 3.10). -/
theorem opAssigned_iff {op : Nat} : opAssigned op = true ↔ (0x001 ≤ op ∧ op ≤ 0x007) ∨ (0x020 ≤ op ∧ op ≤ 0x026) ∨ (0x040 ≤ op ∧ op ≤ 0x059)
    ∨ (0x080 ≤ op ∧ op ≤ 0x086) ∨ (0x0A0 ≤ op ∧ op ≤ 0x0A1) ∨ (0x0C0 ≤ op ∧ op ≤ 0x0DC) ∨ (0x100 ≤ op ∧ op ≤ 0x11F) ∨ (0x140 ≤ op ∧ op ≤ 0x14B)
    ∨ (0x160 ≤ op ∧ op ≤ 0x16A) ∨ (0x170 ≤ op ∧ op ≤ 0x175) ∨ (0x178 ≤ op ∧ op ≤ 0x17A) ∨ (0x1B0 ≤ op ∧ op ≤ 0x1C7) ∨ (0x1D0 ≤ op ∧ op ≤ 0x1DC)
    ∨ (0x1F0 ≤ op ∧ op ≤ 0x1FC) := by
  simp only [opAssigned, Bool.or_eq_true, Bool.and_eq_true, decide_eq_true_eq, or_assoc]

/-- The size that the opcode gives, outside of format FM. -/
def fxSize (op : Nat) : Nat := if opHasFx op then 16 else 8

/-- The FX word of the opcodes marked +FX (03 Table 3.10). -/
def fxTail (op : Nat) (fx : DWord) : List DWord := if opHasFx op then [fx] else []

/-- Where the opcode alone gives the size: every format but FM. -/
theorem wordSize_of_not_fm {n op : Nat} (ho : opOf n = op) (hf : opForm op ≠ .fm) : wordSize n = fxSize op := by
  unfold wordSize fxSize
  simp [ho, hf]

/-- The opcodes of format FM: none is marked +FX, and XF gives the size. -/
theorem wordSize_of_fm {n op : Nat} {e : MemExt} (ho : opOf n = op) (ha : opAssigned op = true) (hf : opForm op = .fm) (hx : opHasFx op = false)
    (he : n % 8 = extCode e) : wordSize n = extSize e := by
  unfold wordSize
  simp only [ho, ha, hf, hx, he]
  cases e with
  | rsv k =>
    have h₁ : ¬ 3 + k.val = 1 := by omega
    have h₂ : ¬ 3 + k.val = 2 := by omega
    simp [extCode, extSize, h₁, h₂]
  | _ => rfl

theorem extSize_eq (e : MemExt) : extSize e = 8 * ((extWords e).length + 1) := by cases e <;> rfl

/-! ## The words of an instruction decode to it -/

section
variable {op : Nat} {i : Instr} {w fx : DWord} {ws tail : List DWord}

/-- A word of a format other than FM whose fields read back, with its FX word where the opcode has one. -/
theorem reads_word {α : Type} {fields : Nat → α} {f : α} {n : Nat} (he : BitVec.ofNat 64 n :: tail = w :: ws)
    (hr : fields n = f ∧ opOf n = op ∧ n < 2 ^ 64) (hf : opForm op ≠ .fm) (ht : tail.length = if opHasFx op then 1 else 0)
    (hs : ∀ n, fields n = f → spellAt op n (tail.headD fx) = i) (hi : i.wellFormed = true) :
    decode w (ws.headD fx) = .ok i ∧ wordSize w.toNat = 8 * (ws.length + 1) := by
  obtain ⟨hread, ho, hn⟩ := hr
  obtain ⟨rfl, rfl⟩ := List.cons.inj he
  refine ⟨decode_of hn ho (hs n hread) hi, ?_⟩
  rw [toNat_word hn, wordSize_of_not_fm ho hf, ht]
  unfold fxSize
  split <;> rfl

/-- A word of format FM, with the word that its XF selects. -/
theorem reads_fm {f : FM} (he : BitVec.ofNat 64 (fmCode op f) :: extWords f.ext = w :: ws)
    (hop : op < 512 ∧ opAssigned op = true ∧ opForm op = .fm ∧ opHasFx op = false) (hs : ∀ n fx, fmOf n fx = f → spellAt op n fx = i)
    (hi : i.wellFormed = true) : decode w (ws.headD fx) = .ok i ∧ wordSize w.toNat = 8 * (ws.length + 1) := by
  obtain ⟨hlt, ha, hfm, hx⟩ := hop
  obtain ⟨hf, ho, hn, hxf⟩ := fm_read hlt f fx
  obtain ⟨rfl, rfl⟩ := List.cons.inj he
  refine ⟨decode_of hn ho (hs _ _ hf) hi, ?_⟩
  rw [toNat_word hn, wordSize_of_fm ho ha hfm hx hxf, extSize_eq]

/-- No unassigned opcode is marked +FX. -/
theorem opHasFx_of_unassigned {op : Nat} (h : opAssigned op = false) : opHasFx op = false := by
  refine Bool.eq_false_iff.mpr (fun hx => ?_)
  have hr : opAssigned op = true := opAssigned_iff.mpr (by
    simp only [opHasFx, List.contains_iff_mem, List.mem_cons, List.not_mem_nil, or_false] at hx
    omega)
  rw [h] at hr
  cases hr

theorem wordSize_of_unassigned {n op : Nat} (ho : opOf n = op) (h : opAssigned op = false) : wordSize n = 8 := by
  simp [wordSize, ho, h, opHasFx_of_unassigned h]

/-- A word of an unassigned opcode is kept whole: its header, its opcode and the 48 bits below. -/
theorem reads_unassigned {h : Hdr} {op : Fin 512} {low : BitVec 48} (he : [BitVec.ofNat 64 (hdrCode h + op.val * 2 ^ 48 + low.toNat)] = w :: ws)
    (hi : (Instr.unassignedOpcode h op low).wellFormed = true) :
    decode w (ws.headD fx) = .ok (.unassignedOpcode h op low) ∧ wordSize w.toNat = 8 * (ws.length + 1) := by
  have ha : opAssigned op.val = false := by simpa [Instr.wellFormed, okUnassigned] using hi
  have hop := op.isLt
  have hlow := low.isLt
  have k : hdrCode h + op.val * 2 ^ 48 + low.toNat
      = topCode h op.val (low.toNat / 2 ^ 38) (low.toNat / 2 ^ 28 % 2 ^ 10) (low.toNat / 2 ^ 24 % 2 ^ 4) (low.toNat % 2 ^ 24) := by
    unfold topCode; omega
  have hmod : (hdrCode h + op.val * 2 ^ 48 + low.toNat) % 2 ^ 48 = low.toNat := by unfold hdrCode; omega
  obtain ⟨hh, ho, -, -, -, -, hn⟩ := top_fields h (op := op.val) (d := low.toNat / 2 ^ 38) (a := low.toNat / 2 ^ 28 % 2 ^ 10)
    (pa := low.toNat / 2 ^ 24 % 2 ^ 4) (r := low.toNat % 2 ^ 24) hop (by omega) (by omega) (by omega) (by omega)
  rw [← k] at hh ho hn
  generalize hdrCode h + op.val * 2 ^ 48 + low.toNat = n at *
  obtain ⟨rfl, rfl⟩ := List.cons.inj he
  refine ⟨decode_of hn ho ?_ hi, ?_⟩
  · have e₁ : (⟨op.val % 512, Nat.mod_lt _ (by decide)⟩ : Fin 512) = op := Fin.ext (Nat.mod_eq_of_lt hop)
    have e₂ : BitVec.ofNat 48 n = low := BitVec.eq_of_toNat_eq (by rw [BitVec.toNat_ofNat, hmod])
    simp only [spellAt, ha, Bool.not_false, if_true, hh, e₁, e₂]
  · rw [toNat_word hn, wordSize_of_unassigned ho ha]
    rfl

end

theorem width_of_okCctl {k : Nat} {f : FM} (h : okCctl k f = true) : f.width.val = k := by simp_all [okCctl]

theorem eq_int_of_constOk {n : Fin 32} {o : Opnd} (h : constOk n.val n.val o = true) : o = .int n := by
  cases o with
  | int m =>
    simp only [constOk, Bool.and_eq_true, decide_eq_true_eq] at h
    exact congrArg Opnd.int (Fin.ext (by omega))
  | _ => cases h

/-- C of AZR with and without release (10 Table 10.2): 15 tells them apart. -/
theorem eq_int_of_okAzrRelease {f : F3} (h : okAzrRelease f = true) : f.c = .int 15 :=
  eq_int_of_constOk (n := 15) (Bool.and_eq_true_iff.mp h).2

theorem ne_int_of_okAzr {f : F3} (h : okAzr f = true) : f.c ≠ .int 15 := fun hc => by
  have hk : (constOk 0 0 f.c || constOk 8 8 f.c) = true := (Bool.and_eq_true_iff.mp h).2
  rw [hc] at hk
  exact absurd hk (by decide)

/-- The words of a well-formed instruction decode to it, and their number is its size: by the format of each opcode; where SUB, the width
or C tells the instructions of an opcode apart, its value is one of those that their entries list. -/
theorem words_decode (i : Instr) (w fx : DWord) (ws : List DWord) (hi : i.wellFormed = true) (he : encode i = w :: ws) :
    decode w (ws.headD fx) = .ok i ∧ wordSize w.toNat = 8 * (ws.length + 1) := by
  cases i
  -- Format FI.
  case bra f | call f | trap f | bkpt f | waitev f | movi f | movh f | csrr f | csrw f =>
    exact reads_word he (fi_read (by decide) _) (by decide) rfl (fun _ h => by subst h; rfl) hi
  case loop f fx | loopw f fx => exact reads_word he (fi_read (by decide) _) (by decide) rfl (fun _ h => by subst h; rfl) hi
  -- Format F2.
  case nop f | brx f | callx f | ret f | endl f | exit f | yield f | iadd f | isub f | imul f | imulh f | imin f | imax f | iabs f | andB f | orB f
      | xorB f | andn f | shl f | shr f | sar f | rol f | popc f | clz f | ctz f | brev f | bfx f | lea f | icmp f | sel f | cvti f | fadd f | fsub f
      | fmul f | fmin f | fmax f | fcmp f | fclass f | fcvt f | frnd f | fscl f | frcp f | frsq f | fsqrt f | fdivs f | fex2 f | flg2 f | fsin f
      | fcos f | dadd f | dsub f | dmul f | dcmp f | dcvt f | hadd2 f | hmul2 f | hmax2 f | cadd f | cmul f | ccnj f | plop f | pcmp f | psel f
      | vote f | ballot f | matchT f | shfl f | scani f | scanx f | redg f | rank f | sigacc f | heart f | clkr f | regq f | launch f | pcls f | errr f
      | sleep f | kill f =>
    exact reads_word he (f2_read (by decide) _) (by decide) rfl (fun _ h => by subst h; rfl) hi
  -- Format F2, by SUB.
  case mov f | pick f | pmovSave f | tretResume f | flagsGet f =>
    have hsub : f.sub.val = 0 := by simp_all [Instr.wellFormed, okMov, okInt1, okPick, okPmovSave, okTret, okFlags]
    exact reads_word he (f2_read (by decide) _) (by decide) rfl (fun _ h => by subst h; simp [spellAt, opAssigned, asmInt, asmCross, asmSystem, hsub]) hi
  case movToIndex f | pickFirst f | pmovLoad f | tretSkip f | flagsClr f =>
    have hsub : f.sub.val = 1 := by simp_all [Instr.wellFormed, okMovToIndex, okPickFirst, okPmovLoad, okTret, okFlags]
    exact reads_word he (f2_read (by decide) _) (by decide) rfl (fun _ h => by subst h; simp [spellAt, opAssigned, asmInt, asmCross, asmSystem, hsub]) hi
  case movFromIndex f | pmovNz f | flagsSet f =>
    have hsub : f.sub.val = 2 := by simp_all [Instr.wellFormed, okMovFromIndex, okPmovNz, okFlags]
    exact reads_word he (f2_read (by decide) _) (by decide) rfl (fun _ h => by subst h; simp [spellAt, opAssigned, asmInt, asmCross, asmSystem, hsub]) hi
  -- Format F3.
  case imad f | imadwS32 f | imadwN32 f | fshl f | bfi f | prmt f | cpyf f | cpyq f | bini f | barv f | barx f | bwait f | btry f | hbcfg f | hbar f
      | hbara f | hbarw f | qini f | qpush f | qpop f | qtry f | cset f | sign f | dqpush f | dqpop f | dqstl f | tcfg f | tzr f | tmov f | mxsc f
      | tstat f =>
    exact reads_word he (f3_read (by decide) _) (by decide) rfl (fun _ h => by subst h; rfl) hi
  case lop3 f fx | cpy f fx | cpyg f fx | cpys f fx | xcpy f fx | tld f fx | tldq f fx | mma f fx | mmas f fx | ald f fx | adrn f fx | amov f fx =>
    exact reads_word he (f3_read (by decide) _) (by decide) rfl (fun _ h => by subst h; rfl) hi
  -- Format F3, by C.
  case azr f =>
    have hc := ne_int_of_okAzr hi
    exact reads_word he (f3_read (by decide) _) (by decide) rfl (fun _ h => by subst h; simp [spellAt, opAssigned, asmMatrix, hc]) hi
  case azrRelease f =>
    have hc := eq_int_of_okAzrRelease hi
    exact reads_word he (f3_read (by decide) _) (by decide) rfl (fun _ h => by subst h; simp [spellAt, opAssigned, asmMatrix, hc]) hi
  -- Format F3, with the rounding mode in the opcode.
  case ffma r f | dfma r f | hfma2Bf16 r f | hfma2F16 r f | cfma r f | cbfly r f | fdot2Bf16 r f | fdot2F16 r f =>
    cases r <;> exact reads_word he (f3_read (by decide) _) (by decide) rfl (fun _ h => by subst h; rfl) hi
  -- Format FM.
  case ldg f | stg f | lds f | sts f | ldk f | stk f | ldc f | ldga f | stgr f | ldsx f | stsx f | atomg f | atoms f | casg f | cass f | xchg f | red f
      | fence f | pref f =>
    exact reads_fm he (by decide) (fun _ _ h => by subst h; rfl) hi
  -- Format FM, by the width.
  case cctlPref f | cctlClean f | cctlInval f | cctlDiscard f =>
    have hw := width_of_okCctl hi
    exact reads_fm he (by decide) (fun _ _ h => by subst h; simp [spellAt, opAssigned, asmMem, hw]) hi
  case unassignedOpcode h op low => exact reads_unassigned he hi
  -- A step of one of the device's agents has no word.
  all_goals cases he

end Sys2Proof
end

section
/-!
SUPPORT. The opcode map backwards (03 R104 to R119, Table 3.10): a word is the encoding of what it spells, and decoding and encoding agree.
-/
namespace Sys2Proof
open Sys2Proof.Machine Sys2Proof.Claims

/-! ## The fields of a word, encoded again -/

section
variable {n op : Nat}

/-- The header of a word, its bits from 57 up. -/
theorem hdrCode_hdrOf (hn : n < 2 ^ 64) : hdrCode (hdrOf n) = n / 2 ^ 57 * 2 ^ 57 := by
  have h₁ : bitNat (Word.bit n 63) = n / 2 ^ 63 % 2 := by rw [bit_eq, bitNat_decide (Nat.mod_lt _ (by decide))]
  have h₂ : clsCode (clsOfNat (Word.bits n 62 61)) = n / 2 ^ 61 % 4 := clsCode_clsOfNat (Nat.mod_lt _ (by decide))
  have h₃ : bitNat (Word.bit n 60) = n / 2 ^ 60 % 2 := by rw [bit_eq, bitNat_decide (Nat.mod_lt _ (by decide))]
  have h₄ : (fin8 (Word.bits n 59 57)).val = n / 2 ^ 57 % 8 := Nat.mod_eq_of_lt (Nat.mod_lt _ (by decide))
  simp only [hdrCode, hdrOf, h₁, h₂, h₃, h₄]
  omega

theorem opndCode_bits_47 : opndCode (opndOf (Word.bits n 47 38)) = n / 2 ^ 38 % 2 ^ 10 := opndCode_opndOf (Nat.mod_lt _ (by decide))
theorem opndCode_bits_37 : opndCode (opndOf (Word.bits n 37 28)) = n / 2 ^ 28 % 2 ^ 10 := opndCode_opndOf (Nat.mod_lt _ (by decide))
theorem fin16_bits_27 : (fin16 (Word.bits n 27 24)).val = n / 2 ^ 24 % 2 ^ 4 := Nat.mod_eq_of_lt (Nat.mod_lt _ (by decide))
theorem opndCode_bits_23 : opndCode (opndOf (Word.bits n 23 14)) = n / 2 ^ 14 % 2 ^ 10 := opndCode_opndOf (Nat.mod_lt _ (by decide))
theorem fin16_bits_13 : (fin16 (Word.bits n 13 10)).val = n / 2 ^ 10 % 2 ^ 4 := Nat.mod_eq_of_lt (Nat.mod_lt _ (by decide))

/-- A word with the fields that every format has (03 Table 3.2). -/
theorem top_fields_eq (hn : n < 2 ^ 64) (ho : opOf n = op) :
    hdrCode (hdrOf n) + op * 2 ^ 48 + opndCode (opndOf (Word.bits n 47 38)) * 2 ^ 38 + opndCode (opndOf (Word.bits n 37 28)) * 2 ^ 28
      + (fin16 (Word.bits n 27 24)).val * 2 ^ 24 + n % 2 ^ 24 = n := by
  rw [hdrCode_hdrOf hn, opndCode_bits_47, opndCode_bits_37, fin16_bits_27, ← ho]
  unfold opOf Word.bits
  omega

theorem f2Code_f2Of (hn : n < 2 ^ 64) (ho : opOf n = op) : f2Code op (f2Of n) = n := by
  have h₁ : tyCode (tyOfCode (Word.bits n 9 6)) = n / 2 ^ 6 % 2 ^ 4 := tyCode_tyOfCode (Nat.mod_lt _ (by decide))
  have h₂ : rndCode (rndOf (Word.bits n 5 4)) = n / 2 ^ 4 % 2 ^ 2 := rndCode_rndOf (Nat.mod_lt _ (by decide))
  have h₃ : bitNat (Word.bit n 3) = n / 2 ^ 3 % 2 := by rw [bit_eq, bitNat_decide (Nat.mod_lt _ (by decide))]
  have h₄ : (fin8 (Word.bits n 2 0)).val = n % 2 ^ 3 := by
    have : Word.bits n 2 0 = n % 2 ^ 3 := by simp [Word.bits]
    rw [this]
    exact Nat.mod_eq_of_lt (Nat.mod_lt _ (by decide))
  have h := top_fields_eq hn ho
  simp only [f2Code, f2Of, opndCode_bits_23, fin16_bits_13, h₁, h₂, h₃, h₄]
  omega

theorem f3Code_f3Of (hn : n < 2 ^ 64) (ho : opOf n = op) : f3Code op (f3Of n) = n := by
  have h₁ : opndCode (opndOf (Word.bits n 9 0)) = n / 2 ^ 0 % 2 ^ 10 := opndCode_opndOf (Nat.mod_lt _ (by decide))
  have h := top_fields_eq hn ho
  simp only [f3Code, f3Of, opndCode_bits_23, fin16_bits_13, h₁]
  omega

theorem fiCode_fiOf (hn : n < 2 ^ 64) (ho : opOf n = op) : fiCode op (fiOf n) = n := by
  have h₁ : (BitVec.ofNat 24 (Word.bits n 23 0)).toNat = n % 2 ^ 24 := by simp [Word.bits]
  have h := top_fields_eq hn ho
  simp only [fiCode, fiOf, h₁]
  omega

theorem extCode_extOf {k : Nat} (hk : k < 8) (fx : DWord) : extCode (extOf k fx) = k := by
  apply of_range (Nat.zero_le k) (Nat.le_of_lt_succ hk)
  repeat' apply And.intro
  all_goals rfl

theorem fmCode_fmOf (hn : n < 2 ^ 64) (ho : opOf n = op) (fx : DWord) : fmCode op (fmOf n fx) = n := by
  have h₁ : scopeCode (scopeOf (Word.bits n 13 11)) = n / 2 ^ 11 % 2 ^ 3 := scopeCode_scopeOf (Nat.mod_lt _ (by decide))
  have h₂ : ordCode (ordOf (Word.bits n 10 9)) = n / 2 ^ 9 % 2 ^ 2 := ordCode_ordOf (Nat.mod_lt _ (by decide))
  have h₃ : cpolCode (cpolOf (Word.bits n 8 6)) = n / 2 ^ 6 % 2 ^ 3 := cpolCode_cpolOf (Nat.mod_lt _ (by decide))
  have h₄ : (fin8 (Word.bits n 5 3)).val = n / 2 ^ 3 % 2 ^ 3 := Nat.mod_eq_of_lt (Nat.mod_lt _ (by decide))
  have h₅ : extCode (extOf (Word.bits n 2 0) fx) = n / 2 ^ 0 % 2 ^ 3 := extCode_extOf (Nat.mod_lt _ (by decide)) fx
  have h := top_fields_eq hn ho
  simp only [fmCode, fmOf, opndCode_bits_23, h₁, h₂, h₃, h₄, h₅]
  omega

end

/-! ## The opcode map (03 Table 3.10), range by range -/

/-- What a word spells lies in the range of its opcode. -/
theorem spellAt_cases {P : Instr → Prop} {op n : Nat} {fx : DWord}
    (unassigned : opAssigned op = false → P (.unassignedOpcode (hdrOf n) ⟨op % 512, Nat.mod_lt _ (by decide)⟩ (BitVec.ofNat 48 n)))
    (flow : 0x001 ≤ op → op ≤ 0x007 → P (asmFlow op (fiOf n) fx))
    (control : 0x020 ≤ op → op ≤ 0x026 → P (asmControl (op - 0x020) (f2Of n)))
    (int : 0x040 ≤ op → op ≤ 0x059 → P (asmInt (op - 0x040) (f2Of n)))
    (int3 : 0x080 ≤ op → op ≤ 0x086 → P (asmInt3 (op - 0x080) (f3Of n) fx))
    (imm : 0x0A0 ≤ op → op ≤ 0x0A1 → P (asmImm (op - 0x0A0) (fiOf n)))
    (flt : 0x0C0 ≤ op → op ≤ 0x0DC → P (asmFlt (op - 0x0C0) (f2Of n)))
    (flt3 : 0x100 ≤ op → op ≤ 0x11F → P (asmFlt3 ((op - 0x100) / 4) (rndOf (op % 4)) (f3Of n)))
    (cross : 0x140 ≤ op → op ≤ 0x14B → P (asmCross (op - 0x140) (f2Of n)))
    (mem : 0x160 ≤ op → op ≤ 0x17A → opAssigned op = true → P (asmMem (op - 0x160) (fmOf n fx)))
    (move : 0x1B0 ≤ op → op ≤ 0x1C7 → P (asmMove (op - 0x1B0) (f3Of n) fx))
    (matrix : 0x1D0 ≤ op → op ≤ 0x1DC → P (asmMatrix (op - 0x1D0) (f3Of n) fx))
    (csr : 0x1F0 ≤ op → op ≤ 0x1F1 → P (asmCsr (op - 0x1F0) (fiOf n)))
    (system : 0x1F2 ≤ op → op ≤ 0x1FC → P (asmSystem (op - 0x1F2) (f2Of n))) : P (spellAt op n fx) := by
  cases ha : opAssigned op with
  | false =>
    unfold spellAt
    rw [ha]
    exact unassigned ha
  | true =>
    have hr := opAssigned_iff.mp ha
    unfold spellAt
    rw [ha, if_neg (by decide)]
    refine iteInduction (fun _ => flow (by omega) (by omega)) (fun _ => ?_)
    refine iteInduction (fun _ => control (by omega) (by omega)) (fun _ => ?_)
    refine iteInduction (fun _ => int (by omega) (by omega)) (fun _ => ?_)
    refine iteInduction (fun _ => int3 (by omega) (by omega)) (fun _ => ?_)
    refine iteInduction (fun _ => imm (by omega) (by omega)) (fun _ => ?_)
    refine iteInduction (fun _ => flt (by omega) (by omega)) (fun _ => ?_)
    refine iteInduction (fun _ => flt3 (by omega) (by omega)) (fun _ => ?_)
    refine iteInduction (fun _ => cross (by omega) (by omega)) (fun _ => ?_)
    refine iteInduction (fun _ => mem (by omega) (by omega) ha) (fun _ => ?_)
    refine iteInduction (fun _ => move (by omega) (by omega)) (fun _ => ?_)
    refine iteInduction (fun _ => matrix (by omega) (by omega)) (fun _ => ?_)
    refine iteInduction (fun _ => csr (by omega) (by omega)) (fun _ => ?_)
    exact system (by omega) (by omega)

section
variable {op : Nat}

theorem encode_asmFlow (h₀ : 0x001 ≤ op) (h₁ : op ≤ 0x007) (f : FI) (fx : DWord) :
    encode (asmFlow op f fx) = BitVec.ofNat 64 (fiCode op f) :: fxTail op fx := by
  apply of_range h₀ h₁
  repeat' apply And.intro
  all_goals rfl

theorem encode_asmControl (h₀ : 0x020 ≤ op) (h₁ : op ≤ 0x026) (f : F2) (fx : DWord) :
    encode (asmControl (op - 0x020) f) = BitVec.ofNat 64 (f2Code op f) :: fxTail op fx := by
  apply of_range h₀ h₁
  repeat' apply And.intro
  all_goals rfl

theorem encode_asmInt (h₀ : 0x040 ≤ op) (h₁ : op ≤ 0x059) (f : F2) (fx : DWord) :
    encode (asmInt (op - 0x040) f) = BitVec.ofNat 64 (f2Code op f) :: fxTail op fx := by
  obtain h | rfl | rfl | rfl : op ≤ 0x056 ∨ op = 0x057 ∨ op = 0x058 ∨ op = 0x059 := by omega
  · apply of_range h₀ h
    repeat' apply And.intro
    all_goals rfl
  · simp only [asmInt]; split <;> rfl -- MOV, by SUB
  · simp only [asmInt]; split <;> rfl -- PICK, by SUB
  · rfl

theorem encode_asmInt3 (h₀ : 0x080 ≤ op) (h₁ : op ≤ 0x086) (f : F3) (fx : DWord) :
    encode (asmInt3 (op - 0x080) f fx) = BitVec.ofNat 64 (f3Code op f) :: fxTail op fx := by
  apply of_range h₀ h₁
  repeat' apply And.intro
  all_goals rfl

theorem encode_asmImm (h₀ : 0x0A0 ≤ op) (h₁ : op ≤ 0x0A1) (f : FI) (fx : DWord) :
    encode (asmImm (op - 0x0A0) f) = BitVec.ofNat 64 (fiCode op f) :: fxTail op fx := by
  apply of_range h₀ h₁
  repeat' apply And.intro
  all_goals rfl

theorem encode_asmFlt (h₀ : 0x0C0 ≤ op) (h₁ : op ≤ 0x0DC) (f : F2) (fx : DWord) :
    encode (asmFlt (op - 0x0C0) f) = BitVec.ofNat 64 (f2Code op f) :: fxTail op fx := by
  apply of_range h₀ h₁
  repeat' apply And.intro
  all_goals rfl

theorem encode_asmFlt3 (h₀ : 0x100 ≤ op) (h₁ : op ≤ 0x11F) (f : F3) (fx : DWord) :
    encode (asmFlt3 ((op - 0x100) / 4) (rndOf (op % 4)) f) = BitVec.ofNat 64 (f3Code op f) :: fxTail op fx := by
  apply of_range h₀ h₁
  repeat' apply And.intro
  all_goals rfl

theorem encode_asmCross (h₀ : 0x140 ≤ op) (h₁ : op ≤ 0x14B) (f : F2) (fx : DWord) :
    encode (asmCross (op - 0x140) f) = BitVec.ofNat 64 (f2Code op f) :: fxTail op fx := by
  obtain rfl | rfl | h : op = 0x140 ∨ op = 0x141 ∨ 0x142 ≤ op := by omega
  · rfl
  · simp only [asmCross]; split <;> rfl -- PMOV, by SUB
  · apply of_range h h₁
    repeat' apply And.intro
    all_goals rfl

theorem encode_asmMem (h₀ : 0x160 ≤ op) (h₁ : op ≤ 0x17A) (ha : opAssigned op = true) (f : FM) :
    encode (asmMem (op - 0x160) f) = BitVec.ofNat 64 (fmCode op f) :: extWords f.ext := by
  have hr := opAssigned_iff.mp ha
  obtain h | ⟨h, h'⟩ | rfl | rfl | rfl : op ≤ 0x16A ∨ (0x170 ≤ op ∧ op ≤ 0x175) ∨ op = 0x178 ∨ op = 0x179 ∨ op = 0x17A := by omega
  · apply of_range h₀ h
    repeat' apply And.intro
    all_goals rfl
  · apply of_range h h'
    repeat' apply And.intro
    all_goals rfl
  · rfl
  · simp only [asmMem]; split <;> rfl -- CCTL, by the width
  · rfl

theorem encode_asmMove (h₀ : 0x1B0 ≤ op) (h₁ : op ≤ 0x1C7) (f : F3) (fx : DWord) :
    encode (asmMove (op - 0x1B0) f fx) = BitVec.ofNat 64 (f3Code op f) :: fxTail op fx := by
  apply of_range h₀ h₁
  repeat' apply And.intro
  all_goals rfl

theorem encode_asmMatrix (h₀ : 0x1D0 ≤ op) (h₁ : op ≤ 0x1DC) (f : F3) (fx : DWord) :
    encode (asmMatrix (op - 0x1D0) f fx) = BitVec.ofNat 64 (f3Code op f) :: fxTail op fx := by
  obtain h | rfl | h : op ≤ 0x1D6 ∨ op = 0x1D7 ∨ 0x1D8 ≤ op := by omega
  · apply of_range h₀ h
    repeat' apply And.intro
    all_goals rfl
  · simp only [asmMatrix]; split <;> rfl -- AZR, by C
  · apply of_range h h₁
    repeat' apply And.intro
    all_goals rfl

theorem encode_asmCsr (h₀ : 0x1F0 ≤ op) (h₁ : op ≤ 0x1F1) (f : FI) (fx : DWord) :
    encode (asmCsr (op - 0x1F0) f) = BitVec.ofNat 64 (fiCode op f) :: fxTail op fx := by
  apply of_range h₀ h₁
  repeat' apply And.intro
  all_goals rfl

theorem encode_asmSystem (h₀ : 0x1F2 ≤ op) (h₁ : op ≤ 0x1FC) (f : F2) (fx : DWord) :
    encode (asmSystem (op - 0x1F2) f) = BitVec.ofNat 64 (f2Code op f) :: fxTail op fx := by
  obtain h | rfl | ⟨h, h'⟩ | rfl | rfl : op ≤ 0x1F6 ∨ op = 0x1F7 ∨ (0x1F8 ≤ op ∧ op ≤ 0x1FA) ∨ op = 0x1FB ∨ op = 0x1FC := by omega
  · apply of_range h₀ h
    repeat' apply And.intro
    all_goals rfl
  · simp only [asmSystem]; split <;> rfl -- TRET, by SUB
  · apply of_range h h'
    repeat' apply And.intro
    all_goals rfl
  · simp only [asmSystem]; split <;> rfl -- FLAGS, by SUB
  · rfl

end

/-- A word of an unassigned opcode, with its header, its opcode and the 48 bits below. -/
theorem unassigned_fields_eq {n op : Nat} (hn : n < 2 ^ 64) (ho : opOf n = op) :
    hdrCode (hdrOf n) + op % 512 * 2 ^ 48 + (BitVec.ofNat 48 n).toNat = n := by
  rw [hdrCode_hdrOf hn, BitVec.toNat_ofNat, ← ho]
  unfold opOf Word.bits
  omega

/-! ## A word is the encoding of what it spells -/

theorem opForm_ne_fm {op : Nat} (h : op < 0x160 ∨ 0x1B0 ≤ op) : opForm op ≠ .fm := by
  have hm : ¬ (0x160 ≤ op ∧ op < 0x1B0) := by omega
  unfold opForm
  split
  · decide
  split
  · decide
  rw [if_neg (by simpa using hm)]
  decide

theorem opForm_of_mem {op : Nat} (h₀ : 0x160 ≤ op) (h₁ : op ≤ 0x17A) : opForm op = .fm ∧ opHasFx op = false := by
  apply of_range h₀ h₁
  repeat' apply And.intro
  all_goals rfl

theorem wordSize_of_mem {n op : Nat} (ho : opOf n = op) (h₀ : 0x160 ≤ op) (h₁ : op ≤ 0x17A) (ha : opAssigned op = true) (fx : DWord) :
    wordSize n = extSize (fmOf n fx).ext := by
  obtain ⟨hf, hx⟩ := opForm_of_mem h₀ h₁
  refine wordSize_of_fm ho ha hf hx ?_
  show n % 8 = extCode (extOf (Word.bits n 2 0) fx)
  rw [extCode_extOf (show Word.bits n 2 0 < 8 from Nat.mod_lt _ (by decide))]
  simp [Word.bits]

theorem extWords_extOf (k : Nat) (fx : DWord) : extWords (extOf k fx) = if extSize (extOf k fx) = 16 then [fx] else [] := by
  unfold extOf
  split <;> rfl

theorem encode_spellAt {n op : Nat} (hn : n < 2 ^ 64) (ho : opOf n = op) (fx : DWord) :
    encode (spellAt op n fx) = BitVec.ofNat 64 n :: if wordSize n = 16 then [fx] else [] := by
  have tail : op < 0x160 ∨ 0x1B0 ≤ op → fxTail op fx = if wordSize n = 16 then [fx] else [] := fun h => by
    rw [wordSize_of_not_fm ho (opForm_ne_fm h)]
    unfold fxTail fxSize
    split <;> rfl
  apply spellAt_cases (P := fun i => encode i = BitVec.ofNat 64 n :: if wordSize n = 16 then [fx] else [])
  case unassigned =>
    intro ha
    rw [wordSize_of_unassigned ho ha, if_neg (by decide), encode, unassigned_fields_eq hn ho]
  case flow => intro h₀ h₁; rw [encode_asmFlow h₀ h₁, fiCode_fiOf hn ho, tail (by omega)]
  case control => intro h₀ h₁; rw [encode_asmControl h₀ h₁ _ fx, f2Code_f2Of hn ho, tail (by omega)]
  case int => intro h₀ h₁; rw [encode_asmInt h₀ h₁ _ fx, f2Code_f2Of hn ho, tail (by omega)]
  case int3 => intro h₀ h₁; rw [encode_asmInt3 h₀ h₁, f3Code_f3Of hn ho, tail (by omega)]
  case imm => intro h₀ h₁; rw [encode_asmImm h₀ h₁ _ fx, fiCode_fiOf hn ho, tail (by omega)]
  case flt => intro h₀ h₁; rw [encode_asmFlt h₀ h₁ _ fx, f2Code_f2Of hn ho, tail (by omega)]
  case flt3 => intro h₀ h₁; rw [encode_asmFlt3 h₀ h₁ _ fx, f3Code_f3Of hn ho, tail (by omega)]
  case cross => intro h₀ h₁; rw [encode_asmCross h₀ h₁ _ fx, f2Code_f2Of hn ho, tail (by omega)]
  case mem =>
    intro h₀ h₁ ha
    rw [encode_asmMem h₀ h₁ ha, fmCode_fmOf hn ho, wordSize_of_mem ho h₀ h₁ ha fx]
    exact congrArg _ (extWords_extOf _ fx)
  case move => intro h₀ h₁; rw [encode_asmMove h₀ h₁, f3Code_f3Of hn ho, tail (by omega)]
  case matrix => intro h₀ h₁; rw [encode_asmMatrix h₀ h₁, f3Code_f3Of hn ho, tail (by omega)]
  case csr => intro h₀ h₁; rw [encode_asmCsr h₀ h₁ _ fx, fiCode_fiOf hn ho, tail (by omega)]
  case system => intro h₀ h₁; rw [encode_asmSystem h₀ h₁ _ fx, f2Code_f2Of hn ho, tail (by omega)]

/-- A word that decodes spells the well-formed instruction that it decodes to. -/
theorem spell_of_decode {i : Instr} {w fx : DWord} (h : decode w fx = .ok i) : spell w.toNat fx = i ∧ i.wellFormed = true := by
  unfold decode at h
  dsimp only at h
  split at h
  · next hi =>
    obtain rfl : spell w.toNat fx = i := Decoded.ok.inj h
    exact ⟨rfl, hi⟩
  · cases h

/-- Settles O52: the words of an instruction read back format by format, and a word is the encoding of what its opcode's range spells. -/
theorem decodeEncode : Obligations.DecodeEncode := by
  refine ⟨words_decode, fun i w fx h => ?_⟩
  obtain ⟨rfl, hi⟩ := spell_of_decode h
  refine ⟨hi, ?_⟩
  rw [spell, encode_spellAt w.isLt rfl, BitVec.ofNat_toNat, BitVec.setWidth_eq]
  split <;> rfl

/-- Settles O51, by decoding each word. -/
theorem decodesSpecWords : Obligations.DecodesSpecWords := by
  refine ⟨?_, ?_, ?_, ?_, ?_, ?_, ?_, ?_, ?_, ?_, ?_⟩ <;> decide +kernel

end Sys2Proof
end

section
/-!
SUPPORT. An empty EXEC and the encoding traps (03 R122 to R124; 01 R42, R51): every instruction with a word runs in the frame `runInstr`.
-/
namespace Sys2Proof.Machine
open Sys2Proof Sys2Proof.Claims

/-! ## The issuing set passes over an instruction -/

/-- The state once the issuing set has passed over an instruction, which is then at its end. -/
def State.passedBy (s : State) (h : Hdr) (size : Nat) : State := (s.advanceAll s.cur size (s.issue h size).issuing).complete h (s.issue h size)

theorem passedOver_eq_onThreads (size : Nat) (is : Issue) (g : Group) : passedOver size is g = onThreads g is.issuing (fun _ th => th.advance size) := by
  simp only [passedOver, onThreads, List.contains_iff_mem]

theorem State.passedBy_eq {s : State} {h : Hdr} {size : Nat} (hg : (kvGet s.groups s.cur).isSome = true) (hi : (s.issue h size).issuing ≠ []) :
    s.passedBy h size = afterGroup s (closed h s (passedOver size (s.issue h size) (s.group s.cur))) := by
  have hh : s.Holds (s.advanceAll s.cur size (s.issue h size).issuing) (passedOver size (s.issue h size) (s.group s.cur)) :=
    passedOver_eq_onThreads size _ _ ▸ (State.HoldsAt.self hg).advanceAll size (s.issue_issuing_nodup h size)
  have hlive : (passedOver size (s.issue h size) (s.group s.cur)).live = (s.group s.cur).live :=
    Group.live_of_states rfl (fun t => by
      split
      · exact Thread.advance_st _ _
      · rfl)
  have hne : (s.group s.cur).live ≠ [] := fun e => hi (List.eq_nil_of_subset_nil (e ▸ (s.group s.cur).issuing_sublist.subset))
  exact hh.complete_eq rfl (hlive ▸ hne) h rfl

/-! ## The frame of every instruction -/

/-- What the frame `runInstr` makes of a meaning: with an empty EXEC it only advances the issuing set (01 R42). -/
def Framed (h : Hdr) (size : Nat) (m : State → Out) : Prop :=
  ∀ s, ∃ u, m s = s.inGroup (if (s.issue h size).ex.isEmpty then s.passedBy h size else u)

section
variable {op : Nat}

theorem framed_asmFlow (h₀ : 0x001 ≤ op) (h₁ : op ≤ 0x007) (f : FI) (fx : DWord) : Framed f.h (fxSize op) (exec (asmFlow op f fx)) := by
  apply of_range h₀ h₁
  repeat' apply And.intro
  all_goals exact fun s => ⟨_, rfl⟩

theorem framed_asmControl (h₀ : 0x020 ≤ op) (h₁ : op ≤ 0x026) (f : F2) : Framed f.h (fxSize op) (exec (asmControl (op - 0x020) f)) := by
  apply of_range h₀ h₁
  repeat' apply And.intro
  all_goals exact fun s => ⟨_, rfl⟩

theorem framed_asmInt (h₀ : 0x040 ≤ op) (h₁ : op ≤ 0x059) (f : F2) : Framed f.h (fxSize op) (exec (asmInt (op - 0x040) f)) := by
  obtain h | rfl | rfl | rfl : op ≤ 0x056 ∨ op = 0x057 ∨ op = 0x058 ∨ op = 0x059 := by omega
  · apply of_range h₀ h
    repeat' apply And.intro
    all_goals exact fun s => ⟨_, rfl⟩
  · simp only [asmInt]; split <;> exact fun s => ⟨_, rfl⟩ -- MOV, by SUB
  · simp only [asmInt]; split <;> exact fun s => ⟨_, rfl⟩ -- PICK, by SUB
  · exact fun s => ⟨_, rfl⟩

theorem framed_asmInt3 (h₀ : 0x080 ≤ op) (h₁ : op ≤ 0x086) (f : F3) (fx : DWord) :
    Framed f.h (fxSize op) (exec (asmInt3 (op - 0x080) f fx)) := by
  apply of_range h₀ h₁
  repeat' apply And.intro
  all_goals exact fun s => ⟨_, rfl⟩

theorem framed_asmImm (h₀ : 0x0A0 ≤ op) (h₁ : op ≤ 0x0A1) (f : FI) : Framed f.h (fxSize op) (exec (asmImm (op - 0x0A0) f)) := by
  apply of_range h₀ h₁
  repeat' apply And.intro
  all_goals exact fun s => ⟨_, rfl⟩

theorem framed_asmFlt (h₀ : 0x0C0 ≤ op) (h₁ : op ≤ 0x0DC) (f : F2) : Framed f.h (fxSize op) (exec (asmFlt (op - 0x0C0) f)) := by
  apply of_range h₀ h₁
  repeat' apply And.intro
  all_goals exact fun s => ⟨_, rfl⟩

theorem framed_asmFlt3 (h₀ : 0x100 ≤ op) (h₁ : op ≤ 0x11F) (f : F3) :
    Framed f.h (fxSize op) (exec (asmFlt3 ((op - 0x100) / 4) (rndOf (op % 4)) f)) := by
  apply of_range h₀ h₁
  repeat' apply And.intro
  all_goals exact fun s => ⟨_, rfl⟩

theorem framed_asmCross (h₀ : 0x140 ≤ op) (h₁ : op ≤ 0x14B) (f : F2) : Framed f.h (fxSize op) (exec (asmCross (op - 0x140) f)) := by
  obtain rfl | rfl | h : op = 0x140 ∨ op = 0x141 ∨ 0x142 ≤ op := by omega
  · exact fun s => ⟨_, rfl⟩
  · simp only [asmCross]; split <;> exact fun s => ⟨_, rfl⟩ -- PMOV, by SUB
  · apply of_range h h₁
    repeat' apply And.intro
    all_goals exact fun s => ⟨_, rfl⟩

theorem ext_of_okFence {f : FM} (h : okFence f = true) : f.ext = .none := by
  simp only [okFence, Bool.and_eq_true, decide_eq_true_eq] at h
  obtain ⟨⟨⟨⟨⟨-, hext⟩, -⟩, -⟩, -⟩, -⟩ := h
  exact hext

theorem framed_asmMem (h₀ : 0x160 ≤ op) (h₁ : op ≤ 0x17A) {f : FM} (hi : (asmMem (op - 0x160) f).wellFormed = true) :
    Framed f.h (extSize f.ext) (exec (asmMem (op - 0x160) f)) := by
  obtain h | rfl | rfl | rfl : op ≤ 0x177 ∨ op = 0x178 ∨ op = 0x179 ∨ op = 0x17A := by omega
  · apply of_range h₀ h
    repeat' apply And.intro
    all_goals exact fun s => ⟨_, rfl⟩
  · -- FENCE: a word of 8 bytes, its XF being 0
    rw [ext_of_okFence hi]
    exact fun s => ⟨_, rfl⟩
  · simp only [asmMem]; split <;> exact fun s => ⟨_, rfl⟩ -- CCTL, by the width
  · exact fun s => ⟨_, rfl⟩

theorem runCpy_framed (f : F3) (fx : DWord) (k : CpyKind) : Framed f.h 16 (runCpy f fx k) := by
  intro s
  unfold runCpy
  split <;> exact ⟨_, rfl⟩

theorem runMma_framed (f : F3) (fx : DWord) (sparse : Bool) : Framed f.h 16 (runMma f fx sparse) := by
  intro s
  by_cases hb : f.b = .z
  · simp only [runMma, hb, if_true]
    exact ⟨_, rfl⟩
  · simp only [runMma, hb, if_false]
    exact ⟨_, rfl⟩

theorem execSigacc_framed (f : F2) : Framed f.h 8 (execSigacc f) := by
  intro s
  unfold execSigacc
  dsimp only
  split <;> exact ⟨_, rfl⟩

theorem framed_asmMove (h₀ : 0x1B0 ≤ op) (h₁ : op ≤ 0x1C7) (f : F3) (fx : DWord) :
    Framed f.h (fxSize op) (exec (asmMove (op - 0x1B0) f fx)) := by
  obtain h | h : op ≤ 0x1B2 ∨ 0x1B3 ≤ op := by omega
  · apply of_range h₀ h -- CPY, CPYG and CPYS
    repeat' apply And.intro
    all_goals exact runCpy_framed f fx _
  · apply of_range h h₁
    repeat' apply And.intro
    all_goals exact fun s => ⟨_, rfl⟩

theorem framed_asmMatrix (h₀ : 0x1D0 ≤ op) (h₁ : op ≤ 0x1DC) (f : F3) (fx : DWord) :
    Framed f.h (fxSize op) (exec (asmMatrix (op - 0x1D0) f fx)) := by
  obtain h | rfl | rfl | rfl | h : op ≤ 0x1D4 ∨ op = 0x1D5 ∨ op = 0x1D6 ∨ op = 0x1D7 ∨ 0x1D8 ≤ op := by omega
  · apply of_range h₀ h
    repeat' apply And.intro
    all_goals exact fun s => ⟨_, rfl⟩
  · exact runMma_framed f fx false
  · exact runMma_framed f fx true
  · simp only [asmMatrix]; split <;> exact fun s => ⟨_, rfl⟩ -- AZR, by C
  · apply of_range h h₁
    repeat' apply And.intro
    all_goals exact fun s => ⟨_, rfl⟩

theorem framed_asmCsr (h₀ : 0x1F0 ≤ op) (h₁ : op ≤ 0x1F1) (f : FI) : Framed f.h (fxSize op) (exec (asmCsr (op - 0x1F0) f)) := by
  apply of_range h₀ h₁
  repeat' apply And.intro
  all_goals exact fun s => ⟨_, rfl⟩

theorem framed_asmSystem (h₀ : 0x1F2 ≤ op) (h₁ : op ≤ 0x1FC) (f : F2) : Framed f.h (fxSize op) (exec (asmSystem (op - 0x1F2) f)) := by
  obtain rfl | ⟨h, h'⟩ | rfl | ⟨h, h'⟩ | rfl | rfl : op = 0x1F2 ∨ (0x1F3 ≤ op ∧ op ≤ 0x1F6) ∨ op = 0x1F7 ∨ (0x1F8 ≤ op ∧ op ≤ 0x1FA)
      ∨ op = 0x1FB ∨ op = 0x1FC := by omega
  · exact execSigacc_framed f
  · apply of_range h h'
    repeat' apply And.intro
    all_goals exact fun s => ⟨_, rfl⟩
  · simp only [asmSystem]; split <;> exact fun s => ⟨_, rfl⟩ -- TRET, by SUB
  · apply of_range h h'
    repeat' apply And.intro
    all_goals exact fun s => ⟨_, rfl⟩
  · simp only [asmSystem]; split <;> exact fun s => ⟨_, rfl⟩ -- FLAGS, by SUB
  · exact fun s => ⟨_, rfl⟩

end

/-- What a word spells runs with the word's header and size; of the fields only XF bears on it, which FENCE has not. -/
theorem framed_spellAt {n op : Nat} (ho : opOf n = op) (fx : DWord) (hi : (spellAt op n fx).wellFormed = true) :
    Framed (hdrOf n) (wordSize n) (exec (spellAt op n fx)) := by
  have size : op < 0x160 ∨ 0x1B0 ≤ op → wordSize n = fxSize op := fun h => wordSize_of_not_fm ho (opForm_ne_fm h)
  revert hi
  apply spellAt_cases (P := fun i => i.wellFormed = true → Framed (hdrOf n) (wordSize n) (exec i))
  case unassigned =>
    intro ha _
    rw [wordSize_of_unassigned ho ha]
    exact fun s => ⟨_, rfl⟩
  case flow => intro h₀ h₁ _; rw [size (by omega)]; exact framed_asmFlow h₀ h₁ (fiOf n) fx
  case control => intro h₀ h₁ _; rw [size (by omega)]; exact framed_asmControl h₀ h₁ (f2Of n)
  case int => intro h₀ h₁ _; rw [size (by omega)]; exact framed_asmInt h₀ h₁ (f2Of n)
  case int3 => intro h₀ h₁ _; rw [size (by omega)]; exact framed_asmInt3 h₀ h₁ (f3Of n) fx
  case imm => intro h₀ h₁ _; rw [size (by omega)]; exact framed_asmImm h₀ h₁ (fiOf n)
  case flt => intro h₀ h₁ _; rw [size (by omega)]; exact framed_asmFlt h₀ h₁ (f2Of n)
  case flt3 => intro h₀ h₁ _; rw [size (by omega)]; exact framed_asmFlt3 h₀ h₁ (f3Of n)
  case cross => intro h₀ h₁ _; rw [size (by omega)]; exact framed_asmCross h₀ h₁ (f2Of n)
  case mem =>
    intro h₀ h₁ ha hi
    rw [wordSize_of_mem ho h₀ h₁ ha fx]
    exact framed_asmMem h₀ h₁ hi
  case move => intro h₀ h₁ _; rw [size (by omega)]; exact framed_asmMove h₀ h₁ (f3Of n) fx
  case matrix => intro h₀ h₁ _; rw [size (by omega)]; exact framed_asmMatrix h₀ h₁ (f3Of n) fx
  case csr => intro h₀ h₁ _; rw [size (by omega)]; exact framed_asmCsr h₀ h₁ (fiOf n)
  case system => intro h₀ h₁ _; rw [size (by omega)]; exact framed_asmSystem h₀ h₁ (f2Of n)

/-- A well-formed instruction runs with the header and the size of its words. -/
theorem framed_of_encode {i : Instr} {w : DWord} {ws : List DWord} (hi : i.wellFormed = true) (he : encode i = w :: ws) :
    Framed (hdrOf w.toNat) (8 * (ws.length + 1)) (exec i) := by
  obtain ⟨hd, hsize⟩ := words_decode i w 0 ws hi he
  obtain ⟨rfl, hi⟩ := spell_of_decode hd
  rw [← hsize]
  exact framed_spellAt rfl _ hi

theorem framed_takeIllegal (h : Hdr) (size : Nat) : Framed h size (takeIllegal h size) := fun _ => ⟨_, rfl⟩

/-- With an empty EXEC the issuing set passes over the bytes of what it issues. -/
theorem Framed.of_empty {h : Hdr} {size : Nat} {m : State → Out} (hm : Framed h size m) {s : State} (hg : (kvGet s.groups s.cur).isSome = true)
    (hex : (s.issue h size).ex = []) (hi : (s.issue h size).issuing ≠ []) :
    m s = .next (afterGroup s (closed h s (passedOver size (s.issue h size) (s.group s.cur)))) := by
  obtain ⟨u, hu⟩ := hm s
  simp only [hu, State.inGroup, hg, hex, List.isEmpty_nil, if_true, State.passedBy_eq hg hi]

/-! ## The encoding traps -/

/-- A word with an illegal field takes trap 0x02 (03 R123). -/
theorem takeIllegal_trap {h : Hdr} {size : Nat} {s : State} (hg : (kvGet s.groups s.cur).isSome = true) (hex : (s.issue h size).ex ≠ []) :
    takeIllegal h size s = .next (s.takeTrap s.cur (Trap.atInstr 0x02 (s.issue h size))) := by
  unfold takeIllegal
  exact runInstr_trap hg hex rfl

/-- A word of an unassigned opcode takes trap 0x01 (03 R122). -/
theorem exec_unassignedOpcode_trap {h : Hdr} (op : Fin 512) (low : BitVec 48) {s : State} (hg : (kvGet s.groups s.cur).isSome = true)
    (hex : (s.issue h 8).ex ≠ []) :
    exec (.unassignedOpcode h op low) s = .next (s.takeTrap s.cur (Trap.atInstr 0x01 (s.issue h 8))) := by
  simp only [exec, execUnassignedOpcode]
  exact runInstr_trap hg hex rfl

/-- A block that no loop's span holds and that cannot be fetched: the block-entry trap is taken whatever the guard (03 R100). -/
theorem execBlockFetch_of_fetch_error {s u v : State} {e : FetchErr} (hg : (kvGet s.groups s.cur).isSome = true)
    (hi : (s.group s.cur).issuing ≠ []) (hr : reloadSpans s.cur (s.coreOf s.cur) (s.tenantOf s.cur) [0, 1, 2, 3] s = (.ok (), u))
    (hl : (u.group s.cur).loopAt (s.issue ⟨false, .inherit, false, 7⟩ 8).blk = none)
    (hf : fetchBlock (u.group s.cur).bufWord u (s.coreOf s.cur) (s.tenantOf s.cur) (s.issue ⟨false, .inherit, false, 7⟩ 8).blk = (.error e, v)) :
    exec .blockFetch s = .next (v.takeTrap s.cur (blockTrap (s.issue ⟨false, .inherit, false, 7⟩ 8) e)) := by
  have hat : u.enterAt s.cur (s.coreOf s.cur) (s.tenantOf s.cur) (s.issue ⟨false, .inherit, false, 7⟩ 8).blk (s.issue ⟨false, .inherit, false, 7⟩ 8).w
      = (.error e, v) := by
    simp only [State.enterAt, hl, Bool.false_and, Bool.false_eq_true, if_false, hf]
  simp only [exec, execBlockFetch, State.inGroup, hg, if_true, List.isEmpty_eq_false_iff.mpr hi, Bool.false_eq_true, if_false, hr, hat]

/-- Settles O54: every instruction runs in the frame, whose empty EXEC only passes over it, and whose checks come before any thread. -/
theorem emptyExec : Obligations.EmptyExec := by
  refine ⟨?_, ?_, ?_, ?_⟩
  · intro i w ws s hi he h size hg hex hiss
    exact (framed_of_encode hi he).of_empty hg hex hiss
  · exact fun h size s hg => ⟨(framed_takeIllegal h size).of_empty hg, takeIllegal_trap hg⟩
  · exact fun h op low s hg hex => exec_unassignedOpcode_trap op low hg hex
  · intro s u v e hg hi is hr hl hf
    exact execBlockFetch_of_fetch_error hg hi hr hl hf

end Sys2Proof.Machine
end

section
/-!
SUPPORT. What a thread reads back from the vector destination of a lane instruction (01 R27, R45; 03 R115; 05 R175).
-/
namespace Sys2Proof.Machine
open Sys2Proof Sys2Proof.Claims

/-! ## Words of a register file -/

theorem fileSet_of_lt (f : RegFile) (ws : List RegWord) {n j : Nat} (h : j < n) :
    kvGetD RegWord.zero (fileSet f n ws) j = kvGetD RegWord.zero f j := by
  induction ws generalizing f n with
  | nil => rfl
  | cons w ws ih => rw [fileSet, ih _ (by omega), kvGetD_kvPut, if_neg (by omega)]

/-- The words of a number, read back: word i holds its bits from 32i up. -/
theorem fileSet_wordsOf (f : RegFile) (n : Nat) {k i : Nat} (x : Nat) (h : i < k) :
    kvGetD RegWord.zero (fileSet f n (wordsOf k x)) (n + i) = ⟨BitVec.ofNat 32 (x / 2 ^ (32 * i)), false⟩ := by
  induction k generalizing f n i x with
  | zero => omega
  | succ k ih =>
    rw [wordsOf, fileSet]
    cases i with
    | zero => rw [fileSet_of_lt _ _ (by omega), kvGetD_kvPut]; simp
    | succ i =>
      rw [show n + (i + 1) = n + 1 + i by omega, ih _ _ _ (by omega), Nat.div_div_eq_div_mul, ← Nat.pow_add, show 32 + 32 * i = 32 * (i + 1) by omega]

@[simp] theorem wordsOf_length (k x : Nat) : (wordsOf k x).length = k := by
  induction k generalizing x with
  | zero => rfl
  | succ k ih => simp [wordsOf, ih]

/-- A register whose words are those of a number holds the number modulo its width. -/
theorem regVal_of_words {g : Group} {t : Nat} {o : Opnd} {k x : Nat}
    (h : ∀ i, i < k → (regWord g t o i).val = BitVec.ofNat 32 (x / 2 ^ (32 * i))) : regVal g t o k = x % 2 ^ (32 * k) := by
  induction k with
  | zero => simp [regVal, Nat.mod_one]
  | succ k ih =>
    rw [regVal, ih (fun i hi => h i (by omega)), h k (by omega), BitVec.toNat_ofNat, Nat.mul_succ, Nat.pow_add, Nat.mod_mul,
      Nat.mul_comm (_ % 2 ^ 32)]

theorem regVal_lt (g : Group) (t : Nat) (o : Opnd) (n : Nat) : regVal g t o n < 2 ^ (32 * n) := by
  induction n with
  | zero => simp [regVal]
  | succ n ih =>
    have hw : (regWord g t o n).val.toNat + 1 ≤ 2 ^ 32 := (regWord g t o n).val.isLt
    calc regVal g t o n + (regWord g t o n).val.toNat * 2 ^ (32 * n)
      _ < ((regWord g t o n).val.toNat + 1) * 2 ^ (32 * n) := by rw [Nat.add_one_mul (regWord g t o n).val.toNat, Nat.add_comm]; exact Nat.add_lt_add_left ih _
      _ ≤ 2 ^ 32 * 2 ^ (32 * n) := Nat.mul_le_mul_right _ hw
      _ = 2 ^ (32 * (n + 1)) := by rw [← Nat.pow_add, Nat.mul_succ, Nat.add_comm]

/-- A source of n words supplies a number of n words. -/
theorem src_lt (s : State) (is : Issue) (t : Nat) (o : Opnd) (pm : Perm) {n : Nat} (hn : 0 < n) : src s is t o pm n < 2 ^ (32 * n) := by
  unfold src State.source
  split
  · dsimp only
    split
    · exact Nat.two_pow_pos _
    · exact regVal_lt ..
  · dsimp only
    split
    · exact Nat.two_pow_pos _
    · exact regVal_lt ..
  · exact regVal_lt ..
  · have hle : (if n ≤ 1 then 2 ^ 32 else 2 ^ 64) ≤ 2 ^ (32 * n) := by
      split <;> exact Nat.pow_le_pow_right (by decide) (by omega)
    exact Nat.lt_of_lt_of_le (Nat.mod_lt _ (by split <;> decide)) hle
  · exact Nat.mod_lt _ (Nat.two_pow_pos _)

theorem src_mod (s : State) (is : Issue) (t : Nat) (o : Opnd) (pm : Perm) {n : Nat} (hn : 0 < n) :
    src s is t o pm n % 2 ^ (32 * n) = src s is t o pm n := Nat.mod_eq_of_lt (src_lt s is t o pm hn)

/-! ## The words that have returned (01 R45; 08 R229) -/

@[simp] theorem Thread.advance_late (th : Thread) (size : Nat) : (th.advance size).late = th.late :=
  Thread.advance_keeps (fun _ _ => rfl) (fun _ _ => rfl) th size

/-- A register that no returned word is for stays as it is when they land. -/
theorem Thread.land_v {th : Thread} {j : Nat} (h : ∀ e ∈ th.late, e.1 ≠ j) : kvGetD RegWord.zero th.land.v j = kvGetD RegWord.zero th.v j := by
  have hf : ∀ (l : List (Nat × RegWord)) (th : Thread), (∀ e ∈ l, e.1 ≠ j) →
      kvGetD RegWord.zero (l.foldl (fun th e => th.setV e.1 [e.2]) th).v j = kvGetD RegWord.zero th.v j := fun l => by
    induction l with
    | nil => exact fun _ _ => rfl
    | cons e l ih =>
      intro th h
      rw [List.foldl_cons, ih _ (fun e he => h e (List.mem_cons_of_mem _ he)), Thread.setV_one_v, if_neg (h e List.mem_cons_self)]
  unfold Thread.land
  split
  · exact hf _ th h
  · rfl

theorem Group.land_thread_v {g : Group} {t j : Nat} (h : ∀ e ∈ (g.thread t).late, e.1 ≠ j) :
    kvGetD RegWord.zero (g.land.thread t).v j = kvGetD RegWord.zero (g.thread t).v j := by
  have ht : g.land.thread t = (g.thread t).land ∨ g.land.thread t = g.thread t := by
    unfold Group.thread
    rw [Group.land_threads]
    by_cases hl : t < g.threads.length
    · left; simp [List.getD_eq_getElem?_getD, hl]
    · right; simp [List.getD_eq_getElem?_getD, hl]
  rcases ht with ht | ht
  · rw [ht, Thread.land_v h]
  · rw [ht]

/-- The close of an instruction leaves a register for which no returned word waits. -/
theorem Group.close_thread_v {g : Group} {t j : Nat} (h : ∀ e ∈ (g.thread t).late, e.1 ≠ j) (hd : Hdr) (stamp : Nat) (out : Bool) :
    kvGetD RegWord.zero ((g.close hd stamp out).thread t).v j = kvGetD RegWord.zero (g.thread t).v j := by
  show kvGetD RegWord.zero ((landed hd.pk g).thread t).v j = _
  unfold landed
  split
  · exact Group.land_thread_v h
  · rfl

/-- A write of a register drops the returned words that wait for it. -/
theorem Thread.setV_late {th : Thread} {n i : Nat} {ws : List RegWord} (hi : i < ws.length) : ∀ e ∈ (th.setV n ws).late, e.1 ≠ n + i := by
  intro e he
  have := (List.mem_filter.mp he).2
  simp only [Bool.or_eq_true, decide_eq_true_eq] at this
  omega

/-! ## Lane instructions -/

theorem laneGroup_thread {sp : LaneSpec} {s : State} {is : Issue} {t : Nat} (ht : t ∈ is.ex) {g : Group} (hl : t < g.threads.length) :
    (laneGroup sp s is g).thread t = (written sp.dst (laneValue sp s is t).1 (g.thread t)).advance is.size := by
  simp [laneGroup, Group.thread, List.getD_eq_getElem?_getD, hl, ht]

/-- After a lane instruction a thread of EXEC holds in each word of the vector destination that word of its result. -/
theorem closed_laneGroup_v {sp : LaneSpec} {n : Fin 256} {k : Nat} (hd : sp.dst = .reg (.v n) k) (h : Hdr) (s : State) {is : Issue} {t : Nat}
    (ht : t ∈ is.ex) {g : Group} (hl : t < g.threads.length) {i : Nat} (hi : i < k) :
    kvGetD RegWord.zero ((closed h s (laneGroup sp s is g)).thread t).v (n.val + i)
      = ⟨BitVec.ofNat 32 ((laneValue sp s is t).1 / 2 ^ (32 * i)), false⟩ := by
  have hth : (laneGroup sp s is g).thread t = ((g.thread t).setV n.val (wordsOf k (laneValue sp s is t).1)).advance is.size := by
    rw [laneGroup_thread ht hl, hd]
    rfl
  rw [closed_eq, Group.close_thread_v, hth, Thread.advance_v]
  · exact fileSet_wordsOf _ _ _ hi
  · rw [hth, Thread.advance_late]
    exact Thread.setV_late (by rwa [wordsOf_length])

/-- A vector register read with no permutation is the thread's own. -/
theorem readBack_v (u : State) (is : Issue) (t : Nat) (n : Fin 256) (k : Nat) : readBack u is t (.v n) k = regVal (u.group is.key) t (.v n) k := by
  simp [readBack, State.source, permSrc]

/-- A lane instruction delivers the result of its function, modulo the width of the destination. -/
theorem gives_of_laneOf {i : Instr} {h : Hdr} {size : Nat} {sp : LaneSpec} {d : Opnd} {k : Nat} {v : State → Issue → Nat → Nat}
    (hi : laneOf i = some (h, size, sp)) (hd : sp.dst = .reg d k)
    (hv : i.wellFormed = true → ∀ s is t, (laneValue sp s is t).1 % 2 ^ (32 * k) = v s is t) : gives i d k v := by
  intro h' size' sp' s n hi' hwf hready hn hclear
  obtain ⟨rfl, rfl, rfl⟩ : h = h' ∧ size = size' ∧ sp = sp' := by simpa using hi.symm.trans hi'
  subst hn
  refine ⟨_, laneInstructionsComplete i h size sp s hi hready (by rw [hd]; rfl) hclear, fun t ht => ?_⟩
  have hl : t < (s.group s.cur).threads.length := (Group.mem_live.mp (State.live_of_mem_ex ht)).1
  rw [readBack_v, ← hv hwf]
  refine regVal_of_words (fun i hi => ?_)
  rw [show (s.issue h size).key = s.cur from rfl, afterGroup_group]
  exact congrArg RegWord.val (closed_laneGroup_v hd h s ht hl hi)

end Sys2Proof.Machine
end

section
/-!
SUPPORT. The values of BFX, LEA and SEL (05 R164, R165, R168).
-/
namespace Sys2Proof.Machine
open Sys2Proof Sys2Proof.Claims

/-! ## Bits -/

/-- A number below 2^n is the sum of its bits. -/
theorem sum_bnat_testBit (n x : Nat) : ((List.range n).map (fun j => bnat (x.testBit j) (2 ^ j))).sum = x % 2 ^ n := by
  induction n with
  | zero => simp [Nat.mod_one]
  | succ n ih =>
    have hb : bnat (x.testBit n) (2 ^ n) = 2 ^ n * (x / 2 ^ n % 2) := by
      rw [Nat.testBit_eq_decide_div_mod_eq]
      rcases Nat.mod_two_eq_zero_or_one (x / 2 ^ n) with e | e <;> simp [bnat, e]
    rw [List.range_succ, List.map_append, List.sum_append, ih, Nat.pow_succ, Nat.mod_mul, ← hb]
    simp

/-- The two's complement reading is that of bit vectors. -/
theorem toSigned_eq_toInt {w : Nat} (hw : 0 < w) (x : Nat) : Word.toSigned w x = (BitVec.ofNat w x).toInt := by
  obtain ⟨w, rfl⟩ : ∃ m, w = m + 1 := ⟨w - 1, by omega⟩
  have hhalf : 2 * (x % 2 ^ (w + 1)) < 2 ^ (w + 1) ↔ x % 2 ^ (w + 1) < 2 ^ w := by omega
  rw [BitVec.toInt_eq_toNat_cond, BitVec.toNat_ofNat]
  simp only [hhalf]
  rfl

/-- Sign extension repeats the top bit (02 R62). -/
theorem testBit_signExtended (v x j : Nat) {w : Nat} (hw : 0 < w) :
    (Word.ofSigned v (Word.toSigned w x)).testBit j = (decide (j < v) && if j < w then x.testBit j else x.testBit (w - 1)) := by
  have he : Word.ofSigned v (Word.toSigned w x) = ((BitVec.ofNat w x).signExtend v).toNat := by
    rw [toSigned_eq_toInt hw, BitVec.signExtend, BitVec.toNat_ofInt]
    rfl
  rw [he, BitVec.testBit_toNat, BitVec.getLsbD_signExtend, BitVec.msb_eq_getLsbD_last]
  simp only [BitVec.getLsbD_ofNat, show w - 1 < w by omega, decide_true, Bool.true_and]
  split
  · next h => rw [decide_eq_true h, Bool.true_and]
  · rfl

/-! ## BFX (05 R164) -/

/-- Bit i of the operand a of BFX: above bit 31 it reads as bit 31 for s32 and as 0 for n32. -/
def bfxBit (sg : Bool) (a i : Nat) : Bool := if i < 32 then a.testBit i else sg && a.testBit 31

theorem testBit_bfxWide (sg : Bool) (a : Nat) {i : Nat} (hi : i < 64) :
    (if sg then Word.ofSigned 64 (Word.toSigned 32 a) else a % 2 ^ 32).testBit i = bfxBit sg a i := by
  cases sg with
  | true => simp [testBit_signExtended, bfxBit, hi]
  | false =>
    simp only [Bool.false_eq_true, if_false, Nat.testBit_mod_two_pow, bfxBit]
    by_cases h : i < 32 <;> simp [h]

/-- Bit i of the field of len bits from bit pos up. -/
theorem testBit_bfxField (sg : Bool) (a : Nat) {pos len i : Nat} (hi : i < len) (h : pos + i < 64) :
    ((if sg then Word.ofSigned 64 (Word.toSigned 32 a) else a % 2 ^ 32) / 2 ^ pos % 2 ^ len).testBit i = bfxBit sg a (pos + i) := by
  rw [Nat.testBit_mod_two_pow, decide_eq_true hi, Bool.true_and, Nat.testBit_div_two_pow, Nat.add_comm i, testBit_bfxWide sg a h]

/-- Each bit of what BFX delivers: of the field below its length, and of its extension from there. -/
theorem testBit_bitField (sg : Bool) (a b : Nat) {j : Nat} (hj : j < 32) :
    (bitField sg a b).testBit j =
      if min (b / 256 % 256) 32 = 0 then false
      else if j < min (b / 256 % 256) 32 then bfxBit sg a (min (b % 256) 32 + j)
      else sg && bfxBit sg a (min (b % 256) 32 + min (b / 256 % 256) 32 - 1) := by
  have hpos : min (b % 256) 32 ≤ 32 := Nat.min_le_right _ _
  have hlen : min (b / 256 % 256) 32 ≤ 32 := Nat.min_le_right _ _
  unfold bitField
  generalize min (b % 256) 32 = pos at *
  generalize min (b / 256 % 256) 32 = len at *
  dsimp only
  by_cases h0 : len = 0
  · rw [if_pos h0, if_pos h0, Nat.zero_testBit]
  rw [if_neg h0, if_neg h0]
  have hfield := fun i (hi : i < len) => testBit_bfxField sg a hi (show pos + i < 64 by omega)
  cases sg with
  | true =>
    have hl : 0 < len := Nat.pos_of_ne_zero h0
    rw [if_pos rfl, testBit_signExtended _ _ _ hl, decide_eq_true hj, hfield (len - 1) (Nat.sub_one_lt h0), Bool.true_and, Bool.true_and,
      Nat.add_sub_assoc hl]
    split
    · next h => exact hfield j h
    · rfl
  | false =>
    simp only [Bool.false_eq_true, if_false, Bool.false_and] at hfield ⊢
    split
    · next h => exact hfield j h
    · next h => rw [Nat.testBit_mod_two_pow, decide_eq_false h, Bool.false_and]

/-- BFX delivers the field as the sum of its bits. -/
theorem bitField_eq_sum (sg : Bool) (a b : Nat) :
    bitField sg a b % 2 ^ 32 = ((List.range 32).map (fun j =>
      if min (b / 256 % 256) 32 = 0 then 0
      else if j < min (b / 256 % 256) 32 then bnat (bfxBit sg a (min (b % 256) 32 + j)) (2 ^ j)
      else bnat (sg && bfxBit sg a (min (b % 256) 32 + min (b / 256 % 256) 32 - 1)) (2 ^ j))).sum := by
  rw [← sum_bnat_testBit]
  refine congrArg List.sum (List.map_congr_left (fun j hj => ?_))
  rw [testBit_bitField sg a b (List.mem_range.mp hj)]
  split
  · rfl
  · split <;> rfl

/-! ## LEA (05 R165) -/

theorem toSigned_eq_signed (w x : Nat) : Word.toSigned w x = signed w x := by
  unfold Word.toSigned signed
  push_cast
  rfl

/-- EXT of an index below 2^32: its value under a 32-bit type. -/
theorem tyVal_of_ty32 {t : Ty} (ht : t = .s32 ∨ t = .n32) {x : Nat} (hx : x < 2 ^ 32) :
    tyVal t x = if t = Ty.s32 then signed 32 x else (x : Int) := by
  rcases ht with rfl | rfl
  · exact toSigned_eq_signed 32 x
  · exact congrArg Nat.cast (Nat.mod_eq_of_lt hx)

theorem ofSigned_mod (w : Nat) (x : Int) : Word.ofSigned w x % 2 ^ w = (x % 2 ^ w).toNat := by
  have hlt : x % 2 ^ w < ((2 ^ w : Nat) : Int) := by
    push_cast
    exact Int.emod_lt_of_pos x (Int.pow_pos (by decide))
  unfold Word.ofSigned
  push_cast
  exact Nat.mod_eq_of_lt ((Int.toNat_lt' (Nat.two_pow_pos w)).mpr hlt)

theorem laneValue_lea {f : F2} (ht : f.ty = .s32 ∨ f.ty = .n32) (s : State) (is : Issue) (t : Nat) :
    (laneValue (specLea f) s is t).1 % 2 ^ 64 = (((src s is t f.a f.pa 2 : Int)
      + (if f.ty = Ty.s32 then signed 32 (src s is t f.b f.pb 1) else (src s is t f.b f.pb 1 : Int)) * 2 ^ f.sub.val) % 2 ^ 64).toNat := by
  rw [← tyVal_of_ty32 ht (src_lt s is t f.b f.pb Nat.one_pos)]
  exact (ofSigned_mod 64 _).trans (by push_cast; rfl)

/-! ## SEL (05 R168) -/

theorem tyWords_pos (t : Ty) : 0 < tyWords t := by unfold tyWords; split <;> decide

theorem laneValue_sel (f : F2) (s : State) (is : Issue) (t : Nat) : (laneValue (specSel f) s is t).1 =
    if ((s.group is.key).thread t).pred f.sub.val then src s is t f.a f.pa (tyWords f.ty) else src s is t f.b f.pb (tyWords f.ty) := by
  cases hp : ((s.group is.key).thread t).pred f.sub.val <;> simp [laneValue, specSel, State.srcOf, argN, hp, src]

/-- A selection of two sources is as wide as they are. -/
theorem laneValue_sel_mod (f : F2) (s : State) (is : Issue) (t : Nat) :
    (laneValue (specSel f) s is t).1 % 2 ^ (32 * tyWords f.ty) = (laneValue (specSel f) s is t).1 := by
  rw [laneValue_sel]
  split
  · exact src_mod _ _ _ _ _ (tyWords_pos _)
  · exact src_mod _ _ _ _ _ (tyWords_pos _)

/-! ## What is well formed -/

theorem ty32_iff {t : Ty} : ty32 t = true ↔ t = .s32 ∨ t = .n32 := by cases t <;> simp [ty32]
theorem tyBitsOk_iff {t : Ty} : tyBitsOk t = true ↔ t = .b32 ∨ t = .n64 := by cases t <;> simp [tyBitsOk]

theorem wellFormed_bfx {f : F2} (h : (Instr.bfx f).wellFormed = true) : (f.ty = .s32 ∨ f.ty = .n32) ∧ f.sub = 0 ∧ f.sat = false := by
  have h : okBfx f = true := h
  simp only [okBfx, Bool.and_eq_true, ty32_iff, decide_eq_true_eq, Bool.not_eq_true'] at h
  obtain ⟨⟨⟨⟨⟨⟨hty, -⟩, hsat⟩, hsub⟩, -⟩, -⟩, -⟩ := h
  exact ⟨hty, Fin.ext hsub, hsat⟩

theorem wellFormed_lea {f : F2} (h : (Instr.lea f).wellFormed = true) : (f.ty = .s32 ∨ f.ty = .n32) ∧ f.sat = false := by
  have h : okLea f = true := h
  simp only [okLea, Bool.and_eq_true, ty32_iff, Bool.not_eq_true'] at h
  obtain ⟨⟨⟨⟨⟨hty, -⟩, hsat⟩, -⟩, -⟩, -⟩ := h
  exact ⟨hty, hsat⟩

theorem wellFormed_sel {f : F2} (h : (Instr.sel f).wellFormed = true) : (f.ty = .b32 ∨ f.ty = .n64) ∧ f.sat = false := by
  have h : okSel f = true := h
  simp only [okSel, Bool.and_eq_true, tyBitsOk_iff, Bool.not_eq_true'] at h
  obtain ⟨⟨⟨⟨⟨hty, -⟩, hsat⟩, -⟩, -⟩, -⟩ := h
  exact ⟨hty, hsat⟩

/-- Settles O57: each is a lane instruction, which delivers what its function gives of its sources. -/
theorem integerValues : Obligations.IntegerValues := by
  refine ⟨fun f => ?bfx, fun _ => wellFormed_bfx, fun f => ?lea, fun _ => wellFormed_lea, fun f => ?sel, fun _ => wellFormed_sel⟩
  case bfx => exact gives_of_laneOf rfl rfl (fun _ _ _ _ => bitField_eq_sum _ _ _)
  case lea => exact gives_of_laneOf rfl rfl (fun hwf => laneValue_lea (wellFormed_lea hwf).1)
  case sel => exact gives_of_laneOf rfl rfl (fun _ s is t => (laneValue_sel_mod f s is t).trans (laneValue_sel f s is t))

end Sys2Proof.Machine
end

section
/-!
SUPPORT. Participants in ascending order, and the matches, folds and ranks of what they contribute (07 R210 to R212).
-/
namespace Sys2Proof.Machine
open Sys2Proof Sys2Proof.Claims

/-! ## Participants in ascending order (07 R211, R212) -/

section
variable {ps pre post : List (Nat × Nat)} {p : Nat × Nat}

/-- Below a participant stand those before it. -/
theorem filter_fst_lt (h : (pre ++ p :: post).Pairwise (fun a b => a.1 < b.1)) : (pre ++ p :: post).filter (fun q => q.1 < p.1) = pre := by
  obtain ⟨-, hpost, hpre⟩ := List.pairwise_append.mp h
  obtain ⟨hp, -⟩ := List.pairwise_cons.mp hpost
  rw [List.filter_append, List.filter_eq_self.mpr (fun q hq => by simpa using hpre q hq p List.mem_cons_self),
    List.filter_cons_of_neg (by simp), List.filter_eq_nil_iff.mpr (fun q hq => by simpa using Nat.le_of_lt (hp q hq)), List.append_nil]

/-- Up to a participant stand those before it, and itself. -/
theorem filter_fst_le (h : (pre ++ p :: post).Pairwise (fun a b => a.1 < b.1)) : (pre ++ p :: post).filter (fun q => q.1 ≤ p.1) = pre ++ [p] := by
  obtain ⟨-, hpost, hpre⟩ := List.pairwise_append.mp h
  obtain ⟨hp, -⟩ := List.pairwise_cons.mp hpost
  rw [List.filter_append, List.filter_eq_self.mpr (fun q hq => by simpa using Nat.le_of_lt (hpre q hq p List.mem_cons_self)),
    List.filter_cons_of_pos (by simp), List.filter_eq_nil_iff.mpr (fun q hq => by simpa using hp q hq)]

end

/-- Each participant's own contribution. -/
theorem lookup_of_mem {ps : List (Nat × Nat)} {p : Nat × Nat} (h : ps.Pairwise (fun a b => a.1 < b.1)) (hp : p ∈ ps) : ps.lookup p.1 = some p.2 := by
  induction ps with
  | nil => cases hp
  | cons q ps ih =>
    obtain ⟨hq, hps⟩ := List.pairwise_cons.mp h
    rcases List.mem_cons.mp hp with rfl | hp
    · exact List.lookup_cons_self
    · rw [List.lookup_cons, beq_eq_false_iff_ne.mpr (Nat.ne_of_gt (hq p hp))]
      exact ih hps hp

theorem map_lookup {ps : List (Nat × Nat)} (h : ps.Pairwise (fun a b => a.1 < b.1)) : ps.map (fun p => (p.1, (ps.lookup p.1).getD 0)) = ps :=
  (List.map_congr_left (fun p hp => by rw [lookup_of_mem h hp]; rfl)).trans (List.map_id ps)

/-- A match's masks name each participant's equals (07 R210). -/
theorem matchFn_eq {ps : List (Nat × Nat)} (h : ps.Pairwise (fun a b => a.1 < b.1)) (w : Nat) :
    matchFn w ps = ps.map (fun p => (p.1, maskOf (those ps (fun q => q.2 % 2 ^ w = (ps.lookup p.1).getD 0 % 2 ^ w)))) :=
  List.map_congr_left (fun p hp => by rw [lookup_of_mem h hp]; rfl)

/-! ## Folds and ranks (07 R211, R212) -/

/-- The running value and its flags once one more value has been combined. -/
def foldStep (f : F2) (x : Nat × FFlags) (b : Nat) : Nat × FFlags :=
  ((combine f.sub f.ty f.rnd x.1 b).1, x.2 ||| (combine f.sub f.ty f.rnd x.1 b).2)

theorem running_cons (f : F2) (a : Nat) (as : List Nat) : running f (a :: as) = some (as.foldl (foldStep f) (entering f.ty a, 0)) := rfl

theorem running_append_singleton (f : F2) {as : List Nat} {x : Nat × FFlags} (h : running f as = some x) (b : Nat) :
    running f (as ++ [b]) = some (foldStep f x b) := by
  cases as with
  | nil => cases h
  | cons a as =>
    rw [running_cons, Option.some.injEq] at h
    rw [List.cons_append, running_cons, List.foldl_append, h]
    rfl

theorem runValue_of_running {f : F2} {as : List Nat} {x : Nat × FFlags} (h : running f as = some x) : runValue f as = x.1 := by
  unfold runValue; rw [h]

theorem running_eq_none {f : F2} {as : List Nat} : running f as = none ↔ as = [] := by cases as <;> simp [running]

/-- Step by step, a fold gives each participant the running values of those below it and up to it. -/
theorem map_foldParts (f : F2) (k : Nat → Nat → Nat) (pre ps : List (Nat × Nat)) (h : (pre ++ ps).Pairwise (fun a b => a.1 < b.1)) :
    (foldParts f.sub f.ty f.rnd ((running f (pre.map (·.2))).map (·.1)) ps).map (fun r => (r.t, k r.before r.after))
      = ps.map (fun p => (p.1, k (runValue f (((pre ++ ps).filter (fun q => q.1 < p.1)).map (·.2)))
          (runValue f (((pre ++ ps).filter (fun q => q.1 ≤ p.1)).map (·.2))))) := by
  induction ps generalizing pre with
  | nil => cases running f (pre.map (·.2)) <;> rfl
  | cons p ps ih =>
    have ih := ih (pre ++ [p]) (by simpa using h)
    rw [List.append_assoc, List.singleton_append, List.map_append, List.map_singleton] at ih
    rw [List.map_cons, filter_fst_lt h, filter_fst_le h, List.map_append, List.map_singleton, ← ih]
    cases e : running f (pre.map (·.2)) with
    | none =>
      rw [running_eq_none.mp e]
      rfl
    | some x =>
      have e' := running_append_singleton f e p.2
      rw [e', runValue_of_running e, runValue_of_running e']
      rfl

/-- A fold goes on from a running value as the combination of the rest: its flags. -/
theorem foldParts_flags (f : F2) (ps : List (Nat × Nat)) (x : Nat × FFlags) :
    (foldParts f.sub f.ty f.rnd (some x.1) ps).foldl (fun w r => w ||| r.fl) x.2 = ((ps.map (·.2)).foldl (foldStep f) x).2 := by
  induction ps generalizing x with
  | nil => rfl
  | cons p ps ih => exact ih (foldStep f x p.2)

/-- The same of its end, after the step that left the running value. -/
theorem foldEnd_cons_foldParts (f : F2) (ps : List (Nat × Nat)) (x : Nat × FFlags) {r : FoldStep} (hr : r.after = x.1) :
    foldEnd (r :: foldParts f.sub f.ty f.rnd (some x.1) ps) = ((ps.map (·.2)).foldl (foldStep f) x).1 := by
  induction ps generalizing x r with
  | nil => exact hr
  | cons p ps ih => exact ih (foldStep f x p.2) rfl

/-- The flags of all steps. -/
theorem foldParts_none_flags (f : F2) (ps : List (Nat × Nat)) :
    (foldParts f.sub f.ty f.rnd none ps).foldl (fun w r => w ||| r.fl) 0 = runFlags f (ps.map (·.2)) := by
  cases ps with
  | nil => rfl
  | cons p ps =>
    show (foldParts f.sub f.ty f.rnd (some (entering f.ty p.2)) ps).foldl (fun w r => w ||| r.fl) (0 ||| 0) = _
    rw [BitVec.or_self]
    exact foldParts_flags f ps (entering f.ty p.2, 0)

/-- The value that a fold of at least one participant ends with. -/
theorem foldEnd_foldParts (f : F2) {ps : List (Nat × Nat)} (h : ps ≠ []) :
    foldEnd (foldParts f.sub f.ty f.rnd none ps) = runValue f (ps.map (·.2)) := by
  cases ps with
  | nil => exact absurd rfl h
  | cons p ps => exact foldEnd_cons_foldParts f ps (entering f.ty p.2, 0) rfl

/-- A rank counts the participants below whose predicate holds. -/
theorem rankFn_eq (pre ps : List (Nat × Nat)) (h : (pre ++ ps).Pairwise (fun a b => a.1 < b.1)) (hb : ∀ p ∈ ps, p.2 = 0 ∨ p.2 = 1) :
    rankFn (those pre (fun q => q.2 = 1)).length ps = ps.map (fun p => (p.1, (those (pre ++ ps) (fun q => q.1 < p.1 && q.2 = 1)).length)) := by
  induction ps generalizing pre with
  | nil => rfl
  | cons p ps ih =>
    have hbelow : those (pre ++ p :: ps) (fun q => q.1 < p.1 && q.2 = 1) = those pre (fun q => q.2 = 1) := by
      have hboth : (pre ++ p :: ps).filter (fun q => q.1 < p.1 && q.2 = 1) = ((pre ++ p :: ps).filter (fun q => q.1 < p.1)).filter (fun q => q.2 = 1) := by
        rw [List.filter_filter]
        exact List.filter_congr (fun q _ => Bool.and_comm _ _)
      unfold those
      rw [hboth, filter_fst_lt h]
    have hnext : (those pre (fun q => q.2 = 1)).length + p.2 = (those (pre ++ [p]) (fun q => q.2 = 1)).length := by
      rcases hb p List.mem_cons_self with e | e <;> simp [those, List.filter_append, e]
    have ih := ih (pre ++ [p]) (by simpa using h) (fun q hq => hb q (List.mem_cons_of_mem _ hq))
    rw [List.append_assoc, List.singleton_append] at ih
    rw [List.map_cons, hbelow, ← ih, ← hnext]
    rfl

end Sys2Proof.Machine
end

section
/-!
SUPPORT. The passes of the cross-thread instructions (07 R206, R208), where no thread dies.
-/
namespace Sys2Proof.Machine
open Sys2Proof Sys2Proof.Claims

/-! ## Flags (01 R38, R49) -/

theorem flagged_flagged (fl fl' : FFlags) (d d' : Bool) (w : Word) : flagged fl' d' (flagged fl d w) = flagged (fl ||| fl') (d || d') w := by
  have hor : (fl ||| fl').zeroExtend 32 = fl.zeroExtend 32 ||| fl'.zeroExtend 32 := BitVec.setWidth_or
  have hdead : (if d || d' then 64 else 0 : Word) = (if d then 64 else 0) ||| (if d' then 64 else 0) := by cases d <;> cases d' <;> rfl
  unfold flagged
  rw [hor, hdead]
  ac_rfl

/-- Two changes of a thread, with flags raised between them, are one. -/
theorem Group.modThread_flag_modThread (g : Group) (t : Nat) (a b : Thread → Thread) (fl : FFlags) (dead : Bool) :
    ((g.modThread t a).flag fl dead).modThread t b = (g.modThread t (fun th => b (a th))).flag fl dead := by
  simp [Group.modThread, Group.flag, List.modify_modify_eq, Function.comp_def]

theorem Group.flag_flag (g : Group) (fl fl' : FFlags) (d d' : Bool) : (g.flag fl d).flag fl' d' = g.flag (fl ||| fl') (d || d') := by
  unfold Group.flag
  rw [flagged_flagged]

/-- A dead read and then flags. -/
theorem Group.flag_dead_flag (g : Group) (fl : FFlags) (dead : Bool) : (g.flag 0 dead).flag fl false = g.flag fl dead := by
  have hz : (0 : FFlags) ||| fl = fl := BitVec.zero_or
  rw [Group.flag_flag, hz, Bool.or_false]

@[simp] theorem Group.flag_none (g : Group) : g.flag 0 false = g := by simp [Group.flag, flagged]

theorem foldl_flagged (fl : Nat → FFlags) (ts : List Nat) (w : Word) :
    ts.foldl (fun w t => flagged (fl t) false w) w = flagged (ts.foldl (fun f t => f ||| fl t) 0) false w := by
  have h : ∀ f, ts.foldl (fun w t => flagged (fl t) false w) (flagged f false w) = flagged (ts.foldl (fun f t => f ||| fl t) f) false w := by
    induction ts with
    | nil => exact fun _ => rfl
    | cons t ts ih =>
      intro f
      rw [List.foldl_cons, flagged_flagged]
      exact ih _
  simpa [flagged] using h 0

theorem Group.flag_live (g : Group) (fl : FFlags) (dead : Bool) : (g.flag fl dead).live = g.live := rfl

theorem onThreads_flag (g : Group) (fl : FFlags) (dead : Bool) (ts : List Nat) (f : Nat → Thread → Thread) :
    onThreads (g.flag fl dead) ts f = (onThreads g ts f).flag fl dead := rfl
theorem Group.setS_flag (g : Group) (fl : FFlags) (dead : Bool) (n : Nat) (ws : List RegWord) : (g.flag fl dead).setS n ws = (g.setS n ws).flag fl dead := rfl

theorem Group.ReadsAs.flag {g g' : Group} (h : g.ReadsAs g') (fl : FFlags) (dead : Bool) : g.ReadsAs (g'.flag fl dead) := { h with }

/-! ## The threads of EXEC -/

theorem State.issue_ex_ascending (s : State) (h : Hdr) (size : Nat) : (s.issue h size).ex.Pairwise (· < ·) :=
  List.Pairwise.sublist ((s.issue_ex_sublist h size).trans ((s.group s.cur).issuing_sublist.trans List.filter_sublist)) List.pairwise_lt_range

/-- The guarded-off threads pass, and then those of EXEC do, each after a change of its own. -/
theorem onThreads_past {is : Issue} (hex : is.ex.Sublist is.issuing) (g : Group) (f : Nat → Thread → Thread) :
    onThreads (is.past g) is.ex (fun t th => (f t th).advance is.size)
      = onThreads g is.issuing (fun t th => (if is.ex.contains t then f t th else th).advance is.size) := by
  unfold Issue.past
  rw [onThreads_onThreads]
  refine onThreads_congr (fun j _ => ?_)
  have hi := Issue.mem_issuing_iff hex (t := j)
  have ho := Issue.mem_guardedOff (is := is) (t := j)
  by_cases a : j ∈ is.ex <;> by_cases b : j ∈ is.guardedOff <;> simp_all

/-- Where EXEC lives, all of it passes. -/
theorem State.Holds.passLive {s u : State} {g : Group} {is : Issue} (hk : is.key = s.cur) (hu : s.Holds u g) (hnd : is.ex.Nodup)
    (hl : ∀ t ∈ is.ex, (g.thread t).st = .live) : s.Holds (u.passLive is) (onThreads g is.ex (fun _ th => th.advance is.size)) := by
  have h : ∀ ts : List Nat, (∀ t ∈ ts, (g.thread t).st = .live) →
      s.Holds (ts.foldl (fun s t => if ((s.group is.key).thread t).st = .live then s.pass is t else s) u)
        (ts.foldl (fun g t => g.modThread t (fun th => th.advance is.size)) g) := fun ts => by
    clear hl
    induction ts generalizing u g with
    | nil => exact fun _ => hu
    | cons t ts ih =>
      intro hl
      have hp : s.Holds (if ((u.group is.key).thread t).st = .live then u.pass is t else u) (g.modThread t (fun th => th.advance is.size)) := by
        rw [hk, hu.group_eq, if_pos (hl t List.mem_cons_self), State.pass, hk]
        exact hu.modThread t _
      refine ih hp (fun j hj => ?_)
      rw [Group.modThread_st (fun th => th.advance_st _)]
      exact hl j (List.mem_cons_of_mem _ hj)
  rw [← foldl_modThread hnd]
  exact h is.ex hl

theorem State.Holds.deadRead {s u : State} {g : Group} (h : s.Holds u g) (dead : Bool) : s.Holds (u.deadRead s.cur dead) (g.flag 0 dead) :=
  h.flags 0 dead

/-! ## The passes (07 R206, R208) -/

/-- Results that name threads once each, with the flags of each thread's step. -/
theorem exists_flags {os : List CrossOut} {ts : List Nat} {r : Nat → Nat} (hts : ts.Nodup)
    (h : os.map (fun o => (o.t, o.x)) = ts.map (fun t => (t, r t))) : ∃ fl : Nat → FFlags, os = ts.map (fun t => ⟨t, r t, fl t⟩) := by
  induction ts generalizing os with
  | nil => exact ⟨fun _ => 0, by simpa using h⟩
  | cons t ts ih =>
    obtain ⟨ht, hnd⟩ := List.nodup_cons.mp hts
    obtain ⟨o, os, rfl, ho, hos⟩ := List.map_eq_cons_iff.mp h
    obtain ⟨rfl, hx⟩ := Prod.mk.inj ho
    obtain ⟨fl, rfl⟩ := ih hnd hos
    have hrest : ∀ j ∈ ts, j ≠ o.t := fun j hj e => ht (e ▸ hj)
    exact ⟨fun j => if j = o.t then o.fl else fl j, List.cons_eq_cons.mpr
      ⟨by simp [← hx], List.map_congr_left (fun j hj => by simp only [hrest j hj, if_false])⟩⟩

section
variable {s : State} {is : Issue} (hk : is.key = s.cur) (hvotes : s.env.votes = [])
include hk hvotes

/-- The read pass over participants whose contributions are not poisoned: it raises their dead reads. -/
theorem State.Holds.gather {u v : State} {g : Group} (c : Cls) {rd : State → State → Nat → Src} {x : Nat → Src} {ts : List Nat}
    (hrd : ∀ v g, s.Holds v g → (s.group s.cur).ReadsAs g → ∀ t, rd u v t = x t) (hx : ∀ t ∈ ts, (x t).pois = false)
    (hv : s.Holds v g) (hr : (s.group s.cur).ReadsAs g) :
    ∃ w, Machine.gather c is u false rd ts v = some ⟨w, ts.map (fun t => (t, (x t).val))⟩ ∧ s.Holds w (g.flag 0 (ts.any (fun t => (x t).dead))) := by
  induction ts generalizing v g with
  | nil => exact ⟨v, rfl, by rwa [List.any_nil, Group.flag_none]⟩
  | cons t ts ih =>
    have hsame : v.verdict c t = .same := by simp [State.verdict, hv.env_eq, hvotes]
    obtain ⟨w, hw, hh⟩ := ih (fun t ht => hx t (List.mem_cons_of_mem _ ht)) (hv.deadRead (x t).dead) (hr.flag 0 (x t).dead)
    refine ⟨w, ?_, ?_⟩
    · unfold Machine.gather
      simp only [State.clockRecord, Bool.not_false, if_true, hrd v g hv hr, hx t List.mem_cons_self, Bool.false_eq_true, if_false, hsame]
      rw [hk, hw]
      rfl
    · rw [Group.flag_flag] at hh
      simpa using hh

/-- The write pass, thread by thread. -/
theorem State.Holds.deliver {v : State} {g : Group} (c : Cls) {d : DstSpec} (hd : d.isUniform = false) (pass : Bool) {os : List CrossOut}
    {ts : List Nat} {r : Nat → Nat} (hts : ts.Nodup) (hos : os.map (fun o => (o.t, o.x)) = ts.map (fun t => (t, r t))) (hv : s.Holds v g) :
    s.Holds (Machine.deliver c is d pass os v)
      ((onThreads g ts (fun t th => (written d (r t) th).advance is.size)).flag (os.foldl (fun w o => w ||| o.fl) 0) false) := by
  have hput : ∀ {v g}, s.Holds v g → ∀ o : CrossOut, s.Holds (((v.putResult is.key o.t d o.x).raiseFlags is.key o.fl).pass is o.t)
      ((g.modThread o.t (fun th => (written d o.x th).advance is.size)).flag o.fl false) := fun {v g} hv o => by
    have h := ((hv.putResult o.t d o.x).flags o.fl false).modThread o.t (fun th => th.advance is.size)
    rw [Group.put_of_thread hd, Group.modThread_flag_modThread] at h
    rwa [State.pass, hk]
  have hall : ∀ os {v g}, s.Holds v g → s.Holds (Machine.deliver c is d pass os v)
      (os.foldl (fun g o => (g.modThread o.t (fun th => (written d o.x th).advance is.size)).flag o.fl false) g) := fun os => by
    induction os with
    | nil => exact fun hv => hv
    | cons o os ih =>
      intro v g hv
      have hsame : v.verdict c (64 + o.t) = .same := by simp [State.verdict, hv.env_eq, hvotes]
      unfold Machine.deliver
      simp only [hsame, ite_self]
      exact ih (hput hv o)
  obtain ⟨fl, rfl⟩ := exists_flags hts hos
  have h := hall (ts.map (fun t => ⟨t, r t, fl t⟩)) hv
  rw [List.foldl_map, foldl_modThread_flag hts (fun t th => (written d (r t) th).advance is.size) fl (fun _ => false), foldl_flagged] at h
  rwa [List.foldl_map (f := fun t => (⟨t, r t, fl t⟩ : CrossOut))]

/-- A uniform result is written once. -/
theorem State.Holds.deliverOnce {v : State} {g : Group} (c : Cls) (n : Fin 512) (k x : Nat) (fl : FFlags) (ts : List Nat) (hnd : is.ex.Nodup)
    (hl : ∀ t ∈ is.ex, (g.thread t).st = .live) (hv : s.Holds v g) :
    s.Holds (Machine.deliverOnce c is (.reg (.s n) k) x fl ts v)
      ((onThreads (g.setS n.val (wordsOf k x)) is.ex (fun _ th => th.advance is.size)).flag fl false) := by
  have hsame : v.verdict c 32 = .same := by simp [State.verdict, hv.env_eq, hvotes]
  have hf : s.Holds ((v.putResult is.key 0 (.reg (.s n) k) x).raiseFlags is.key fl) ((g.setS n.val (wordsOf k x)).flag fl false) := by
    rw [hk]
    exact (hv.putResult 0 (.reg (.s n) k) x).flags fl false
  unfold Machine.deliverOnce
  rw [hsame]
  exact State.Holds.passLive hk hf hnd hl

end

end Sys2Proof.Machine
end

section
/-!
SUPPORT. What a cross-thread instruction leaves of its group, and the specifications that do what 07 describes.
-/
namespace Sys2Proof.Machine
open Sys2Proof Sys2Proof.Claims

/-- Only a uniform register is a uniform destination (01 R48). -/
theorem DstSpec.isUniform_iff {d : DstSpec} : d.isUniform = true ↔ ∃ n k, d = .reg (.s n) k := by
  cases d with
  | reg o k => cases o <;> simp [DstSpec.isUniform, opIsUniform]
  | _ => simp [DstSpec.isUniform]

/-! ## The group after a cross-thread instruction -/

/-- The participants, each with what it contributes. -/
def contributions (c : Cross) (s : State) : List (Nat × Nat) := (s.issue c.h 8).ex.map (fun t => (t, (c.src (s.issue c.h 8) s t).val))

/-- Whether a participant has read from a dead thread. -/
def crossDead (c : Cross) (s : State) : Bool := (s.issue c.h 8).ex.any (fun t => (c.src (s.issue c.h 8) s t).dead)

theorem contributions_ascending (c : Cross) (s : State) : (contributions c s).Pairwise (fun p q => p.1 < q.1) :=
  List.pairwise_map.mpr (s.issue_ex_ascending c.h 8)

theorem crossGroup_perThread {c : Cross} (hd : c.dst.isUniform = false) (s : State) (g : Group) : crossGroup c s g
    = (onThreads ((s.issue c.h 8).past g) (s.issue c.h 8).ex (fun t th => (written c.dst (c.res (contributions c s) t) th).advance (s.issue c.h 8).size)).flag
        (c.fl (contributions c s)) (crossDead c s) := by
  rw [onThreads_past (s.issue_ex_sublist c.h 8)]
  unfold crossGroup
  dsimp only
  split
  · next e => rw [e] at hd; simp [DstSpec.isUniform, opIsUniform] at hd
  · rfl

theorem crossGroup_uniform {c : Cross} {n : Fin 512} {k : Nat} (hd : c.dst = .reg (.s n) k) (s : State) (g : Group) : crossGroup c s g
    = (onThreads (((s.issue c.h 8).past g).setS n.val (wordsOf k (c.res (contributions c s) (s.issue c.h 8).lowest))) (s.issue c.h 8).ex
        (fun _ th => th.advance (s.issue c.h 8).size)).flag (c.fl (contributions c s)) (crossDead c s) := by
  have h := passed_eq (s.issue_ex_sublist c.h 8) (g.setS n.val (wordsOf k (c.res (contributions c s) (s.issue c.h 8).lowest)))
  unfold crossGroup
  rw [hd]
  dsimp only
  exact congrArg (fun g => g.flag (c.fl (contributions c s)) (crossDead c s)) h.symm

theorem crossGroup_live (c : Cross) (s : State) (g : Group) : (crossGroup c s g).live = g.live := by
  have hpast : ((s.issue c.h 8).past g).live = g.live := onThreads_live (fun _ th => th.advance_st _) _
  cases hd : c.dst.isUniform with
  | false =>
    rw [crossGroup_perThread hd, Group.flag_live, onThreads_live (fun _ th => by rw [Thread.advance_st, written_st]), hpast]
  | true =>
    obtain ⟨n, k, hd⟩ := DstSpec.isUniform_iff.mp hd
    rw [crossGroup_uniform hd, Group.flag_live, onThreads_live (fun _ th => th.advance_st _)]
    exact hpast

/-! ## The write pass of a cross-thread instruction -/

section
variable {c : Cross} {s w : State} (hvotes : s.env.votes = [])
  (hw : s.Holds w (((s.issue c.h 8).past (s.group s.cur)).flag 0 (crossDead c s)))
include hvotes hw

theorem State.Holds.deliver_crossGroup (cl : Cls) (hd : c.dst.isUniform = false) (pass : Bool) {os : List CrossOut}
    (hos : os.map (fun o => (o.t, o.x)) = (contributions c s).map (fun p => (p.1, c.res (contributions c s) p.1)))
    (hfl : os.foldl (fun fl o => fl ||| o.fl) 0 = c.fl (contributions c s)) :
    s.Holds (Machine.deliver cl (s.issue c.h 8) c.dst pass os w) (crossGroup c s (s.group s.cur)) := by
  have hos : os.map (fun o => (o.t, o.x)) = (s.issue c.h 8).ex.map (fun t => (t, c.res (contributions c s) t)) :=
    hos.trans (by simp [contributions])
  have h := State.Holds.deliver (is := s.issue c.h 8) rfl hvotes cl hd pass (s.issue_ex_nodup c.h 8) hos hw
  rw [crossGroup_perThread hd]
  simpa only [hfl, onThreads_flag, Group.flag_dead_flag] using h

theorem State.Holds.deliverOnce_crossGroup (cl : Cls) (hd : c.dst.isUniform = true) (ts : List Nat) :
    s.Holds (Machine.deliverOnce cl (s.issue c.h 8) c.dst (c.res (contributions c s) (s.issue c.h 8).lowest) (c.fl (contributions c s)) ts w)
      (crossGroup c s (s.group s.cur)) := by
  obtain ⟨n, k, hd⟩ := DstSpec.isUniform_iff.mp hd
  have hlive : ∀ t ∈ (s.issue c.h 8).ex, ((((s.issue c.h 8).past (s.group s.cur)).flag 0 (crossDead c s)).thread t).st = .live := fun t ht => by
    refine (thread_advance_congr (a := Thread.st) (fun th => th.advance_st _) _ _ t).trans (Group.mem_live.mp (State.live_of_mem_ex ht)).2
  have h := State.Holds.deliverOnce (is := s.issue c.h 8) rfl hvotes cl n k (c.res (contributions c s) (s.issue c.h 8).lowest) (c.fl (contributions c s)) ts
    (s.issue_ex_nodup c.h 8) hlive hw
  rw [crossGroup_uniform hd, hd]
  simpa only [Group.setS_flag, onThreads_flag, Group.flag_dead_flag] using h

end

/-! ## A specification that does what 07 describes -/

/-- What crossClear asks for. -/
theorem crossClear_spec {i : Instr} {c : Cross} {s : State} (h : crossClear i c s = true) :
    ready c.h 8 s = true ∧ crossBad i = false ∧ (c.dst.isUniform && c.noUni) = false
      ∧ (∀ o n, c.dst = .reg o n → regOut (s.roleOf s.cur).vregs (s.roleOf s.cur).sregs o n = false)
      ∧ (∀ o pm n cf, SrcSpec.reg o pm n cf ∈ c.srcs → regOut (s.roleOf s.cur).vregs (s.roleOf s.cur).sregs o n = false ∧ opIsClk o = false)
      ∧ ∀ t ∈ (s.issue c.h 8).ex, (c.src (s.issue c.h 8) s t).pois = false := by
  simp only [crossClear, Bool.and_eq_true, Bool.not_eq_true', List.all_eq_true, List.any_eq_false, Bool.or_eq_true, not_or] at h
  obtain ⟨⟨⟨⟨⟨hready, hbad⟩, huni⟩, hdst⟩, hsrcs⟩, hpois⟩ := h
  refine ⟨hready, hbad, huni, fun o n hd => by rwa [hd] at hdst, fun o pm n cf hx => ?_, hpois⟩
  simpa using hsrcs _ hx

/-- A specification whose reads, results and flags are those that 07 describes. -/
structure CrossSpec.Agrees (sp : CrossSpec) (c : Cross) : Prop where
  dst : sp.dst = c.dst
  srcs : sp.srcs = c.srcs
  noUniform : sp.noUniform = c.noUni
  reads : sp.reads = true → ∃ o pm n cf, SrcSpec.reg o pm n cf ∈ c.srcs ∧ opIsClk o = true
  read : ∀ {s u v : State} {g g' : Group} {is : Issue}, is.key = s.cur → s.Holds u g → (s.group s.cur).ReadsAs g → s.Holds v g' →
    (s.group s.cur).ReadsAs g' → ∀ t, sp.rd is u v t = c.src is s t
  results : ∀ s, (sp.f (contributions c s)).map (fun o => (o.t, o.x)) = (contributions c s).map (fun p => (p.1, c.res (contributions c s) p.1))
  flags : ∀ s, (sp.f (contributions c s)).foldl (fun fl o => fl ||| o.fl) 0 = c.fl (contributions c s)

section
variable {pcl : Cls} {s : State} {is : Issue} {r : Gathered}

theorem CrossSpec.body_perThread (sp : CrossSpec) (hd : sp.dst.isUniform = false)
    (hr : gather (s.effClass is pcl .lane) is s sp.reads (sp.rd is) is.ex s = some r) :
    sp.body pcl s is = .done (deliver (s.effClass is pcl .lane) is sp.dst sp.twoPass (sp.f r.parts) r.s) := by
  unfold CrossSpec.body
  dsimp only
  rw [hr]
  simp [hd]

theorem CrossSpec.body_uniform (sp : CrossSpec) (hd : sp.dst.isUniform = true)
    (hr : gather (s.effClass is pcl .lane) is s sp.reads (sp.rd is) is.ex s = some r) {o : CrossOut} {os : List CrossOut} (ho : sp.f r.parts = o :: os) :
    sp.body pcl s is = .done (deliverOnce (s.effClass is pcl .lane) is sp.dst o.x ((o :: os).foldl (fun fl o => fl ||| o.fl) 0)
      ((o :: os).map (·.t)) r.s) := by
  unfold CrossSpec.body
  dsimp only
  rw [hr]
  simp [hd, ho]

end

section
variable {i : Instr} {c : Cross} {s : State} (hclear : crossClear i c s = true)
include hclear

/-- An instruction of 07 that comes to the end of its body completes. -/
theorem runInstr_cross {chk : State → Issue → Option (Nat × Nat)} {body : State → Issue → Ran} (hc : chk s (s.issue c.h 8) = none)
    (hb : ∃ w, body (begun c.h 8 s) (s.issue c.h 8) = .done w ∧ s.Holds w (crossGroup c s (s.group s.cur))) :
    runInstr c.h 8 chk body s = .next (afterGroup s (closed c.h s (crossGroup c s (s.group s.cur)))) := by
  obtain ⟨hready, -⟩ := crossClear_spec hclear
  obtain ⟨hg, hex, -⟩ := ready_iff.mp hready
  obtain ⟨w, hw, hh⟩ := hb
  have hlive : (crossGroup c s (s.group s.cur)).live ≠ [] :=
    (crossGroup_live c s _).symm ▸ List.ne_nil_of_mem (State.live_of_mem_ex (State.issue_lowest_mem hex))
  have hpend : (crossGroup c s (s.group s.cur)).pend = (s.group s.cur).pend := by
    unfold crossGroup
    dsimp only
    split <;> rfl
  rw [runInstr_eq hg hex hc, Ran.finish_done hw, hh.complete_eq hpend hlive c.h rfl]
  rfl

theorem CrossSpec.Agrees.check_eq {sp : CrossSpec} (h : sp.Agrees c) : sp.check s (s.issue c.h 8) = none := by
  obtain ⟨-, -, huni, hdst, hsrcs, -⟩ := crossClear_spec hclear
  unfold CrossSpec.check
  rw [h.dst, h.noUniform, h.srcs, huni]
  simp only [Bool.false_eq_true, if_false, ite_eq_right_iff, Bool.or_eq_true, List.any_eq_true]
  rintro (hout | ⟨x, hx, hout⟩) <;> split at hout
  · next e => exact absurd ((hdst _ _ e).symm.trans hout) Bool.false_ne_true
  · cases hout
  · exact absurd ((hsrcs _ _ _ _ hx).1.symm.trans hout) Bool.false_ne_true
  · cases hout

/-- The read pass and then the results. -/
theorem CrossSpec.Agrees.body_done {sp : CrossSpec} (h : sp.Agrees c) :
    ∃ w, sp.body c.h.pcl (begun c.h 8 s) (s.issue c.h 8) = .done w ∧ s.Holds w (crossGroup c s (s.group s.cur)) := by
  obtain ⟨hready, -, -, -, hsrcs, hpois⟩ := crossClear_spec hclear
  obtain ⟨hg, hex, hvotes, -⟩ := ready_iff.mp hready
  have hu := State.begun_holds hg c.h 8
  have hr : (s.group s.cur).ReadsAs ((s.issue c.h 8).past (s.group s.cur)) := Group.readsAs_advance _ _ _
  have hclk : sp.reads = false := Bool.eq_false_iff.mpr (fun hreads => by
    obtain ⟨o, pm, n, cf, hx, ho⟩ := h.reads hreads
    simp [(hsrcs o pm n cf hx).2] at ho)
  obtain ⟨v, hv, hh⟩ := State.Holds.gather (is := s.issue c.h 8) rfl hvotes ((begun c.h 8 s).effClass (s.issue c.h 8) c.h.pcl .lane)
    (rd := sp.rd (s.issue c.h 8)) (fun _ _ hv hr' => h.read rfl hu hr hv hr') hpois hu hr
  rw [← hclk] at hv
  cases hd : c.dst.isUniform with
  | false => exact ⟨_, sp.body_perThread (h.dst ▸ hd) hv, h.dst ▸ hh.deliver_crossGroup hvotes _ hd _ (h.results s) (h.flags s)⟩
  | true =>
    have hlow : (contributions c s).head? = some ((s.issue c.h 8).lowest, (c.src (s.issue c.h 8) s (s.issue c.h 8).lowest).val) := by
      obtain ⟨t, ts, e⟩ := List.exists_cons_of_ne_nil hex
      simp [contributions, Issue.lowest, e]
    have ho := congrArg List.head? (h.results s)
    rw [List.head?_map, List.head?_map, hlow] at ho
    obtain ⟨o, os, e⟩ : ∃ o os, sp.f (contributions c s) = o :: os := by
      cases e : sp.f (contributions c s) with
      | nil => simp [e] at ho
      | cons o os => exact ⟨o, os, rfl⟩
    have hx : o.x = c.res (contributions c s) (s.issue c.h 8).lowest := by
      rw [e, List.head?_cons, Option.map_some, Option.map_some, Option.some.injEq] at ho
      exact congrArg Prod.snd ho
    refine ⟨_, sp.body_uniform (h.dst ▸ hd) hv e, ?_⟩
    rw [h.dst, hx, ← e, h.flags s]
    exact hh.deliverOnce_crossGroup hvotes _ hd _

/-- What runs such a specification does what 07 describes. -/
theorem runCross_eq {sp : CrossSpec} (h : sp.Agrees c) :
    runCross c.h sp s = .next (afterGroup s (closed c.h s (crossGroup c s (s.group s.cur)))) :=
  runInstr_cross hclear (h.check_eq hclear) (h.body_done hclear)

end

/-- An instruction runs a specification that does what 07 describes. -/
def RunsAs (i : Instr) (c : Cross) : Prop := ∃ sp : CrossSpec, (∀ s, exec i s = runCross c.h sp s) ∧ sp.Agrees c

theorem RunsAs.exec_eq {i : Instr} {c : Cross} (h : RunsAs i c) {s : State} (hclear : crossClear i c s = true) :
    exec i s = .next (afterGroup s (closed c.h s (crossGroup c s (s.group s.cur)))) := by
  obtain ⟨sp, he, ha⟩ := h
  rw [he]
  exact runCross_eq hclear ha

end Sys2Proof.Machine
end

section
/-!
SUPPORT. The cross-thread instructions one by one (07 R209 to R214), and the statement about them.
-/
namespace Sys2Proof.Machine
open Sys2Proof Sys2Proof.Claims

/-! ## Results without flags (07 R207, R209, R210, R212) -/

theorem foldl_no_flags {os : List CrossOut} (h : ∀ o ∈ os, o.fl = 0) : os.foldl (fun fl o => fl ||| o.fl) 0 = 0 := by
  induction os with
  | nil => rfl
  | cons o os ih =>
    rw [List.foldl_cons, h o List.mem_cons_self]
    exact ih (fun o ho => h o (List.mem_cons_of_mem _ ho))

theorem foldl_plain_flags (ps : List (Nat × Nat)) : (ps.map CrossOut.plain).foldl (fun fl o => fl ||| o.fl) 0 = 0 :=
  foldl_no_flags (fun o ho => by obtain ⟨p, -, rfl⟩ := List.mem_map.mp ho; rfl)

theorem foldl_toAll_flags (g : List Nat → Nat) (ps : List (Nat × Nat)) : (toAll g ps).foldl (fun fl o => fl ||| o.fl) 0 = 0 :=
  foldl_no_flags (fun o ho => by obtain ⟨p, -, rfl⟩ := List.mem_map.mp ho; rfl)

theorem map_plain (ps : List (Nat × Nat)) : (ps.map CrossOut.plain).map (fun o => (o.t, o.x)) = ps := by
  rw [List.map_map]
  exact List.map_id ps

/-- A common result is each participant's. -/
theorem toAll_results {g : List Nat → Nat} {ps : List (Nat × Nat)} {x : Nat} (h : g (ps.map (·.2)) = x) :
    (toAll g ps).map (fun o => (o.t, o.x)) = ps.map (fun p => (p.1, x)) := by
  subst h
  exact List.map_map

/-- VOTE's four modes (07 R209). -/
theorem voteFn_eq_res {f : F2} {c : Cross} (h : crossOf (.vote f) = some c) (ps : List (Nat × Nat)) (t : Nat) :
    voteFn f.sub.val (ps.map (·.2)) = c.res ps t := by
  have hnone : ps.all (fun p => decide (p.2 ≠ 1)) = !ps.any (fun p => decide (p.2 = 1)) := by simp [List.not_any_eq_all_not]
  have hevery : (ps.map (·.2)).all (fun x => decide (x = 1)) = ps.all (fun p => decide (p.2 = 1)) := List.all_map
  have hsome : (ps.map (·.2)).any (fun x => decide (x = 1)) = ps.any (fun p => decide (p.2 = 1)) := List.any_map
  unfold voteFn
  rw [hevery, hsome]
  dsimp only
  rw [← hnone]
  cases h
  rfl

/-! ## The instructions with a read of their own (07 R209 to R212) -/

section
variable {f : F2} {c : Cross}

theorem runsAs_vote (h : crossOf (.vote f) = some c) : RunsAs (.vote f) c := by
  have hres := voteFn_eq_res h
  cases h
  exact ⟨_, fun _ => rfl, {
    dst := rfl
    srcs := rfl
    noUniform := rfl
    reads := Bool.false_ne_true.elim
    read := fun hk hu hr _ _ t => hu.srcOf_eq hr hk t (.pred (opNum f.a))
    results := fun s => toAll_results (hres _ 0)
    flags := fun s => foldl_toAll_flags _ _ }⟩

theorem runsAs_ballot (h : crossOf (.ballot f) = some c) : RunsAs (.ballot f) c := by
  cases h
  exact ⟨_, fun _ => rfl, {
    dst := rfl
    srcs := rfl
    noUniform := rfl
    reads := Bool.false_ne_true.elim
    read := fun hk hu hr _ _ t => hu.srcOf_eq hr hk t (.pred (opNum f.a))
    results := fun s => toAll_results (g := fun _ => ballotFn _) rfl
    flags := fun s => foldl_toAll_flags (fun _ => ballotFn _) _ }⟩

theorem runsAs_matchT (h : crossOf (.matchT f) = some c) : RunsAs (.matchT f) c := by
  cases h
  exact ⟨_, fun _ => rfl, {
    dst := rfl
    srcs := rfl
    noUniform := rfl
    reads := fun ho => ⟨_, _, _, _, List.mem_singleton_self _, ho⟩
    read := fun hk hu hr _ _ t => hu.srcOf_eq hr hk t (.reg f.a 0 (tyWords f.ty) (tyC f.ty))
    results := fun s => (map_plain _).trans (matchFn_eq (contributions_ascending _ s) _)
    flags := fun s => foldl_plain_flags _ }⟩

/-- What a participant contributes by a predicate is a bit. -/
theorem contributions_pred {n : Nat} (hsrc : c.src = fun is s t => s.srcOf is t (.pred n)) (s : State) :
    ∀ p ∈ contributions c s, p.2 = 0 ∨ p.2 = 1 := by
  intro p hp
  obtain ⟨t, -, rfl⟩ := List.mem_map.mp hp
  rw [hsrc]
  show (if _ then 1 else 0) = 0 ∨ (if _ then 1 else 0) = 1
  split <;> simp

theorem runsAs_rank (h : crossOf (.rank f) = some c) : RunsAs (.rank f) c := by
  cases h
  exact ⟨_, fun _ => rfl, {
    dst := rfl
    srcs := rfl
    noUniform := rfl
    reads := Bool.false_ne_true.elim
    read := fun hk hu hr _ _ t => hu.srcOf_eq hr hk t (.pred (opNum f.a))
    results := fun s => (map_plain _).trans (rankFn_eq [] _ (contributions_ascending _ s) (contributions_pred rfl s))
    flags := fun s => foldl_plain_flags _ }⟩

/-- The folds share all but the value that a participant is given of the steps. -/
theorem specFold_agrees {noUni twoPass : Bool} {g : List FoldStep → FoldStep → Nat} {res : List (Nat × Nat) → Nat → Nat}
    (hres : ∀ ps : List (Nat × Nat), ps.Pairwise (fun p q => p.1 < q.1) → (foldParts f.sub f.ty f.rnd none ps).map
      (fun r => (r.t, g (foldParts f.sub f.ty f.rnd none ps) r)) = ps.map (fun p => (p.1, res ps p.1))) :
    (specFold f noUni twoPass g).Agrees ⟨f.h, .reg f.d (tyWords f.ty), noUni, [.reg f.a 0 (tyWords f.ty) (tyC f.ty)],
      fun is s t => s.srcOf is t (.reg f.a 0 (tyWords f.ty) (tyC f.ty)), res, fun ps => runFlags f (ps.map (·.2))⟩ where
  dst := rfl
  srcs := rfl
  noUniform := rfl
  reads := fun ho => ⟨_, _, _, _, List.mem_singleton_self _, ho⟩
  read := fun hk hu hr _ _ t => hu.srcOf_eq hr hk t (.reg f.a 0 (tyWords f.ty) (tyC f.ty))
  results := fun _ => List.map_map.trans (hres _ (contributions_ascending ..))
  flags := fun _ => List.foldl_map.trans (foldParts_none_flags f _)

theorem runsAs_scani (h : crossOf (.scani f) = some c) : RunsAs (.scani f) c := by
  cases h
  exact ⟨_, fun _ => rfl, specFold_agrees (map_foldParts f (fun _ after => after) [])⟩

theorem runsAs_scanx (h : crossOf (.scanx f) = some c) : RunsAs (.scanx f) c := by
  cases h
  exact ⟨_, fun _ => rfl, specFold_agrees (map_foldParts f (fun before _ => before) [])⟩

theorem runsAs_redg (h : crossOf (.redg f) = some c) : RunsAs (.redg f) c := by
  cases h
  refine ⟨_, fun _ => rfl, specFold_agrees (fun ps hps => ?_)⟩
  by_cases hne : ps = []
  · subst hne
    rfl
  · rw [foldEnd_foldParts f hne]
    exact map_foldParts f (fun _ _ => runValue f (ps.map (·.2))) [] ps hps

end

/-! ## Routed reads (07 R213, R214) -/

section
variable {s u v : State} {g g' : Group} {is : Issue} (hk : is.key = s.cur) (hu : s.Holds u g) (hr : (s.group s.cur).ReadsAs g)
  (hv : s.Holds v g') (hr' : (s.group s.cur).ReadsAs g')
include hk hu hr hv hr'

theorem State.Holds.routedRead_eq (t j : Nat) (o : Opnd) (n : Nat) (cf : CFmt) : routedRead is u v t j o n cf = routedRead is s s t j o n cf := by
  unfold routedRead
  rw [hk, hv.group_eq, hr'.st, hu.source_eq hr hk]

end

/-- SHFL's passes (07 R213), which `exec_shfl` finds in the model. -/
def specShfl (f : F2) : CrossSpec :=
  { dst := .reg f.d (tyWords f.ty), srcs := [.reg f.a 0 (tyWords f.ty) (tyC f.ty), .reg f.b 0 1 .w], noUniform := true, twoPass := false,
    reads := opIsClk f.a || opIsClk f.b,
    rd := fun is s0 s t =>
      let b := s0.source is t f.b 0 1 .w
      if b.pois then b else routedRead is s0 s t (shflSrc f.sub.val t b.val) f.a (tyWords f.ty) (tyC f.ty),
    f := fun ps => ps.map CrossOut.plain }

theorem specShfl_agrees {f : F2} {c : Cross} (h : crossOf (.shfl f) = some c) : (specShfl f).Agrees c := by
  cases h
  exact {
    dst := rfl
    srcs := rfl
    noUniform := rfl
    reads := fun ho => by
      rcases Bool.or_eq_true_iff.mp ho with ho | ho
      · exact ⟨_, _, _, _, List.mem_cons_self, ho⟩
      · exact ⟨_, _, _, _, List.mem_cons_of_mem _ List.mem_cons_self, ho⟩
    read := fun hk hu hr hv hr' t => by
      simp only [specShfl, hu.source_eq hr hk, hu.routedRead_eq hk hr hv hr']
    results := fun s => (map_plain _).trans (map_lookup (contributions_ascending _ s)).symm
    flags := fun s => foldl_plain_flags _ }

theorem exec_shfl (f : F2) (s : State) : exec (.shfl f) s = runInstr f.h 8 (fun s is => if (specShfl f).dst.isUniform then some (0x06, 0)
    else if shflOverlap f then some (0x07, 0) else (specShfl f).check s is) ((specShfl f).body f.h.pcl) s := rfl

theorem exec_shfl_eq {f : F2} {c : Cross} {s : State} (h : crossOf (.shfl f) = some c) (hclear : crossClear (.shfl f) c s = true) :
    exec (.shfl f) s = .next (afterGroup s (closed c.h s (crossGroup c s (s.group s.cur)))) := by
  have hag := specShfl_agrees h
  obtain ⟨-, hover, huni, -⟩ := crossClear_spec hclear
  have hcheck := hag.check_eq hclear
  have hbody := hag.body_done hclear
  cases h
  have huni : (specShfl f).dst.isUniform = false := (Bool.and_true _).symm.trans huni
  have hover : shflOverlap f = false := hover
  rw [exec_shfl]
  refine runInstr_cross hclear ?_ hbody
  rw [huni, hover]
  exact hcheck

/-- PICK's description, by index or first (07 R214). -/
def crossPick (f : F2) (first : Bool) : Cross :=
  crossOf.pickOf f (fun is s => if first then is.lowest else (s.source is is.lowest f.b 0 1 .w).val % 32)

/-- The routed read that all participants of a PICK share. -/
def pickRead (f : F2) (first : Bool) (is : Issue) (s : State) : Src :=
  let b := s.source is is.lowest f.b 0 1 .w
  if b.pois then b else routedRead is s s is.lowest (if first then is.lowest else b.val % 32) f.a (tyWords f.ty) (tyC f.ty)

theorem State.Holds.pickRead_eq {s u : State} {g : Group} {is : Issue} (hk : is.key = s.cur) (hu : s.Holds u g) (hr : (s.group s.cur).ReadsAs g)
    (f : F2) (first : Bool) : pickRead f first is u = pickRead f first is s := by
  unfold pickRead
  simp only [hu.source_eq hr hk, hu.routedRead_eq hk hr hu hr]

/-- The body of a PICK whose read is neither poisoned nor of the clock (07 R214). -/
theorem pickBody_eq {f : F2} {first : Bool} {s : State} {is : Issue} {v : Src} (hvotes : s.env.votes = []) (hclk : opIsClk f.a = false)
    (hv : pickRead f first is s = v) (hp : v.pois = false) :
    pickBody f first s is = .done (if opIsUniform f.d
      then deliverOnce (s.effClass is f.h.pcl .lane) is (.reg f.d (tyWords f.ty)) v.val 0 is.ex (s.deadRead is.key v.dead)
      else deliver (s.effClass is f.h.pcl .lane) is (.reg f.d (tyWords f.ty)) true (is.ex.map (fun t => ⟨t, v.val, 0⟩)) (s.deadRead is.key v.dead)) := by
  have hsame : ∀ c t, s.verdict c t = .same := fun c t => by simp [State.verdict, hvotes]
  subst hv
  unfold pickRead at hp
  unfold pickBody pickRead
  simp only [State.clockRecord, hclk, Bool.not_false, if_true, hp, hsame, Bool.false_eq_true, if_false]
  exact (apply_ite Ran.done _ _ _).symm

theorem crossPick_res (f : F2) (first : Bool) {s : State} {t : Nat} (ht : t ∈ (s.issue f.h 8).ex) :
    (crossPick f first).res (contributions (crossPick f first) s) t = (pickRead f first (s.issue f.h 8) s).val :=
  congrArg (fun x : Option Nat => x.getD 0)
    (lookup_of_mem (p := (t, _)) (contributions_ascending _ s) (List.mem_map_of_mem (f := fun t => (t, ((crossPick f first).src (s.issue f.h 8) s t).val)) ht))

theorem crossPick_dead (f : F2) (first : Bool) {s : State} (hex : (s.issue f.h 8).ex ≠ []) :
    crossDead (crossPick f first) s = (pickRead f first (s.issue f.h 8) s).dead := by
  obtain ⟨t, ts, e⟩ := List.exists_cons_of_ne_nil hex
  have h : crossDead (crossPick f first) s = (s.issue f.h 8).ex.any (fun _ => (pickRead f first (s.issue f.h 8) s).dead) := rfl
  rw [h, e]
  simp

/-- PICK reads once, and all participants take what it read (07 R214). -/
theorem exec_pick_eq {i : Instr} {f : F2} {first : Bool} {s : State} (hclear : crossClear i (crossPick f first) s = true) (hv : opVaries f.b = false) :
    runInstr f.h 8 (pickCheck f) (pickBody f first) s
      = .next (afterGroup s (closed f.h s (crossGroup (crossPick f first) s (s.group s.cur)))) := by
  obtain ⟨hready, -, -, hdst, hsrcs, hpois⟩ := crossClear_spec hclear
  obtain ⟨hg, hex, hvotes, -⟩ := ready_iff.mp hready
  have hu := State.begun_holds hg f.h 8
  have hr : (s.group s.cur).ReadsAs ((s.issue f.h 8).past (s.group s.cur)) := Group.readsAs_advance _ _ _
  have hlow := State.issue_lowest_mem hex
  have hbody := pickBody_eq (first := first) (is := s.issue f.h 8) (hu.env_eq ▸ hvotes) (hsrcs _ _ _ _ List.mem_cons_self).2
    (hu.pickRead_eq rfl hr f first) (hpois _ hlow)
  have hw := hu.deadRead (crossDead (crossPick f first) s)
  rw [← crossPick_dead f first hex] at hbody
  refine runInstr_cross hclear ?check ⟨_, hbody, ?_⟩
  case check =>
    have hd := hdst f.d (tyWords f.ty) rfl
    have ha := (hsrcs f.a _ _ _ List.mem_cons_self).1
    have hb := (hsrcs f.b _ _ _ (List.mem_cons_of_mem _ List.mem_cons_self)).1
    simp only [pickCheck, hv, show (s.issue (crossPick f first).h 8).key = s.cur from rfl, hd, ha, hb, Bool.or_false, Bool.false_eq_true, if_false]
  split
  · next hd =>
    rw [← crossPick_res f first hlow]
    exact hw.deliverOnce_crossGroup (c := crossPick f first) hvotes _ hd _
  · next hd =>
    refine hw.deliver_crossGroup (c := crossPick f first) hvotes _ (Bool.eq_false_iff.mpr hd) true ?_ (foldl_no_flags (fun o ho => ?_))
    · rw [contributions, List.map_map, List.map_map]
      exact List.map_congr_left (fun t ht => congrArg (Prod.mk t) (crossPick_res f first ht).symm)
    · obtain ⟨t, -, rfl⟩ := List.mem_map.mp ho
      rfl

/-- Settles O17: the read pass, the results from all contributions, and the write pass. -/
theorem crossThreadComplete : Obligations.CrossThreadComplete := by
  intro i c s hi hclear
  cases i with
  | vote f => exact (runsAs_vote hi).exec_eq hclear
  | ballot f => exact (runsAs_ballot hi).exec_eq hclear
  | matchT f => exact (runsAs_matchT hi).exec_eq hclear
  | rank f => exact (runsAs_rank hi).exec_eq hclear
  | scani f => exact (runsAs_scani hi).exec_eq hclear
  | scanx f => exact (runsAs_scanx hi).exec_eq hclear
  | redg f => exact (runsAs_redg hi).exec_eq hclear
  | shfl f => exact exec_shfl_eq hi hclear
  | pick f =>
    obtain rfl := Option.some.inj hi
    obtain ⟨-, hv, -⟩ := crossClear_spec hclear
    exact exec_pick_eq (first := false) hclear hv
  | pickFirst f =>
    obtain rfl := Option.some.inj hi
    obtain ⟨-, hv, -⟩ := crossClear_spec hclear
    exact exec_pick_eq (first := true) hclear hv
  | _ => cases hi

end Sys2Proof.Machine
end
